-- ==== Sys2Proof/Word.lean ====
section
/-! DEFINITION. The machine's word types (00 R4, R8): 64-bit registers, bytes, 32-bit code parcels. -/

namespace Sys2Proof

/-- A g register, a w register, an address before it is checked (00 R8). -/
abbrev Word := BitVec 64

/-- One byte of memory (00 R4). -/
abbrev Byte := BitVec 8

/-- One 32-bit code parcel (09 R134). -/
abbrev Parcel := BitVec 32

end Sys2Proof
end

