-- ==== Sys2Proof/Machine/Bits.lean ====
section
/-! DEFINITION. Fields of words, sign extension and byte order (00 R4, R7): the arithmetic helpers every other file uses. -/

namespace Sys2Proof.Machine

/-- x[hi:lo] as a number (00 R4). -/
def field (x : Nat) (hi lo : Nat) : Nat := (x >>> lo) % 2 ^ (hi + 1 - lo)

/-- x[n] as a truth value (00 R4). -/
def bitOf (x n : Nat) : Bool := x.testBit n

/-- Sext(x, n): x[n-1:0] read as two's complement (00 R7). -/
def sext (x n : Nat) : Int :=
  let y := x % 2 ^ n
  if 2 * y < 2 ^ n then (y : Int) else (y : Int) - (2 ^ n : Nat)

/-- An exact integer assigned to an n-bit destination keeps bits [n-1:0] (00 R6). -/
def keep (x : Int) (n : Nat) : Nat := (x % ((2 ^ n : Nat) : Int)).toNat

/-- Sat(x, lo, hi) with whether it clipped (00 R7). -/
def satInt (x lo hi : Int) : Int × Bool :=
  if x < lo then (lo, true) else if hi < x then (hi, true) else (x, false)

/-- The bytes of a value, lowest address first (00 R4). -/
def leBytes : Nat → Nat → List Byte
  | 0, _ => []
  | n + 1, v => BitVec.ofNat 8 v :: leBytes n (v / 256)

/-- The value of bytes, lowest address first (00 R4). -/
def leValue : List Byte → Nat
  | [] => 0
  | b :: bs => b.toNat + 256 * leValue bs

/-- Number of one bits among the low `n` bits. -/
def popcount : Nat → Nat → Nat
  | 0, _ => 0
  | n + 1, x => x % 2 + popcount n (x / 2)

/-- Leading zero bits of the low `n` bits. -/
def clzN (n x : Nat) : Nat :=
  let y := x % 2 ^ n
  if y = 0 then n else n - 1 - y.log2

/-- Trailing zero bits of the low `n` bits, `n` when all are zero. -/
def ctzN : Nat → Nat → Nat
  | 0, _ => 0
  | n + 1, x => if x % 2 = 1 then 0 else 1 + ctzN n (x / 2)

/-- Rounds up to a multiple of `m`. -/
def alignUp (x m : Nat) : Nat := (x + m - 1) / m * m

/-- The positions below `n` that satisfy `p`, in order. -/
def positions (n : Nat) (p : Nat → Bool) : List Nat := (List.range n).filter p

end Sys2Proof.Machine
end

