-- ==== Sys2Proof/Machine/Formats.lean ====
section
/-! DEFINITION. Number formats and Round (05 R68 to R79, R81): encodings, exact values, one rounding. -/

namespace Sys2Proof.Machine

/-- The seven flags of FFLAGS, bit 6 IS down to bit 0 NV (05 R85). -/
abbrev Flags := BitVec 7

/-- The floating-point formats of 05 R70. -/
inductive FType where
  | f64 | f32 | f16 | bf16 | e4m3 | e5m2 | e3m2 | e2m3 | e2m1
  deriving DecidableEq, Repr

/-- Exponent bits e (R70). -/
def FType.ebits : FType → Nat
  | .f64 => 11 | .f32 => 8 | .f16 => 5 | .bf16 => 8 | .e4m3 => 4 | .e5m2 => 5 | .e3m2 => 3 | .e2m3 => 2 | .e2m1 => 2

/-- Mantissa bits m (R70). -/
def FType.mbits : FType → Nat
  | .f64 => 52 | .f32 => 23 | .f16 => 10 | .bf16 => 7 | .e4m3 => 3 | .e5m2 => 2 | .e3m2 => 2 | .e2m3 => 3 | .e2m1 => 1

/-- Bias B (R70). -/
def FType.bias : FType → Nat
  | .f64 => 1023 | .f32 => 127 | .f16 => 15 | .bf16 => 127 | .e4m3 => 7 | .e5m2 => 15 | .e3m2 => 3 | .e2m3 => 1 | .e2m1 => 1

/-- Bits of an encoding: 1 + e + m (R70). -/
def FType.bits (f : FType) : Nat := 1 + f.ebits + f.mbits

/-- Formats with infinities (R70). -/
def FType.hasInf : FType → Bool
  | .f64 | .f32 | .f16 | .bf16 | .e5m2 => true
  | _ => false

/-- The canonical NaN of a format, if it has one (R71). -/
def FType.nan : FType → Option Nat
  | .f64 => some 0x7FF8000000000000 | .f32 => some 0x7FC00000 | .f16 => some 0x7E00
  | .bf16 => some 0x7FC0 | .e4m3 => some 0x7F | .e5m2 => some 0x7E
  | _ => none

/-- The encoding of +M, the largest finite value (R70). -/
def FType.maxEnc : FType → Nat
  | .f64 => 0x7FEFFFFFFFFFFFFF | .f32 => 0x7F7FFFFF | .f16 => 0x7BFF | .bf16 => 0x7F7F
  | .e4m3 => 0x7E | .e5m2 => 0x7B | .e3m2 => 0x1F | .e2m3 => 0x1F | .e2m1 => 0x7

/-- The sign bit of an encoding, placed. -/
def FType.signed (f : FType) (neg : Bool) (mag : Nat) : Nat :=
  if neg then mag + 2 ^ (f.bits - 1) else mag

/-- The encoding of an infinity, all exponent bits one and M = 0 (R70). -/
def FType.inf (f : FType) (neg : Bool) : Nat := f.signed neg ((2 ^ f.ebits - 1) * 2 ^ f.mbits)

/-- A value read from an encoding: a NaN, an infinity, or (-1)^neg × mant × 2^exp (R70, R71). -/
inductive FVal where
  | nan (signalling : Bool)
  | inf (neg : Bool)
  | fin (neg : Bool) (mant : Nat) (exp : Int)
  deriving DecidableEq, Repr

/-- The value of an encoding (R70, R71); bits above the format are ignored. -/
def FType.value (f : FType) (x : Nat) : FVal :=
  let neg := bitOf x (f.bits - 1)
  let M := x % 2 ^ f.mbits
  let E := (x >>> f.mbits) % 2 ^ f.ebits
  let allOnes := E == 2 ^ f.ebits - 1
  if allOnes && f.hasInf then
    if M = 0 then .inf neg else .nan (!bitOf M (f.mbits - 1))
  else if f = .e4m3 && allOnes && M == 7 then .nan false
  else if E = 0 then .fin neg M (1 - (f.bias : Int) - (f.mbits : Int))
  else .fin neg (M + 2 ^ f.mbits) ((E : Int) - (f.bias : Int) - (f.mbits : Int))

def FVal.isNan : FVal → Bool
  | .nan _ => true
  | _ => false

def FVal.isSnan : FVal → Bool
  | .nan s => s
  | _ => false

def FVal.isZero : FVal → Bool
  | .fin _ m _ => m == 0
  | _ => false

def FVal.isInf : FVal → Bool
  | .inf _ => true
  | _ => false

def FVal.sign : FVal → Bool
  | .nan _ => false
  | .inf s => s
  | .fin s _ _ => s

/-- The value with its sign inverted. -/
def FVal.negate : FVal → FVal
  | .nan s => .nan s
  | .inf s => .inf (!s)
  | .fin s m e => .fin (!s) m e

/-- An integer as an exact value. -/
def FVal.ofInt (x : Int) : FVal := .fin (decide (x < 0)) x.natAbs 0

/-- The five rounding modes (R76). -/
inductive RoundMode where
  | rne | rtz | rup | rdn | rsr
  deriving DecidableEq, Repr

/-- FMODE.RM (R76, R83); the reserved values are never held. -/
def roundModeOf : Nat → Option RoundMode
  | 0 => some .rne | 1 => some .rtz | 2 => some .rup | 3 => some .rdn | 4 => some .rsr
  | _ => none

/-- Where rsr is not honoured, it rounds as rne (R80). -/
def RoundMode.noRsr : RoundMode → RoundMode
  | .rsr => .rne
  | m => m

/-- A mode with the 24 random bits that rsr compares (R81). -/
structure Rounding where
  mode : RoundMode
  rand : Nat
  deriving DecidableEq, Repr

/-- Rounding to nearest, ties to even. -/
def rneR : Rounding := ⟨.rne, 0⟩

def fNV : Flags := 1#7
def fDZ : Flags := 2#7
def fOF : Flags := 4#7
def fUF : Flags := 8#7
def fNX : Flags := 16#7
def fNQ : Flags := 32#7
def fIS : Flags := 64#7

def flagIf (c : Bool) (f : Flags) : Flags := if c then f else 0#7

/-- Whether the magnitude k + rem/den, 0 < rem < den, is rounded away from zero (R76, R81). -/
def roundAway (r : Rounding) (neg : Bool) (k rem den : Nat) : Bool :=
  match r.mode with
  | .rne => decide (den < 2 * rem) || (2 * rem == den && k % 2 == 1)
  | .rtz => false
  | .rup => !neg
  | .rdn => neg
  | .rsr =>
    if neg then !decide (r.rand < (den - rem) * 2 ^ 24 / den)
    else decide (r.rand < rem * 2 ^ 24 / den)

/-- num/den × 2^exp in units of 2^q, as a fraction of natural numbers. -/
def inUnits (num den : Nat) (exp q : Int) : Nat × Nat :=
  if q ≤ exp then (num * 2 ^ (exp - q).toNat, den) else (num, den * 2 ^ (q - exp).toNat)

/-- Rounds num/den × 2^exp to a multiple of 2^q: the multiple and whether it is inexact (R76). -/
def roundUnits (r : Rounding) (neg : Bool) (num den : Nat) (exp q : Int) : Nat × Bool :=
  let (n, d) := inUnits num den exp q
  let k := n / d
  let rem := n % d
  if rem = 0 then (k, false) else (if roundAway r neg k rem d then k + 1 else k, true)

/-- floor(log2(num/den)) for positive num and den. -/
def ratioLog2 (num den : Nat) : Int :=
  let l : Int := (num.log2 : Int) - (den.log2 : Int)
  let ge := if 0 ≤ l then decide (den * 2 ^ l.toNat ≤ num) else decide (den ≤ num * 2 ^ (-l).toNat)
  if ge then l else l - 1

/-- The encoding after an overflow (R77). -/
def overflowEnc (f : FType) (r : Rounding) (neg : Bool) : Nat :=
  let toInf := f.hasInf && (match r.mode with
    | .rne | .rsr => true
    | .rtz => false
    | .rup => !neg
    | .rdn => neg)
  if toInf then f.inf neg else f.signed neg f.maxEnc

/-- c × 2^q, c at most 2^(m+1), as an encoding without sign (R70). -/
def encodeUnits (f : FType) (c : Nat) (q : Int) : Nat :=
  let m := f.mbits
  if c < 2 ^ m then c
  else
    let (c', q') := if c = 2 ^ (m + 1) then (2 ^ m, q + 1) else (c, q)
    (q' + (m : Int) + (f.bias : Int)).toNat * 2 ^ m + (c' - 2 ^ m)

/-- Round(±num/den × 2^exp, f, mode) with the flags raised (R76 to R78, R81); num is not 0. -/
def roundMag (f : FType) (r : Rounding) (neg : Bool) (num den : Nat) (exp : Int) : Nat × Flags :=
  let m : Int := f.mbits
  let E := ratioLog2 num den + exp
  let emin : Int := 1 - (f.bias : Int)
  let q := max (E - m) (emin - m)
  let (c, inexact) := roundUnits r neg num den exp q
  let (mk, mq) := match f.value f.maxEnc with
    | .fin _ k e => (k, e)
    | _ => (0, 0)
  let exceeds := if mq ≤ q then decide (mk < c * 2 ^ (q - mq).toNat) else decide (mk * 2 ^ (mq - q).toNat < c)
  if exceeds then (overflowEnc f r neg, fOF ||| fNX)
  else
    let (cu, _) := roundUnits r neg num den exp (E - m)
    let tiny := decide (E < emin) && !(decide (E + 1 = emin) && decide (cu = 2 ^ (f.mbits + 1)))
    (f.signed neg (encodeUnits f c q), flagIf inexact fNX ||| flagIf (inexact && tiny) fUF)

/-- Round of an exact value, with the rules for NaN and infinities of R77 and R79. -/
def roundVal (f : FType) (r : Rounding) : FVal → Nat × Flags
  | .nan s => match f.nan with
    | some n => (n, flagIf s fNV)
    | none => (f.maxEnc, fNQ ||| flagIf s fNV)
  | .inf neg => if f.hasInf then (f.inf neg, 0#7) else (f.signed neg f.maxEnc, fOF)
  | .fin neg m e => if m = 0 then (f.signed neg 0, 0#7) else roundMag f r neg m 1 e

/-- Element types: a floating format, or an integer of a signedness and width (05 R68, 00 R12). -/
inductive ElemType where
  | flt (f : FType)
  | int (signed : Bool) (w : Nat)
  deriving DecidableEq, Repr

/-- Bits of an element position in a register (05 R69): a 6-bit element occupies an 8-bit position. -/
def ElemType.width : ElemType → Nat
  | .flt .e3m2 => 8
  | .flt .e2m3 => 8
  | .flt f => f.bits
  | .int _ w => w

/-- The vector type codes of 09 R145 with SG. -/
def elemType (ty sg : Nat) : Option ElemType :=
  let s := sg == 1
  match ty with
  | 0 => if s then none else some (.flt .f32)
  | 1 => if s then none else some (.flt .bf16)
  | 2 => if s then none else some (.flt .f16)
  | 3 => if s then none else some (.flt .e4m3)
  | 4 => if s then none else some (.flt .e5m2)
  | 5 => if s then none else some (.flt .e3m2)
  | 6 => if s then none else some (.flt .e2m3)
  | 7 => if s then none else some (.flt .e2m1)
  | 8 => if s then some (.int true 8) else none
  | 9 => if s then none else some (.int false 8)
  | 10 => if s then some (.int true 4) else none
  | 11 => if s then none else some (.int false 4)
  | 12 => if s then none else some (.flt .f64)
  | 13 => some (.int s 16)
  | 14 => some (.int s 32)
  | 15 => some (.int s 64)
  | _ => none

/-- The scalar floating types of ty (09 R139). -/
def scalarFType : Nat → Option FType
  | 0 => some .f32 | 1 => some .bf16 | 2 => some .f16 | 12 => some .f64
  | _ => none

/-- The range of an integer type (05 R68). -/
def intRange (signed : Bool) (w : Nat) : Int × Int :=
  if signed then (-((2 ^ (w - 1) : Nat) : Int), ((2 ^ (w - 1) : Nat) : Int) - 1)
  else (0, ((2 ^ w : Nat) : Int) - 1)

/-- An integer element read with its signedness. -/
def readInt (signed : Bool) (w x : Nat) : Int := if signed then sext x w else ((x % 2 ^ w : Nat) : Int)

/-- Mix64 of 05 R81. -/
def mix64 (x : Word) : Word :=
  let x := (x ^^^ (x >>> 30)) * 0xBF58476D1CE4E5B9#64
  let x := (x ^^^ (x >>> 27)) * 0x94D049BB133111EB#64
  x ^^^ (x >>> 31)

/-- RandBits(e, j) of 05 R81 for a strip's SEED, VSSN and instruction count k. -/
def randBits (seed vssn : Word) (k e j : Nat) : Nat :=
  let c : Word := BitVec.ofNat 64 ((k % 256) * 2 ^ 24 + (j % 16) * 2 ^ 20 + e % 2 ^ 20)
  let z := mix64 (seed ^^^ mix64 vssn)
  field (mix64 (z ^^^ c)).toNat 63 40

end Sys2Proof.Machine
end

