-- ==== Sys2Proof/Syntax.lean ====
section
/-! DEFINITION. The instructions: one constructor per row of the opcode table. Scalar rows carry the fields of 09 R138, vector rows the fields of 09 R142, and the rows that are steps of other agents carry what names the step. -/

namespace Sys2Proof

/-- The fields of a vector instruction below its opcode (09 R142). -/
structure VFields where
  vd : BitVec 6
  vs1 : BitVec 6
  vs2 : BitVec 6
  vs3 : BitVec 6
  msk : BitVec 3
  me : Bool
  ty : BitVec 4
  fn : BitVec 24
  deriving DecidableEq, Repr, Inhabited

/-- Where an error struck (07 R130, 23 R351, R372, R373): the UNIT code of 23 R373, the physical address concerned (0
for none), the core or the control-thread slot it belongs to, and a lane, word or register index in it. UNIT 5 is the
committed vector state of the group of slot `agent`, 6 a spare register its open strip has written, 11 the state of
the control thread of slot `agent` or, from 1536 on, of a Proctor core; 4, 7 and 9 name a core, 8 a core or, from 192 on, a
die's last-level TLB. -/
structure ErrUnit where
  unit : Nat
  addr : Nat
  agent : Nat
  index : Nat
  deriving DecidableEq, Repr, Inhabited

/-- A junction sensor's reading in units of 1/256 °C (01 R31, 25 R379); die 4 is the hub die. -/
structure SensorReading where
  die : Nat
  sensor : Nat
  temp : Nat
  deriving DecidableEq, Repr, Inhabited

/-- What the outside decides at power-on (25 R381 to R384, R390, R420): the failing step's FAIL code (0: none), the
module's serial number, levels of microcode with their EMASK, what else its descriptor provides (25 R420), the PXFRAME and PXHAND values the firmware writes, the
ports whose links came up with their peers, the node and serial numbers that other modules announce (R384), whether the host
port trained with a host, and the nodes of the group whose host ports trained. -/
structure BringUp where
  fail : Nat
  serial : Word
  levels : List (BitVec 32 × BitVec 16)
  vldz : List Nat
  graphs : List Nat
  tables : List (List Nat)
  frames : List (Word × Word)
  ports : List (Nat × Nat × Bool)
  announced : List (Nat × Word)
  hostTrained : Bool
  bridges : List Nat
  deriving DecidableEq, Repr, Inhabited

/-- A remote access that arrives over the links (25 R385, R386, R388): the sending node, the group tag and key block of the system
domain it belongs to (R396), the physical address at this module, its size, and what it does. Operation 0 is a load, 1 a store, and 2 + op the
atomic of 11 R180. -/
structure RemoteRequest where
  node : Nat
  tag : Word
  keyBlock : List Byte
  addr : Nat
  size : Nat
  op : Nat
  data : Nat
  compare : Nat
  deriving DecidableEq, Repr, Inhabited

/-- A command slot of the submission ring (25 R394). -/
structure Command where
  typ : BitVec 16
  dom : BitVec 8
  flg : BitVec 8
  tgt : BitVec 16
  htag : Word
  op0 : Word
  op1 : Word
  op2 : Word
  op3 : Word
  op4 : Word
  op5 : Word
  cseq : Word
  zeros : Bool
  mac : BitVec 384
  deriving DecidableEq, Repr, Inhabited

/-- Every row of the opcode table. -/
inductive Instr where
  /-- UNDEFINED_ENCODING (R151). An encoding that no instruction defines reaches execution and raises its fault. -/
  | undefinedEncoding (first second : Parcel)
  /-- MICROCODE_OPCODE (R150). A row 0xE_ vector opcode performs as the die's microcode defines it, or raises a feature-level fault at commit. -/
  | microcodeOpcode (op : BitVec 4) (f : VFields)
  /-- CONVOY (R149). A convoy header checks the following two to six instructions and chains them. -/
  | convoy (len k0 k1 k2 k3 k4 k5 : BitVec 3)
  /-- SETVL (R207). Commits the open strip, takes a checkpoint, sets VTYPE and grants VL. -/
  | setvl (f : VFields)
  /-- VLD (R210). Loads consecutive elements from memory into a vector register. -/
  | vld (f : VFields)
  /-- VST (R210). Buffers a store of consecutive elements until commit, optionally notifying a progress word. -/
  | vst (f : VFields)
  /-- VLDS (R210). Loads elements at a scalar stride into a vector register. -/
  | vlds (f : VFields)
  /-- VSTS (R210). Buffers a strided store until commit. -/
  | vsts (f : VFields)
  /-- VLDX (R210). Gathers elements at indexed addresses into a vector register. -/
  | vldx (f : VFields)
  /-- VSTX (R210). Buffers a scatter to indexed addresses until commit. -/
  | vstx (f : VFields)
  /-- VLDZ (R214). Decodes packed-stream blocks into a vector register and sets VL and the bytes consumed. -/
  | vldz (f : VFields)
  /-- VGATHERB (R218). Checks a background gather and marks duplicates, issuing the gather at commit. -/
  | vgatherb (f : VFields)
  /-- VBIND (R215). Binds a stream register to a multidimensional sequence with position 0. -/
  | vbind (f : VFields)
  /-- VUNBIND (R217). Ends a stream register's binding or pending gather. -/
  | vunbind (f : VFields)
  /-- SBAR (R219). Orders the named streams, gathers and graphs after the strip's buffered writes. -/
  | sbar (f : VFields)
  /-- VCOPY (R220). Reads a copy descriptor and issues its copy job at commit. -/
  | vcopy (f : VFields)
  /-- VSETMF (R208). Writes MFMT, the stored encoding of vector memory accesses. -/
  | vsetmf (f : VFields)
  /-- VAMO (R222). Commits the strip, performs one atomic per active element in order, and opens a new strip. -/
  | vamo (f : VFields)
  /-- VREDM (R223). Buffers one atomic read-modify-write per active element, performed at commit. -/
  | vredm (f : VFields)
  /-- VWIN (R224). Declares the group's accumulation window and sets its bins to the identity. -/
  | vwin (f : VFields)
  /-- VACC (R225). Accumulates elements into each lane's window bins. -/
  | vacc (f : VFields)
  /-- VMERGE (R226). Folds all lanes' window copies and adds the bins into memory at commit. -/
  | vmerge (f : VFields)
  /-- VLDL (R227). Loads elements from each lane's slice. -/
  | vldl (f : VFields)
  /-- VSTL (R227). Buffers writes of elements into each lane's slice. -/
  | vstl (f : VFields)
  /-- VQPOST (R228). Checks a pigeonhole post of n entries from a vector register and posts them at commit if GEN still matches. -/
  | vqpost (f : VFields)
  /-- VADD (R236). Elementwise addition. -/
  | vadd (f : VFields)
  /-- VSUB (R236). Elementwise subtraction. -/
  | vsub (f : VFields)
  /-- VMUL (R236). Elementwise multiplication. -/
  | vmul (f : VFields)
  /-- VFMA (R236). Elementwise fused multiply-add. -/
  | vfma (f : VFields)
  /-- VFMS (R236). Elementwise fused multiply-subtract. -/
  | vfms (f : VFields)
  /-- VFNMA (R236). Elementwise negated fused multiply-add. -/
  | vfnma (f : VFields)
  /-- VFNMS (R236). Elementwise negated fused multiply-subtract. -/
  | vfnms (f : VFields)
  /-- VDIV (R236). Elementwise floating division. -/
  | vdiv (f : VFields)
  /-- VMIN (R236). Elementwise minimum. -/
  | vmin (f : VFields)
  /-- VMAX (R236). Elementwise maximum. -/
  | vmax (f : VFields)
  /-- VABS (R236). Elementwise absolute value. -/
  | vabs (f : VFields)
  /-- VNEG (R236). Elementwise negation. -/
  | vneg (f : VFields)
  /-- VSQRT (R236). Elementwise square root. -/
  | vsqrt (f : VFields)
  /-- VMULH (R236). Elementwise high half of an integer product. -/
  | vmulh (f : VFields)
  /-- VSADD (R236). Elementwise saturating addition. -/
  | vsadd (f : VFields)
  /-- VSSUB (R236). Elementwise saturating subtraction. -/
  | vssub (f : VFields)
  /-- VAND (R236). Elementwise bitwise and. -/
  | vand (f : VFields)
  /-- VOR (R236). Elementwise bitwise or. -/
  | vor (f : VFields)
  /-- VXOR (R236). Elementwise bitwise exclusive or. -/
  | vxor (f : VFields)
  /-- VSHL (R236). Elementwise left shift. -/
  | vshl (f : VFields)
  /-- VSHR (R236). Elementwise right shift. -/
  | vshr (f : VFields)
  /-- VCLZ (R236). Elementwise count of leading zero bits. -/
  | vclz (f : VFields)
  /-- VPOPC (R236). Elementwise count of one bits. -/
  | vpopc (f : VFields)
  /-- VCVT (R238). Elementwise conversion between element types. -/
  | vcvt (f : VFields)
  /-- VCMP (R239). Elementwise comparison writing a mask. -/
  | vcmp (f : VFields)
  /-- VSEL (R236). Elementwise selection by a mask. -/
  | vsel (f : VFields)
  /-- VCMUL (R240). Complex FP32 multiplication of element pairs. -/
  | vcmul (f : VFields)
  /-- VCMAC (R240). Complex FP32 multiply-accumulate of element pairs. -/
  | vcmac (f : VFields)
  /-- VMOV (R236). Elementwise copy of a source. -/
  | vmov (f : VFields)
  /-- VMAND (R241). Mask and. -/
  | vmand (f : VFields)
  /-- VMOR (R241). Mask or. -/
  | vmor (f : VFields)
  /-- VMXOR (R241). Mask exclusive or. -/
  | vmxor (f : VFields)
  /-- VMANDN (R241). Mask and-not. -/
  | vmandn (f : VFields)
  /-- VMPOP (R242). Writes the count of set mask positions to a w register. -/
  | vmpop (f : VFields)
  /-- VMFIRST (R242). Writes the lowest set mask position, or all ones, to a w register. -/
  | vmfirst (f : VFields)
  /-- VPERM (R244). Permutes elements within each die block by an index vector. -/
  | vperm (f : VFields)
  /-- VSLIDEUP (R244). Slides elements up by k within each die block. -/
  | vslideup (f : VFields)
  /-- VSLIDEDN (R244). Slides elements down by k within each die block. -/
  | vslidedn (f : VFields)
  /-- VBCAST (R244). Broadcasts element k of each die block. -/
  | vbcast (f : VFields)
  /-- VCOMPRESS (R245). Packs active elements to the low positions of each die block. -/
  | vcompress (f : VFields)
  /-- VEXPAND (R245). Spreads low elements to the active positions of each die block. -/
  | vexpand (f : VFields)
  /-- VZIP (R246). Interleaves two sources within each die block. -/
  | vzip (f : VFields)
  /-- VUNZIP (R246). Deinterleaves two sources within each die block. -/
  | vunzip (f : VFields)
  /-- VXCHG (R248). Moves a contiguous block of elements between two die positions, optionally both ways. -/
  | vxchg (f : VFields)
  /-- VREDSUM (R249). Sums each row by the fixed tree. -/
  | vredsum (f : VFields)
  /-- VREDMAX (R249). Takes the maximum of each row by the fixed tree. -/
  | vredmax (f : VFields)
  /-- VREDMIN (R249). Takes the minimum of each row by the fixed tree. -/
  | vredmin (f : VFields)
  /-- VREDAND (R249). Ands each row by the fixed tree. -/
  | vredand (f : VFields)
  /-- VREDOR (R249). Ors each row by the fixed tree. -/
  | vredor (f : VFields)
  /-- VROWSTAT (R250). Writes the sum, max, mean and variance of each row to four registers. -/
  | vrowstat (f : VFields)
  /-- VFN (R251). Evaluates a built-in or user special-function table on each active element. -/
  | vfn (f : VFields)
  /-- VTBLLD (R252). Commits the strip, loads a user table into every lane's slice, and opens a new strip. -/
  | vtblld (f : VFields)
  /-- VIDX (R237). Writes the element index plus a base to each active element. -/
  | vidx (f : VFields)
  /-- VEXTW (R253). Extracts one element into a w register. -/
  | vextw (f : VFields)
  /-- VINSW (R253). Inserts a w register value into one element. -/
  | vinsw (f : VFields)
  /-- VBANY (R254). Branches uniformly when the mask is set at some position in the fragment. -/
  | vbany (f : VFields)
  /-- VBALL (R254). Branches uniformly when the mask is set at every position in the fragment. -/
  | vball (f : VFields)
  /-- VBNONE (R254). Branches uniformly when the mask is set at no position in the fragment. -/
  | vbnone (f : VFields)
  /-- VBR_D (R255). Pushes a parked divergent fragment and narrows the fragment mask. -/
  | vbrD (f : VFields)
  /-- VJOIN (R255). Switches to the parked fragment, or rejoins both fragments and removes the entry. -/
  | vjoin (f : VFields)
  /-- VJMP (R256). Jumps in the block, always or on a comparison of two w registers. -/
  | vjmp (f : VFields)
  /-- VLOOP (R257). Starts a hardware loop with a count, or skips it when the count is zero. -/
  | vloop (f : VFields)
  /-- VENDLP (R257). Decrements a loop counter and branches back while it is nonzero. -/
  | vendlp (f : VFields)
  /-- VEND (R258). Commits the open strip and ends the block. -/
  | vend (f : VFields)
  /-- VPOSTR (R259). Posts a w register value to VREPLY, at commit inside a strip. -/
  | vpostr (f : VFields)
  /-- VWALU_ADD (R260). Adds two w operands. -/
  | vwaluAdd (f : VFields)
  /-- VWALU_SUB (R260). Subtracts two w operands. -/
  | vwaluSub (f : VFields)
  /-- VWALU_AND (R260). Ands two w operands. -/
  | vwaluAnd (f : VFields)
  /-- VWALU_OR (R260). Ors two w operands. -/
  | vwaluOr (f : VFields)
  /-- VWALU_XOR (R260). Exclusive-ors two w operands. -/
  | vwaluXor (f : VFields)
  /-- VWALU_SLL (R260). Shifts a w operand left. -/
  | vwaluSll (f : VFields)
  /-- VWALU_SRL (R260). Shifts a w operand right logically. -/
  | vwaluSrl (f : VFields)
  /-- VWALU_SRA (R260). Shifts a w operand right arithmetically. -/
  | vwaluSra (f : VFields)
  /-- VWALU_SLT (R260). Signed less-than of two w operands. -/
  | vwaluSlt (f : VFields)
  /-- VWALU_SLTU (R260). Unsigned less-than of two w operands. -/
  | vwaluSltu (f : VFields)
  /-- VWALU_MUL (R260). Multiplies two w operands, keeping the low 64 bits. -/
  | vwaluMul (f : VFields)
  /-- VWALU_MIN (R260). Signed minimum of two w operands. -/
  | vwaluMin (f : VFields)
  /-- VWALU_MAX (R260). Signed maximum of two w operands. -/
  | vwaluMax (f : VFields)
  /-- VWALU_MINU (R260). Unsigned minimum of two w operands. -/
  | vwaluMinu (f : VFields)
  /-- VWALU_MAXU (R260). Unsigned maximum of two w operands. -/
  | vwaluMaxu (f : VFields)
  /-- VWALU_RLC (R260). Reads a loop counter into a w register. -/
  | vwaluRlc (f : VFields)
  /-- VWALU_RVL (R260). Reads VL into a w register. -/
  | vwaluRvl (f : VFields)
  /-- VWALU_RSSN (R260). Reads VSSN into a w register. -/
  | vwaluRssn (f : VFields)
  /-- VWLI (R261). Loads a sign-extended 24-bit immediate into a w register. -/
  | vwli (f : VFields)
  /-- VMODE_ARR (R264). Puts the group's lanes into array mode with the grid for its lane count. -/
  | vmodeArr (f : VFields)
  /-- VMODE_VEC (R264). Returns the group to vector mode and requests array recess. -/
  | vmodeVec (f : VFields)
  /-- MOXA (R274). Queues an array operation adding the outer products of A and B to a tile. -/
  | moxa (f : VFields)
  /-- MOXS (R274). Queues an array operation subtracting the outer products of A and B from a tile. -/
  | moxs (f : VFields)
  /-- MLDW (R275). Queues an array operation loading weights into weight layout. -/
  | mldw (f : VFields)
  /-- MPASS (R276). Queues a weight-stationary pass, optionally chained between members. -/
  | mpass (f : VFields)
  /-- MWB (R277). Queues a drain of a tile into row-major registers. -/
  | mwb (f : VFields)
  /-- MWB_Q (R278). Queues a drain of a tile quantised per scaling group with scales. -/
  | mwbQ (f : VFields)
  /-- MLDT (R280). Reads a transposed operand tile, with scales, from scratchpad into registers. -/
  | mldt (f : VFields)
  /-- VTRN8 (R281). Transposes the leading square of a row-major register group. -/
  | vtrn8 (f : VFields)
  /-- MCHAIN (R282). Waits for the group's tokens, then sets or clears a part's chain links. -/
  | mchain (f : VFields)
  /-- SLOAD (R304). Reads and checks a graph image and, with status 0, places it in a slot at commit. -/
  | sload (f : VFields)
  /-- SFREE (R305). At commit, empties a slot and frees its cells once it is not running or loading. -/
  | sfree (f : VFields)
  /-- SQUERY (R306). Writes the slots' states and free cells to a w register. -/
  | squery (f : VFields)
  /-- XOP (R307). Evaluates a slot's compute graph elementwise, or takes the empty-slot trap. -/
  | xop (f : VFields)
  /-- SSTART (R308). Checks and, at commit, starts a run of a slot's memory graph with optional stream and completion post. -/
  | sstart (f : VFields)
  /-- LB (R172). Loads one byte at rs1 plus the offset and sign-extends it into rt. -/
  | lb (rt rs1 : BitVec 5) (imm : BitVec 16)
  /-- LBU (R172). Loads one byte at rs1 plus the offset and zero-extends it into rt. -/
  | lbu (rt rs1 : BitVec 5) (imm : BitVec 16)
  /-- LH (R172). Loads two bytes at rs1 plus the offset and sign-extends them into rt. -/
  | lh (rt rs1 : BitVec 5) (imm : BitVec 16)
  /-- LHU (R172). Loads two bytes at rs1 plus the offset and zero-extends them into rt. -/
  | lhu (rt rs1 : BitVec 5) (imm : BitVec 16)
  /-- LW (R172). Loads four bytes at rs1 plus the offset and sign-extends them into rt. -/
  | lw (rt rs1 : BitVec 5) (imm : BitVec 16)
  /-- LWU (R172). Loads four bytes at rs1 plus the offset and zero-extends them into rt. -/
  | lwu (rt rs1 : BitVec 5) (imm : BitVec 16)
  /-- LD (R172). Loads eight bytes at rs1 plus the offset into rt. -/
  | ld (rt rs1 : BitVec 5) (imm : BitVec 16)
  /-- LQ (R172). Loads sixteen bytes at rs1 plus the offset into the even register pair rt, rt + 1. -/
  | lq (rt rs1 : BitVec 5) (imm : BitVec 16)
  /-- SB (R172). Stores the low byte of rt at rs1 plus the offset. -/
  | sb (rt rs1 : BitVec 5) (imm : BitVec 16)
  /-- SH (R172). Stores the low two bytes of rt at rs1 plus the offset. -/
  | sh (rt rs1 : BitVec 5) (imm : BitVec 16)
  /-- SW (R172). Stores the low four bytes of rt at rs1 plus the offset. -/
  | sw (rt rs1 : BitVec 5) (imm : BitVec 16)
  /-- SD (R172). Stores the eight bytes of rt at rs1 plus the offset. -/
  | sd (rt rs1 : BitVec 5) (imm : BitVec 16)
  /-- SQ (R172). Stores the even register pair rt, rt + 1 as sixteen bytes at rs1 plus the offset. -/
  | sq (rt rs1 : BitVec 5) (imm : BitVec 16)
  /-- LB_W (R173). Consuming load of one sign-extended byte from the scratchpad window; waits until the granule is full. -/
  | lbW (rt rs1 : BitVec 5) (imm : BitVec 11)
  /-- LB_WC (R173). Consuming load of one sign-extended byte; waits until the granule is full, then clears it. -/
  | lbWc (rt rs1 : BitVec 5) (imm : BitVec 11)
  /-- LBU_W (R173). Consuming load of one zero-extended byte; waits until the granule is full. -/
  | lbuW (rt rs1 : BitVec 5) (imm : BitVec 11)
  /-- LBU_WC (R173). Consuming load of one zero-extended byte; waits until the granule is full, then clears it. -/
  | lbuWc (rt rs1 : BitVec 5) (imm : BitVec 11)
  /-- LH_W (R173). Consuming load of two sign-extended bytes; waits until the granule is full. -/
  | lhW (rt rs1 : BitVec 5) (imm : BitVec 11)
  /-- LH_WC (R173). Consuming load of two sign-extended bytes; waits until the granule is full, then clears it. -/
  | lhWc (rt rs1 : BitVec 5) (imm : BitVec 11)
  /-- LHU_W (R173). Consuming load of two zero-extended bytes; waits until the granule is full. -/
  | lhuW (rt rs1 : BitVec 5) (imm : BitVec 11)
  /-- LHU_WC (R173). Consuming load of two zero-extended bytes; waits until the granule is full, then clears it. -/
  | lhuWc (rt rs1 : BitVec 5) (imm : BitVec 11)
  /-- LW_W (R173). Consuming load of four sign-extended bytes; waits until the granule is full. -/
  | lwW (rt rs1 : BitVec 5) (imm : BitVec 11)
  /-- LW_WC (R173). Consuming load of four sign-extended bytes; waits until the granule is full, then clears it. -/
  | lwWc (rt rs1 : BitVec 5) (imm : BitVec 11)
  /-- LWU_W (R173). Consuming load of four zero-extended bytes; waits until the granule is full. -/
  | lwuW (rt rs1 : BitVec 5) (imm : BitVec 11)
  /-- LWU_WC (R173). Consuming load of four zero-extended bytes; waits until the granule is full, then clears it. -/
  | lwuWc (rt rs1 : BitVec 5) (imm : BitVec 11)
  /-- LD_W (R173). Consuming load of eight bytes; waits until the granule is full. -/
  | ldW (rt rs1 : BitVec 5) (imm : BitVec 11)
  /-- LD_WC (R173). Consuming load of eight bytes; waits until the granule is full, then clears it. -/
  | ldWc (rt rs1 : BitVec 5) (imm : BitVec 11)
  /-- LQ_W (R173). Consuming load of sixteen bytes into a register pair; waits until the granule is full. -/
  | lqW (rt rs1 : BitVec 5) (imm : BitVec 11)
  /-- LQ_WC (R173). Consuming load of sixteen bytes into a register pair; waits until the granule is full, then clears it. -/
  | lqWc (rt rs1 : BitVec 5) (imm : BitVec 11)
  /-- SB_FL (R173). Filling store of one byte to the scratchpad window; the granule becomes full. -/
  | sbFl (rt rs1 : BitVec 5) (imm : BitVec 11)
  /-- SH_FL (R173). Filling store of two bytes to the scratchpad window; the granule becomes full. -/
  | shFl (rt rs1 : BitVec 5) (imm : BitVec 11)
  /-- SW_FL (R173). Filling store of four bytes to the scratchpad window; the granule becomes full. -/
  | swFl (rt rs1 : BitVec 5) (imm : BitVec 11)
  /-- SD_FL (R173). Filling store of eight bytes to the scratchpad window; the granule becomes full. -/
  | sdFl (rt rs1 : BitVec 5) (imm : BitVec 11)
  /-- SQ_FL (R173). Filling store of sixteen bytes from a register pair to the scratchpad window; the granule becomes full. -/
  | sqFl (rt rs1 : BitVec 5) (imm : BitVec 11)
  /-- BEQ (R174). Branches by the parcel offset when rs1 equals rs2. -/
  | beq (rs1 rs2 : BitVec 5) (off : BitVec 16)
  /-- BNE (R174). Branches by the parcel offset when rs1 differs from rs2. -/
  | bne (rs1 rs2 : BitVec 5) (off : BitVec 16)
  /-- BLT (R174). Branches when rs1 is below rs2 as signed values. -/
  | blt (rs1 rs2 : BitVec 5) (off : BitVec 16)
  /-- BGE (R174). Branches when rs1 is at least rs2 as signed values. -/
  | bge (rs1 rs2 : BitVec 5) (off : BitVec 16)
  /-- BLTU (R174). Branches when rs1 is below rs2 as unsigned values. -/
  | bltu (rs1 rs2 : BitVec 5) (off : BitVec 16)
  /-- BGEU (R174). Branches when rs1 is at least rs2 as unsigned values. -/
  | bgeu (rs1 rs2 : BitVec 5) (off : BitVec 16)
  /-- JAL (R175). Writes PC + 4 to g1 and jumps by the 26-bit parcel offset. -/
  | jal (off : BitVec 26)
  /-- J (R175). Jumps by the 26-bit parcel offset. -/
  | j (off : BitVec 26)
  /-- JALR (R175). Jumps to rs1 plus the offset, faulting if it is misaligned, and writes PC + 4 to rd. -/
  | jalr (rd rs1 : BitVec 5) (imm : BitVec 16)
  /-- FADD (R177). Writes the rounded floating sum of rs1 and rs2, of type ty, to rd. -/
  | fadd (rd rs1 rs2 : BitVec 5) (ty : BitVec 4)
  /-- FSUB (R177). Writes the rounded floating difference of rs1 and rs2 to rd. -/
  | fsub (rd rs1 rs2 : BitVec 5) (ty : BitVec 4)
  /-- FMUL (R177). Writes the rounded floating product of rs1 and rs2 to rd. -/
  | fmul (rd rs1 rs2 : BitVec 5) (ty : BitVec 4)
  /-- FDIV (R177). Writes the rounded floating quotient to rd, raising DZ or NV for the special cases. -/
  | fdiv (rd rs1 rs2 : BitVec 5) (ty : BitVec 4)
  /-- FSQRT (R177). Writes the rounded square root of rs1 to rd. -/
  | fsqrt (rd rs1 : BitVec 5) (ty : BitVec 4)
  /-- FMIN (R177). Writes the smaller of two floating values to rd, with -0 below +0. -/
  | fmin (rd rs1 rs2 : BitVec 5) (ty : BitVec 4)
  /-- FMAX (R177). Writes the larger of two floating values to rd, with -0 below +0. -/
  | fmax (rd rs1 rs2 : BitVec 5) (ty : BitVec 4)
  /-- FEQ (R177). Writes 1 to rd if the two floating values are equal, else 0. -/
  | feq (rd rs1 rs2 : BitVec 5) (ty : BitVec 4)
  /-- FLT (R177). Writes 1 to rd if x is below y, raising NV for any NaN. -/
  | flt (rd rs1 rs2 : BitVec 5) (ty : BitVec 4)
  /-- FLE (R177). Writes 1 to rd if x is at most y, raising NV for any NaN. -/
  | fle (rd rs1 rs2 : BitVec 5) (ty : BitVec 4)
  /-- FCLASS (R178). Sets the one bit of rd that names the class of x. -/
  | fclass (rd rs1 : BitVec 5) (ty : BitVec 4)
  /-- FCVT (R177). Converts rs1 from the source type in rs2[3:0] to type ty, rounding once. -/
  | fcvt (rd rs1 : BitVec 5) (sty ty : BitVec 4)
  /-- FTOI (R177). Converts a floating value to .i64, rounding as the operand or FMODE gives and clipping. -/
  | ftoi (rd rs1 rm : BitVec 5) (ty : BitVec 4)
  /-- FTON (R177). Converts a floating value to .n64, rounding as the operand or FMODE gives and clipping. -/
  | fton (rd rs1 rm : BitVec 5) (ty : BitVec 4)
  /-- ITOF (R177). Converts the signed integer in rs1 to floating type ty. -/
  | itof (rd rs1 : BitVec 5) (ty : BitVec 4)
  /-- NTOF (R177). Converts the unsigned integer in rs1 to floating type ty. -/
  | ntof (rd rs1 : BitVec 5) (ty : BitVec 4)
  /-- FMADD (R179). Writes x × y + z, rounded once, to rd. -/
  | fmadd (rd rs1 rs2 rs3 : BitVec 5) (ty : BitVec 4)
  /-- FMSUB (R179). Writes x × y − z, rounded once, to rd. -/
  | fmsub (rd rs1 rs2 rs3 : BitVec 5) (ty : BitVec 4)
  /-- FNMADD (R179). Writes −(x × y) − z, rounded once, to rd. -/
  | fnmadd (rd rs1 rs2 rs3 : BitVec 5) (ty : BitVec 4)
  /-- FNMSUB (R179). Writes −(x × y) + z, rounded once, to rd. -/
  | fnmsub (rd rs1 rs2 rs3 : BitVec 5) (ty : BitVec 4)
  /-- AMOSWAP (R180). Atomically writes rs2 to memory at rs1 and returns the old value in rd. -/
  | amoswap (rd rs1 rs2 : BitVec 5) (sc : BitVec 3) (ord asz : BitVec 2)
  /-- AMOADD (R180). Atomically adds rs2 to memory and returns the old value. -/
  | amoadd (rd rs1 rs2 : BitVec 5) (sc : BitVec 3) (ord asz : BitVec 2)
  /-- AMOAND (R180). Atomically ands rs2 into memory and returns the old value. -/
  | amoand (rd rs1 rs2 : BitVec 5) (sc : BitVec 3) (ord asz : BitVec 2)
  /-- AMOOR (R180). Atomically ors rs2 into memory and returns the old value. -/
  | amoor (rd rs1 rs2 : BitVec 5) (sc : BitVec 3) (ord asz : BitVec 2)
  /-- AMOXOR (R180). Atomically exclusive-ors rs2 into memory and returns the old value. -/
  | amoxor (rd rs1 rs2 : BitVec 5) (sc : BitVec 3) (ord asz : BitVec 2)
  /-- AMOMIN (R180). Atomically writes the signed minimum and returns the old value. -/
  | amomin (rd rs1 rs2 : BitVec 5) (sc : BitVec 3) (ord asz : BitVec 2)
  /-- AMOMAX (R180). Atomically writes the signed maximum and returns the old value. -/
  | amomax (rd rs1 rs2 : BitVec 5) (sc : BitVec 3) (ord asz : BitVec 2)
  /-- AMOMINU (R180). Atomically writes the unsigned minimum and returns the old value. -/
  | amominu (rd rs1 rs2 : BitVec 5) (sc : BitVec 3) (ord asz : BitVec 2)
  /-- AMOMAXU (R180). Atomically writes the unsigned maximum and returns the old value. -/
  | amomaxu (rd rs1 rs2 : BitVec 5) (sc : BitVec 3) (ord asz : BitVec 2)
  /-- AMOCAS (R180). Atomically writes rs2 if memory equals rd and returns the old value. -/
  | amocas (rd rs1 rs2 : BitVec 5) (sc : BitVec 3) (ord asz : BitVec 2)
  /-- AMOLD (R180). Atomically reads memory into rd without writing. -/
  | amold (rd rs1 : BitVec 5) (sc : BitVec 3) (ord asz : BitVec 2)
  /-- AMOST (R180). Atomically writes rs2 to memory. -/
  | amost (rs1 rs2 : BitVec 5) (sc : BitVec 3) (ord asz : BitVec 2)
  /-- BINIT (R183). Writes a barrier object with EXP = rs2 and PHASE, PEND and ARRV zero. -/
  | binit (rs1 rs2 : BitVec 5)
  /-- ARRIVE (R183). Marks the thread's arrival at a barrier, returns the phase token, and completes the phase on the last arrival. -/
  | arrive (rd rs1 : BitVec 5)
  /-- ARRIVE_DROP (R183). Arrives at a barrier and drops the thread from later phases. -/
  | arriveDrop (rd rs1 : BitVec 5)
  /-- BWAIT (R184). Returns the number of phases passed since the token, or waits while the token's phase has not passed. -/
  | bwait (rd rs1 rs2 : BitVec 5)
  /-- QCFG (R187). Configures a pigeonhole, raising its GEN and resetting its state, and waits for a remote producer's acknowledgement. -/
  | qcfg (rs1 rs2 : BitVec 5)
  /-- QPOST (R187). Reads 64 bytes and posts them as one pigeonhole entry, waiting while no slot is free. -/
  | qpost (rs1 rs2 : BitVec 5)
  /-- QTAKE (R187). Takes the entry at HEAD into 64 bytes of memory and writes TK to rd, waiting while the pigeonhole is empty. -/
  | qtake (rd rs1 rs2 : BitVec 5)
  /-- QWAITN (R187). Waits while NOTIFY equals rs2, then writes NOTIFY to rd. -/
  | qwaitn (rd rs1 rs2 : BitVec 5)
  /-- QSTAT (R187). Writes the pigeonhole status word to rd. -/
  | qstat (rd rs1 : BitVec 5)
  /-- QRESYNC (R116). Recomputes the remote producer's free-slot count and sequence number and clears FRZ. -/
  | qresync (rs1 : BitVec 5)
  /-- POSTB (R188). Posts a block address with up to four operands, FMODE and SEED to VBLK, stalling on a full queue. -/
  | postb (rs1 ra rb rc re : BitVec 5)
  /-- GETR (R189). Takes the oldest VREPLY entry into rd, waiting while the queue is empty. -/
  | getr (rd : BitVec 5)
  /-- WAITC (R190). Waits until each of the four asynchronous counts is at or below its operand. -/
  | waitc (bl ns cp tl : BitVec 4)
  /-- COPY (R191). Reads a copy descriptor and issues a copy job. -/
  | copy (rs1 : BitVec 5)
  /-- KLAUNCH (R192). Submits a job card to the die's timetable unit and returns the launch number or 0. -/
  | klaunch (rd rs1 : BitVec 5)
  /-- SEAT (R193). Writes a new seating chart to LSEAT.NEXT or refuses it. -/
  | seat (rs1 : BitVec 5)
  /-- SPANATT (R194). Marks the named dies for attachment at the next committed boundary. -/
  | spanatt (rs1 : BitVec 5)
  /-- SPANREL (R194). Marks the named dies for release at the next committed boundary. -/
  | spanrel (rs1 : BitVec 5)
  /-- CSRR (R195). Reads a control register into rd. -/
  | csrr (rd : BitVec 5) (creg : BitVec 12)
  /-- CSRW (R195). Reads a control register into rd and writes rs1 to it. -/
  | csrw (rd rs1 : BitVec 5) (creg : BitVec 12)
  /-- CSRS (R195). Reads a control register into rd and sets the bits of rs1 in it. -/
  | csrs (rd rs1 : BitVec 5) (creg : BitVec 12)
  /-- CSRC (R195). Reads a control register into rd and clears the bits of rs1 in it. -/
  | csrc (rd rs1 : BitVec 5) (creg : BitVec 12)
  /-- TRAP (R197). Hands a Proctor service its arguments or, on a Proctor core, enters the handler; an unknown code returns all ones in g4. -/
  | trap (code : BitVec 8)
  /-- FENCE_SV (R123). Orders earlier scalar accesses before the vector accesses of blocks posted after it, without waiting. -/
  | fenceSv
  /-- FENCE_VS (R123). Waits until every earlier posted block has committed, ordering its accesses before later scalar accesses. -/
  | fenceVs
  /-- FENCE_VV (R123). Orders the group's vector, stream, gather and graph accesses of earlier blocks before those of later blocks. -/
  | fenceVv
  /-- PHEND (R185). Waits until earlier blocks have committed and every committed vector write element has been acknowledged. -/
  | phend
  /-- ALLOC (R401). Proctor service that maps a new region of the requested size, page size and flags, returning its base or 0. -/
  | alloc
  /-- FREE (R401). Proctor service that unmaps one whole earlier region, invalidates and releases its frames. -/
  | free
  /-- KSTAT (R401). Proctor service that returns a done kernel's status word, or 0. -/
  | kstat
  /-- KCANCEL (R401). Proctor service that ends a kernel as CANCEL does. -/
  | kcancel
  /-- FEAT (R401). Proctor service that returns FLVL of the thread's die. -/
  | feat
  /-- LOGEV (R401). Proctor service that writes a log record of TYPE 6 with the given value. -/
  | logev
  /-- TRET (R197). Privileged return from a Proctor handler to the PC in the trap frame. -/
  | tret
  /-- EXIT (R197). Waits until the thread's posted blocks and copies have finished, then ends the thread. -/
  | exit
  /-- RELEASE_ATOMIC_RESUME (R124). A release or acquire-release atomic performs once every block posted before it has committed. -/
  | releaseAtomicResume (tid : Nat)
  /-- FENCE_VS_COMPLETE (R123). A waiting FENCE.VS completes once every block posted before it has ended and committed. -/
  | fenceVsComplete (tid : Nat)
  /-- BWAIT_WAKE (R184). A waiting BWAIT rereads the barrier when it is written and returns once the phase has passed. -/
  | bwaitWake (tid : Nat)
  /-- PHEND_COMPLETE (R185). A waiting PHEND completes once its blocks have committed and every lane's unacknowledged write count is zero. -/
  | phendComplete (tid : Nat)
  /-- WRITE_ACKNOWLEDGE (R185). A home acknowledges a committed vector write element, lowering the lane's count of unacknowledged writes. -/
  | writeAcknowledge (tid lane : Nat)
  /-- QCFG_ACK (R187). The remote producer's core acknowledges the configuration and the waiting QCFG completes. -/
  | qcfgAck (tid : Nat)
  /-- QPOST_RESUME (R115). A waiting post performs once a slot or free-slot count becomes available. -/
  | qpostResume (tid : Nat) (vec : Bool)
  /-- QTAKE_WAKE (R115). A waiting take performs once an entry is posted. -/
  | qtakeWake (tid : Nat)
  /-- QWAITN_WAKE (R187). A waiting QWAITN returns NOTIFY once it differs from the named value. -/
  | qwaitnWake (tid : Nat)
  /-- FREE_SLOT_RETURN (R116). A free-slot return reaches the remote producer's counter and is counted, discarded, or freezes the pigeonhole. -/
  | freeSlotReturn (index : Nat)
  /-- PIGEONHOLE_DESYNC_FAULT (R344). The owner takes a pigeonhole-desynchronisation fault before its next scalar instruction, once per freeze. -/
  | pigeonholeDesyncFault (tid : Nat)
  /-- POSTB_RESUME (R40). A POSTB stalled on a full VBLK posts once an entry frees. -/
  | postbResume (tid : Nat)
  /-- GETR_WAKE (R43). A waiting GETR takes a reply once one enters VREPLY. -/
  | getrWake (tid : Nat)
  /-- WAITC_WAKE (R190). A waiting WAITC returns once every count is at or below its bound, ordering as R127 sets out. -/
  | waitcWake (tid : Nat)
  /-- COPY_CHUNK (R121). A copy job reads and writes its next 128-byte chunk. -/
  | copyChunk (job : Nat)
  /-- COPY_COMPLETE (R221). A copy job finishes and writes its status word. -/
  | copyComplete (job : Nat)
  /-- KLAUNCH_RESUME (R192). A KLAUNCH waiting on a unit that holds 1,024 kernels submits once a kernel is done. -/
  | klaunchResume (tid : Nat)
  /-- FINJ_CLEAR (R375). A write of FINJ with KIND 0 leaves no injection pending. -/
  | finjClear (v : Word)
  /-- FINJ_SIGNATURE_FLIP (R375). Arms inversion of bit 0 of the signature of the next strip the named paired group closes. -/
  | finjSignatureFlip (v : Word)
  /-- FINJ_CORRECTABLE (R375). Arms a correctable error in the named 16-byte unit at its next access. -/
  | finjCorrectable (v : Word)
  /-- FINJ_UNCORRECTABLE (R375). Arms an uncorrectable error in the named 16-byte unit at its next access. -/
  | finjUncorrectable (v : Word)
  /-- FINJ_DISCARD_RETURN (R375). Arms the discard of the next free-slot return of the named pigeonhole. -/
  | finjDiscardReturn (v : Word)
  /-- FINJ_PARITY (R375). Arms a parity error in the named pigeonhole's free-slot counter. -/
  | finjParity (v : Word)
  /-- FINJ_EVENT_FLIP (R375). Arms inversion of bit 0 of the data of the named paired thread's next external event. -/
  | finjEventFlip (v : Word)
  /-- EXIT_COMPLETE (R340). A waiting EXIT ends the thread, frees its slot and partners, unconfigures its pigeonholes and passes or releases its blocks. -/
  | exitComplete (tid : Nat)
  /-- PRELOAD_COMPLETE (R333). A form's preloads finish copying into scratchpad and its threads are seated. -/
  | preloadComplete (lnum form : Nat)
  /-- AGEING_STEP (R336). Every 2^21 die cycles without admission a kernel's effective priority falls by one level. -/
  | ageingStep (lnum : Nat)
  /-- PREEMPT_DEADLINE (R353). DEADLINE cycles pass before a group commits its open strip, and the strip is abandoned by rollback. -/
  | preemptDeadline (tid : Nat)
  /-- SATCHEL_SAVE (R361). Once every agent of a form has stopped, the save engine writes each thread's satchel, or stops with machine check 0x81. -/
  | satchelSave (lnum form : Nat)
  /-- KERNEL_DONE (R322). A kernel's forms and outstanding work have all finished, its status word is written and dependent edges are satisfied. -/
  | kernelDone (lnum : Nat)
  /-- BLOCK_START (R41). The idle sequencer takes the next VBLK entry and starts the block with its operands in w0 to w3. -/
  | blockStart (tid : Nat)
  /-- WATCH_WAKE (R207). A watched SETVL rereads its progress word when it is written and grants once enough elements are available. -/
  | watchWake (tid : Nat)
  /-- COMMIT_RESUME (R273). A commit waiting for tokens, slot runs, pigeonhole posts or link-buffer room completes. -/
  | commitResume (tid : Nat)
  /-- FAULT_RESOLVE (R402). The Proctor resolves a fault, mapping zero frames for LAZY pages, and the faulting access or strip replays. -/
  | faultResolve (index : Nat)
  /-- VECTOR_W_LOAD_WAKE (R112). A vector .W load or MLDT with WT waiting on empty granules reads once they are full, or faults if poisoned. -/
  | vectorWLoadWake (tid : Nat)
  /-- NOTIFY_WRITE_PERFORM (R212). A committed notify write adds its element count to the progress word. -/
  | notifyWritePerform (tid : Nat)
  /-- GATHER_DELIVERY (R218). A background gather delivers its converted elements to the pending register. -/
  | gatherDelivery (tid reg : Nat)
  /-- STREAM_REFILL (R216). The engine reads ahead of a bound stream register's position, marking slots that fault. -/
  | streamRefill (tid reg : Nat)
  /-- REPLY_POST_RESUME (R259). A sequencer stalled on a full VREPLY posts once GETR frees an entry. -/
  | replyPostResume (tid : Nat)
  /-- VECTOR_INTERLOCK_RESUME (R272). A vector instruction waiting on held registers, a full array queue, a pending gather or undelivered stream data proceeds. -/
  | vectorInterlockResume (tid : Nat)
  /-- ARRAY_OP_START (R285). The array starts the next queued operation when the previous occupancy ends. -/
  | arrayOpStart (tid : Nat)
  /-- ARRAY_OP_COMPLETE (R271). An array operation's self-timed completion arrives and lowers its token. -/
  | arrayOpComplete (tid : Nat)
  /-- ARRAY_RECESS (R285). After a stop request, started operations complete and the array rests with nothing queued started. -/
  | arrayRecess (tid : Nat)
  /-- CHAIN_ENTRY_CONSUME (R283). A chained MPASS waiting on its upstream link consumes the oldest unconsumed buffer entry. -/
  | chainEntryConsume (tid : Nat)
  /-- SLATE_PLACEMENT_COMPLETE (R288). Microcode finishes placing a graph and the slot becomes compute or memory idle. -/
  | slatePlacementComplete (tid slot : Nat)
  /-- LOADER_RETURN (R310). After a jump to the loader return address and its blocks commit, saved state is restored and the held strip replays. -/
  | loaderReturn (tid : Nat)
  /-- MEMGRAPH_ITERATION (R298). A memory-graph run evaluates one iteration, checks and performs its port accesses, or stops. -/
  | memgraphIteration (tid slot : Nat)
  /-- MEMGRAPH_RUN_COMPLETE (R301). A memory-graph run completes and posts its completion entry where one is named. -/
  | memgraphRunComplete (tid slot : Nat)
  /-- LINE_FILL (R118). A line filled from HBM is installed in its home slice, shared by content or given its own entry. -/
  | lineFill (line : Nat)
  /-- LINE_EVICT (R119). A slice evicts a tag or data entry, writing dirty lines back to HBM. -/
  | lineEvict (line : Nat) (wholeEntry : Bool)
  /-- PAGE_WALK_COMPLETE (R104). A page walk reaches a leaf or stops, filling the TLBs or raising the fault of its cause. -/
  | pageWalkComplete (tid : Nat) (va : Word)
  /-- INVALIDATION_COMPLETE (R402). An invalidation completes once every access translated with a removed entry is performed or discarded. -/
  | invalidationComplete (index : Nat)
  /-- CORRECTABLE_ERROR (R133). A correctable error is corrected, written back and logged. -/
  | correctableError (u : ErrUnit)
  /-- UNCORRECTABLE_ERROR (R130). An uncorrectable error poisons its unit, or rolls back a strip for a spare register, and is logged. -/
  | uncorrectableError (u : ErrUnit)
  /-- CORE_RETIRE_COMPLETE (R374). Once no form is resident or stopped on a retiring core, it is retired, logged and the module reported degraded. -/
  | coreRetireComplete (core : Nat)
  /-- PAIR_SIGNATURE_EXCHANGE (R366). Both members' signatures of a closed strip are compared; equal strips commit in each member. -/
  | pairSignatureExchange (lead : Nat)
  /-- PAIR_EVENT_MATCH (R368). The shadow's external event arrives and, if it matches, the lead performs its event, else machine check 0x84. -/
  | pairEventMatch (lead : Nat)
  /-- THERMAL_HOLD (R31). A junction rises above 105 °C: admission and array starts stop, and a machine check is logged. -/
  | thermalHold (r : SensorReading)
  /-- THERMAL_RELEASE (R31). Every junction falls to 100 °C or below and admission and array starts resume. -/
  | thermalRelease (rs : List SensorReading)
  /-- THERMAL_TRIP (R31). A junction reaches 112 °C and a hardware trip removes power from the package. -/
  | thermalTrip (r : SensorReading)
  /-- POWER_ON (R381). The module runs its bring-up steps in order, or stops at a failed step with BSTAT.FAIL. -/
  | powerOn (b : BringUp)
  /-- POWER_OFF (R30). Power is removed and all state is lost. -/
  | powerOff
  /-- FLIT_RETRY (R387). A damaged or missing flit is retransmitted by link-level retry. -/
  | flitRetry (port : Nat)
  /-- LINK_REKEY (R387). A pair key is replaced before it has protected 2^32 flits. -/
  | linkRekey (node : Nat)
  /-- LINK_PORT_FAIL (R388). A failed port's traffic moves to other ports of the route once its sent accesses are performed. -/
  | linkPortFail (port : Nat)
  /-- REMOTE_ACCESS (R388). A remote load, store or atomic arrives over the links and is performed at its home. -/
  | remoteAccess (r : RemoteRequest)
  /-- ROUTE_LOSS (R388). After 10 ms without a route, reads to the node poison, writes are dropped, machine check 0x87 is raised and writer kernels end. -/
  | routeLoss (node : Nat)
  /-- TAIL_WRITE (R393). The host writes TAIL and the bridge reads the new ring slots in order as commands. -/
  | tailWrite (v : BitVec 32)
  /-- RING_CONFIG_WRITE (R391). A write of RINGB or RINGN takes effect only while HEAD equals TAIL. -/
  | ringConfigWrite (ringn : Bool) (v : Word)
  /-- JWIN_WRITE (R400). A write of JWIN selects a journal and first entry and clears VALID. -/
  | jwinWrite (v : Word)
  /-- JOURNAL_WINDOW_READY (R400). The journal window fills with the selected entries and VALID becomes 1. -/
  | journalWindowReady
  /-- LWIN_WRITE (R391). A write of LWIN selects the node and first record shown in the log window. -/
  | lwinWrite (v : Word)
  /-- DEVICE_REGISTER_WRITE (R379). An 8-byte store to a writable device register without a row of its own sets its fields. -/
  | deviceRegisterWrite (off : Nat) (v : Word)
  /-- DCREATE (R396). Creates the lowest free tenant domain from a key block and writes its report. -/
  | dcreate (seq : Nat)
  /-- DDESTROY (R407). Ends every kernel of a domain with CAUSE 5 and begins its teardown. -/
  | ddestroy (seq : Nat)
  /-- DDESTROY_COMPLETE (R407). Once the domain's kernels are done, its images, address space, frames and keys are released. -/
  | ddestroyComplete (dom : Nat)
  /-- LOAD (R416). Verifies a Gozan container, chooses or translates a native image, places it and writes its digest. -/
  | load (seq : Nat)
  /-- UNLOAD (R396). Requests the unmapping of an image once its kernels are done. -/
  | unload (seq : Nat)
  /-- UNLOAD_COMPLETE (R396). Every kernel of the image is done and the image is unmapped. -/
  | unloadComplete (handle : Nat)
  /-- LAUNCH (R396). Copies a job card, sets its kernel entry and submits it to the least loaded eligible unit. -/
  | launch (seq : Nat)
  /-- CANCEL (R396). Ends a kernel as a fault does, with CAUSE 5. -/
  | cancel (seq : Nat)
  /-- STAGEIN (R410). Reads GCM-encrypted host data, verifies its tag and writes it into the domain's address space. -/
  | stagein (seq : Nat)
  /-- STAGEOUT (R410). Encrypts domain data with AES-256-GCM and writes it and its tag to host memory. -/
  | stageout (seq : Nat)
  /-- MAP (R396). Maps a region at a given virtual base as ALLOC does. -/
  | map (seq : Nat)
  /-- UNMAP (R396). Unmaps a region as FREE does. -/
  | unmap (seq : Nat)
  /-- ATTEST (R409). Writes a signed attestation report over a host nonce. -/
  | attest (seq : Nat)
  /-- MCODE (R422). Verifies a microcode package and starts updating dies 0 to 3 in turn. -/
  | mcode (seq : Nat)
  /-- MCODE_DIE_UPDATE (R422). Once a die's forms are pre-empted, its microcode is replaced, LEVEL rises and its forms resume. -/
  | mcodeDieUpdate (die : Nat)
  /-- FWSTAGE (R396). Verifies firmware and writes it to flash for the next power-on. -/
  | fwstage (seq : Nat)
  /-- NODESET (R384). Writes the module's node number to configuration flash for the next power-on. -/
  | nodeset (seq : Nat)
  /-- RESERVED_COMMAND (R396). A command slot with an undefined TYPE is refused with DET 3 and journaled. -/
  | reservedCommand (c : Command)
  /-- CONSUMING_LOAD_WAKE (R112). A scalar .W or .WC load waiting on an empty granule reads, and for .WC clears, once the granule becomes full, or takes a poison fault if it becomes poisoned. -/
  | consumingLoadWake (tid : Nat)
  /-- LINK_PORT_TRAIN (R387). A link port trains with its peer, agrees its pair key by ECDH, sets LSTAT.UP and PEER, and restores a route. -/
  | linkPortTrain (port peer : Nat) (sw : Bool)
  /-- HOST_PORT_TRAIN (R384). The PCIe host port trains with a host, so that a module of one or the chosen module begins acting as bridge. -/
  | hostPortTrain (host : Nat)
  /-- ADD (R169). Writes the sum of two g registers, modulo 2^64, to rd. -/
  | add (rd rs1 rs2 : BitVec 5)
  /-- SUB (R169). Writes the difference of two g registers to rd. -/
  | sub (rd rs1 rs2 : BitVec 5)
  /-- AND (R169). Writes the bitwise and of two g registers to rd. -/
  | and (rd rs1 rs2 : BitVec 5)
  /-- OR (R169). Writes the bitwise or of two g registers to rd. -/
  | or (rd rs1 rs2 : BitVec 5)
  /-- XOR (R169). Writes the bitwise exclusive or of two g registers to rd. -/
  | xor (rd rs1 rs2 : BitVec 5)
  /-- SLL (R169). Shifts rs1 left by rs2[5:0] and writes the result to rd. -/
  | sll (rd rs1 rs2 : BitVec 5)
  /-- SRL (R169). Shifts rs1 right logically by rs2[5:0] and writes the result to rd. -/
  | srl (rd rs1 rs2 : BitVec 5)
  /-- SRA (R169). Shifts rs1 right arithmetically by rs2[5:0] and writes the result to rd. -/
  | sra (rd rs1 rs2 : BitVec 5)
  /-- SLT (R169). Writes 1 to rd if rs1 is below rs2 as signed values, else 0. -/
  | slt (rd rs1 rs2 : BitVec 5)
  /-- SLTU (R169). Writes 1 to rd if rs1 is below rs2 as unsigned values, else 0. -/
  | sltu (rd rs1 rs2 : BitVec 5)
  /-- MUL (R169). Writes the low 64 bits of the product of rs1 and rs2 to rd. -/
  | mul (rd rs1 rs2 : BitVec 5)
  /-- MULH (R169). Writes the high 64 bits of the signed product of rs1 and rs2 to rd. -/
  | mulh (rd rs1 rs2 : BitVec 5)
  /-- MULHU (R169). Writes the high 64 bits of the unsigned product of rs1 and rs2 to rd. -/
  | mulhu (rd rs1 rs2 : BitVec 5)
  /-- DIV (R169). Writes the signed quotient, truncated toward zero, to rd; division by zero gives all ones. -/
  | div (rd rs1 rs2 : BitVec 5)
  /-- DIVU (R169). Writes the unsigned quotient to rd; division by zero gives all ones. -/
  | divu (rd rs1 rs2 : BitVec 5)
  /-- REM (R169). Writes the signed remainder to rd; division by zero gives the dividend. -/
  | rem (rd rs1 rs2 : BitVec 5)
  /-- REMU (R169). Writes the unsigned remainder to rd; division by zero gives the dividend. -/
  | remu (rd rs1 rs2 : BitVec 5)
  /-- MIN (R169). Writes the smaller of rs1 and rs2, read as signed, to rd. -/
  | min (rd rs1 rs2 : BitVec 5)
  /-- MAX (R169). Writes the larger of rs1 and rs2, read as signed, to rd. -/
  | max (rd rs1 rs2 : BitVec 5)
  /-- MINU (R169). Writes the smaller of rs1 and rs2, read as unsigned, to rd. -/
  | minu (rd rs1 rs2 : BitVec 5)
  /-- MAXU (R169). Writes the larger of rs1 and rs2, read as unsigned, to rd. -/
  | maxu (rd rs1 rs2 : BitVec 5)
  /-- CLZ (R169). Writes the number of leading zero bits of rs1 to rd. -/
  | clz (rd rs1 : BitVec 5)
  /-- CTZ (R169). Writes the number of trailing zero bits of rs1 to rd. -/
  | ctz (rd rs1 : BitVec 5)
  /-- POPC (R169). Writes the number of one bits of rs1 to rd. -/
  | popc (rd rs1 : BitVec 5)
  /-- ADDI (R170). Adds the sign-extended imm16 to rs1 and writes the sum to rd. -/
  | addi (rd rs1 : BitVec 5) (imm : BitVec 16)
  /-- ANDI (R170). Ands rs1 with the zero-extended imm16 and writes the result to rd. -/
  | andi (rd rs1 : BitVec 5) (imm : BitVec 16)
  /-- ORI (R170). Ors rs1 with the zero-extended imm16 and writes the result to rd. -/
  | ori (rd rs1 : BitVec 5) (imm : BitVec 16)
  /-- XORI (R170). Exclusive-ors rs1 with the zero-extended imm16 and writes the result to rd. -/
  | xori (rd rs1 : BitVec 5) (imm : BitVec 16)
  /-- SLTI (R170). Writes 1 to rd if rs1 is below the sign-extended immediate as signed values. -/
  | slti (rd rs1 : BitVec 5) (imm : BitVec 16)
  /-- SLTIU (R170). Writes 1 to rd if rs1 is below the sign-extended immediate as unsigned values. -/
  | sltiu (rd rs1 : BitVec 5) (imm : BitVec 16)
  /-- SLLI (R170). Shifts rs1 left by an immediate amount and writes the result to rd. -/
  | slli (rd rs1 : BitVec 5) (sh : BitVec 6)
  /-- SRLI (R170). Shifts rs1 right logically by an immediate amount and writes the result to rd. -/
  | srli (rd rs1 : BitVec 5) (sh : BitVec 6)
  /-- SRAI (R170). Shifts rs1 right arithmetically by an immediate amount and writes the result to rd. -/
  | srai (rd rs1 : BitVec 5) (sh : BitVec 6)
  /-- LUI (R171). Writes the sign-extended imm21 shifted left by 16 to rd. -/
  | lui (rd : BitVec 5) (imm : BitVec 21)
  /-- AUIPC (R171). Writes PC plus the sign-extended imm21 shifted left by 16 to rd. -/
  | auipc (rd : BitVec 5) (imm : BitVec 21)
  /-- ORMI (R170). Ors rs1 with the zero-extended imm16 shifted left by 32 and writes the result to rd. -/
  | ormi (rd rs1 : BitVec 5) (imm : BitVec 16)
  /-- ORHI (R170). Ors rs1 with the zero-extended imm16 shifted left by 48 and writes the result to rd. -/
  | orhi (rd rs1 : BitVec 5) (imm : BitVec 16)
  deriving DecidableEq, Repr, Inhabited

end Sys2Proof
end

