-- ==== Sys2Proof/Machine/Encodings.lean ====
section
/-! DEFINITION. The encoding tables: operand kinds, accepted types and FN layouts of every vector row (09 R143 to R147, 13 R205 and R206, 15 R234 and R235, 17 R269, 19 R303), the reserved values of scalar rows (09 R139, R140), and what makes an encoding one that an instruction defines (09 R151). -/

namespace Sys2Proof.Machine

/-- The kinds of an operand field (09 R143); `src` is a vector or w register as SRC selects (15 R234) and `wOrLc` the
first source of VWALU (15 R260). -/
inductive OperandKind where
  | none | vreg | wreg | mask | loopc | tile | src | wOrLc
  deriving DecidableEq, Repr

/-- The sets of type codes a row accepts (13 R205, 15 R235, 17 R269, 19 R303). -/
inductive TypeSet where
  | all | untyped | fi | f | i | absT | w3264 | win | slice | f32 | graph | code | qcode
  deriving DecidableEq, Repr

/-- The FN layouts (13 R206, 15 R234, 17 R269, 19 R303). -/
inductive FnLayout where
  | setvl | mem | packed | zero | sgOnly | sbar | atomic | window | offset | count | elem | cvt | cmp | complex
  | permute | rows | table | userTable | branch | jump | walu | imm24 | vmode | zeroFlag | mpass | quant | mldt
  | slot | xop | sstart
  deriving DecidableEq, Repr

/-- One row of the vector encoding tables: opcode, kinds of VD, VS1, VS2, VS3, whether it takes a mask, its types, its
FN layout, its chaining class (09 R147), and for VWALU and VMODE the operation that FN names. -/
structure VRow where
  op : BitVec 8
  kd : OperandKind
  k1 : OperandKind
  k2 : OperandKind
  k3 : OperandKind
  mask : Bool
  types : TypeSet
  layout : FnLayout
  cls : Option Nat
  sub : Option Nat
  deriving DecidableEq, Repr

/-- The row and fields of a vector instruction (09 R146). -/
def vrowOf : Instr → Option (VRow × VFields)
  | .setvl f => some (⟨0x01, .wreg, .wreg, .wreg, .wreg, false, .all, .setvl, none, none⟩, f)
  | .vld f => some (⟨0x02, .vreg, .wreg, .none, .none, true, .all, .mem, some 0, none⟩, f)
  | .vst f => some (⟨0x03, .wreg, .wreg, .none, .vreg, true, .all, .mem, some 0, none⟩, f)
  | .vlds f => some (⟨0x04, .vreg, .wreg, .wreg, .none, true, .all, .mem, some 0, none⟩, f)
  | .vsts f => some (⟨0x05, .wreg, .wreg, .wreg, .vreg, true, .all, .mem, some 0, none⟩, f)
  | .vldx f => some (⟨0x06, .vreg, .wreg, .vreg, .none, true, .all, .mem, some 0, none⟩, f)
  | .vstx f => some (⟨0x07, .wreg, .wreg, .vreg, .vreg, true, .all, .mem, some 0, none⟩, f)
  | .vldz f => some (⟨0x08, .vreg, .wreg, .wreg, .wreg, false, .all, .packed, some 0, none⟩, f)
  | .vgatherb f => some (⟨0x09, .vreg, .wreg, .vreg, .mask, true, .all, .mem, none, none⟩, f)
  | .vbind f => some (⟨0x0A, .vreg, .wreg, .none, .none, false, .all, .sgOnly, none, none⟩, f)
  | .vunbind f => some (⟨0x0B, .vreg, .none, .none, .none, false, .untyped, .zero, none, none⟩, f)
  | .sbar f => some (⟨0x0C, .none, .none, .none, .none, false, .untyped, .sbar, none, none⟩, f)
  | .vcopy f => some (⟨0x0D, .none, .wreg, .none, .none, false, .untyped, .zero, none, none⟩, f)
  | .vsetmf f => some (⟨0x0F, .none, .wreg, .none, .none, false, .untyped, .zero, none, none⟩, f)
  | .vamo f => some (⟨0x10, .vreg, .wreg, .vreg, .vreg, true, .w3264, .atomic, none, none⟩, f)
  | .vredm f => some (⟨0x11, .none, .wreg, .vreg, .vreg, true, .win, .atomic, some 0, none⟩, f)
  | .vwin f => some (⟨0x12, .none, .wreg, .wreg, .none, false, .win, .window, none, none⟩, f)
  | .vacc f => some (⟨0x13, .none, .vreg, .vreg, .none, true, .win, .sgOnly, some 0, none⟩, f)
  | .vmerge f => some (⟨0x14, .none, .wreg, .none, .none, false, .win, .offset, none, none⟩, f)
  | .vldl f => some (⟨0x15, .vreg, .vreg, .none, .none, true, .slice, .offset, some 0, none⟩, f)
  | .vstl f => some (⟨0x16, .none, .vreg, .none, .vreg, true, .slice, .offset, some 0, none⟩, f)
  | .vqpost f => some (⟨0x17, .none, .wreg, .vreg, .none, false, .untyped, .count, none, none⟩, f)
  | .vadd f => some (⟨0x20, .vreg, .vreg, .src, .none, true, .fi, .elem, some 2, none⟩, f)
  | .vsub f => some (⟨0x21, .vreg, .vreg, .src, .none, true, .fi, .elem, some 2, none⟩, f)
  | .vmul f => some (⟨0x22, .vreg, .vreg, .src, .none, true, .fi, .elem, some 1, none⟩, f)
  | .vfma f => some (⟨0x23, .vreg, .vreg, .src, .vreg, true, .fi, .elem, some 1, none⟩, f)
  | .vfms f => some (⟨0x24, .vreg, .vreg, .src, .vreg, true, .fi, .elem, some 1, none⟩, f)
  | .vfnma f => some (⟨0x25, .vreg, .vreg, .src, .vreg, true, .f, .elem, some 1, none⟩, f)
  | .vfnms f => some (⟨0x26, .vreg, .vreg, .src, .vreg, true, .f, .elem, some 1, none⟩, f)
  | .vdiv f => some (⟨0x27, .vreg, .vreg, .src, .none, true, .f, .elem, some 1, none⟩, f)
  | .vmin f => some (⟨0x28, .vreg, .vreg, .src, .none, true, .fi, .elem, some 2, none⟩, f)
  | .vmax f => some (⟨0x29, .vreg, .vreg, .src, .none, true, .fi, .elem, some 2, none⟩, f)
  | .vabs f => some (⟨0x2A, .vreg, .vreg, .none, .none, true, .absT, .elem, some 2, none⟩, f)
  | .vneg f => some (⟨0x2B, .vreg, .vreg, .none, .none, true, .fi, .elem, some 2, none⟩, f)
  | .vsqrt f => some (⟨0x2C, .vreg, .vreg, .none, .none, true, .f, .elem, some 1, none⟩, f)
  | .vmulh f => some (⟨0x2D, .vreg, .vreg, .src, .none, true, .i, .elem, some 1, none⟩, f)
  | .vsadd f => some (⟨0x2E, .vreg, .vreg, .src, .none, true, .i, .elem, some 2, none⟩, f)
  | .vssub f => some (⟨0x2F, .vreg, .vreg, .src, .none, true, .i, .elem, some 2, none⟩, f)
  | .vand f => some (⟨0x30, .vreg, .vreg, .src, .none, true, .i, .elem, some 2, none⟩, f)
  | .vor f => some (⟨0x31, .vreg, .vreg, .src, .none, true, .i, .elem, some 2, none⟩, f)
  | .vxor f => some (⟨0x32, .vreg, .vreg, .src, .none, true, .i, .elem, some 2, none⟩, f)
  | .vshl f => some (⟨0x33, .vreg, .vreg, .src, .none, true, .i, .elem, some 2, none⟩, f)
  | .vshr f => some (⟨0x34, .vreg, .vreg, .src, .none, true, .i, .elem, some 2, none⟩, f)
  | .vclz f => some (⟨0x35, .vreg, .vreg, .none, .none, true, .i, .elem, some 2, none⟩, f)
  | .vpopc f => some (⟨0x36, .vreg, .vreg, .none, .none, true, .i, .elem, some 2, none⟩, f)
  | .vcvt f => some (⟨0x37, .vreg, .vreg, .none, .none, true, .all, .cvt, some 2, none⟩, f)
  | .vcmp f => some (⟨0x38, .mask, .vreg, .src, .none, true, .fi, .cmp, some 2, none⟩, f)
  | .vsel f => some (⟨0x39, .vreg, .vreg, .src, .mask, true, .all, .elem, some 2, none⟩, f)
  | .vcmul f => some (⟨0x3A, .vreg, .vreg, .vreg, .none, true, .f32, .complex, some 1, none⟩, f)
  | .vcmac f => some (⟨0x3B, .vreg, .vreg, .vreg, .vreg, true, .f32, .complex, some 1, none⟩, f)
  | .vmov f => some (⟨0x3C, .vreg, .none, .src, .none, true, .all, .elem, some 2, none⟩, f)
  | .vmand f => some (⟨0x40, .mask, .mask, .mask, .none, false, .untyped, .zero, some 2, none⟩, f)
  | .vmor f => some (⟨0x41, .mask, .mask, .mask, .none, false, .untyped, .zero, some 2, none⟩, f)
  | .vmxor f => some (⟨0x42, .mask, .mask, .mask, .none, false, .untyped, .zero, some 2, none⟩, f)
  | .vmandn f => some (⟨0x43, .mask, .mask, .mask, .none, false, .untyped, .zero, some 2, none⟩, f)
  | .vmpop f => some (⟨0x44, .wreg, .mask, .none, .none, true, .untyped, .zero, none, none⟩, f)
  | .vmfirst f => some (⟨0x45, .wreg, .mask, .none, .none, true, .untyped, .zero, none, none⟩, f)
  | .vperm f => some (⟨0x48, .vreg, .vreg, .vreg, .none, true, .all, .permute, some 4, none⟩, f)
  | .vslideup f => some (⟨0x49, .vreg, .vreg, .src, .none, true, .all, .permute, some 4, none⟩, f)
  | .vslidedn f => some (⟨0x4A, .vreg, .vreg, .src, .none, true, .all, .permute, some 4, none⟩, f)
  | .vbcast f => some (⟨0x4B, .vreg, .vreg, .src, .none, true, .all, .permute, some 4, none⟩, f)
  | .vcompress f => some (⟨0x4C, .vreg, .vreg, .none, .none, true, .all, .permute, some 4, none⟩, f)
  | .vexpand f => some (⟨0x4D, .vreg, .vreg, .none, .none, true, .all, .permute, some 4, none⟩, f)
  | .vzip f => some (⟨0x4E, .vreg, .vreg, .vreg, .none, true, .all, .permute, some 4, none⟩, f)
  | .vunzip f => some (⟨0x4F, .vreg, .vreg, .vreg, .none, true, .all, .permute, some 4, none⟩, f)
  | .vxchg f => some (⟨0x50, .vreg, .vreg, .wreg, .none, false, .all, .sgOnly, none, none⟩, f)
  | .vredsum f => some (⟨0x51, .vreg, .vreg, .none, .none, true, .fi, .rows, some 4, none⟩, f)
  | .vredmax f => some (⟨0x52, .vreg, .vreg, .none, .none, true, .fi, .rows, some 4, none⟩, f)
  | .vredmin f => some (⟨0x53, .vreg, .vreg, .none, .none, true, .fi, .rows, some 4, none⟩, f)
  | .vredand f => some (⟨0x54, .vreg, .vreg, .none, .none, true, .i, .rows, some 4, none⟩, f)
  | .vredor f => some (⟨0x55, .vreg, .vreg, .none, .none, true, .i, .rows, some 4, none⟩, f)
  | .vrowstat f => some (⟨0x56, .vreg, .vreg, .none, .none, true, .f32, .rows, some 3, none⟩, f)
  | .vfn f => some (⟨0x57, .vreg, .vreg, .none, .none, true, .f32, .table, some 3, none⟩, f)
  | .vtblld f => some (⟨0x58, .none, .wreg, .wreg, .none, false, .untyped, .userTable, none, none⟩, f)
  | .vidx f => some (⟨0x59, .vreg, .wreg, .none, .none, true, .i, .sgOnly, some 2, none⟩, f)
  | .vextw f => some (⟨0x5A, .wreg, .vreg, .wreg, .none, false, .all, .sgOnly, none, none⟩, f)
  | .vinsw f => some (⟨0x5B, .vreg, .wreg, .wreg, .none, false, .all, .sgOnly, none, none⟩, f)
  | .vbany f => some (⟨0x60, .none, .mask, .none, .none, false, .untyped, .branch, none, none⟩, f)
  | .vball f => some (⟨0x61, .none, .mask, .none, .none, false, .untyped, .branch, none, none⟩, f)
  | .vbnone f => some (⟨0x62, .none, .mask, .none, .none, false, .untyped, .branch, none, none⟩, f)
  | .vbrD f => some (⟨0x63, .none, .mask, .none, .none, false, .untyped, .branch, none, none⟩, f)
  | .vjoin f => some (⟨0x64, .none, .none, .none, .none, false, .untyped, .zero, none, none⟩, f)
  | .vjmp f => some (⟨0x65, .none, .wreg, .wreg, .none, false, .untyped, .jump, none, none⟩, f)
  | .vloop f => some (⟨0x66, .loopc, .wreg, .none, .none, false, .untyped, .branch, none, none⟩, f)
  | .vendlp f => some (⟨0x67, .loopc, .none, .none, .none, false, .untyped, .branch, none, none⟩, f)
  | .vend f => some (⟨0x68, .none, .none, .none, .none, false, .untyped, .zero, none, none⟩, f)
  | .vpostr f => some (⟨0x69, .none, .wreg, .none, .none, false, .untyped, .zero, none, none⟩, f)
  | .vwaluAdd f => some (⟨0x6A, .wreg, .wOrLc, .wreg, .none, false, .untyped, .walu, none, some 0⟩, f)
  | .vwaluSub f => some (⟨0x6A, .wreg, .wOrLc, .wreg, .none, false, .untyped, .walu, none, some 1⟩, f)
  | .vwaluAnd f => some (⟨0x6A, .wreg, .wOrLc, .wreg, .none, false, .untyped, .walu, none, some 2⟩, f)
  | .vwaluOr f => some (⟨0x6A, .wreg, .wOrLc, .wreg, .none, false, .untyped, .walu, none, some 3⟩, f)
  | .vwaluXor f => some (⟨0x6A, .wreg, .wOrLc, .wreg, .none, false, .untyped, .walu, none, some 4⟩, f)
  | .vwaluSll f => some (⟨0x6A, .wreg, .wOrLc, .wreg, .none, false, .untyped, .walu, none, some 5⟩, f)
  | .vwaluSrl f => some (⟨0x6A, .wreg, .wOrLc, .wreg, .none, false, .untyped, .walu, none, some 6⟩, f)
  | .vwaluSra f => some (⟨0x6A, .wreg, .wOrLc, .wreg, .none, false, .untyped, .walu, none, some 7⟩, f)
  | .vwaluSlt f => some (⟨0x6A, .wreg, .wOrLc, .wreg, .none, false, .untyped, .walu, none, some 8⟩, f)
  | .vwaluSltu f => some (⟨0x6A, .wreg, .wOrLc, .wreg, .none, false, .untyped, .walu, none, some 9⟩, f)
  | .vwaluMul f => some (⟨0x6A, .wreg, .wOrLc, .wreg, .none, false, .untyped, .walu, none, some 10⟩, f)
  | .vwaluMin f => some (⟨0x6A, .wreg, .wOrLc, .wreg, .none, false, .untyped, .walu, none, some 11⟩, f)
  | .vwaluMax f => some (⟨0x6A, .wreg, .wOrLc, .wreg, .none, false, .untyped, .walu, none, some 12⟩, f)
  | .vwaluMinu f => some (⟨0x6A, .wreg, .wOrLc, .wreg, .none, false, .untyped, .walu, none, some 13⟩, f)
  | .vwaluMaxu f => some (⟨0x6A, .wreg, .wOrLc, .wreg, .none, false, .untyped, .walu, none, some 14⟩, f)
  | .vwaluRlc f => some (⟨0x6A, .wreg, .wOrLc, .wreg, .none, false, .untyped, .walu, none, some 15⟩, f)
  | .vwaluRvl f => some (⟨0x6A, .wreg, .wOrLc, .wreg, .none, false, .untyped, .walu, none, some 16⟩, f)
  | .vwaluRssn f => some (⟨0x6A, .wreg, .wOrLc, .wreg, .none, false, .untyped, .walu, none, some 17⟩, f)
  | .vwli f => some (⟨0x6B, .wreg, .none, .none, .none, false, .untyped, .imm24, none, none⟩, f)
  | .vmodeArr f => some (⟨0x80, .none, .none, .none, .none, false, .untyped, .vmode, none, some 1⟩, f)
  | .vmodeVec f => some (⟨0x80, .none, .none, .none, .none, false, .untyped, .vmode, none, some 0⟩, f)
  | .moxa f => some (⟨0x81, .tile, .vreg, .vreg, .vreg, false, .code, .zeroFlag, none, none⟩, f)
  | .moxs f => some (⟨0x82, .tile, .vreg, .vreg, .vreg, false, .code, .zeroFlag, none, none⟩, f)
  | .mldw f => some (⟨0x83, .tile, .tile, .none, .none, false, .code, .zero, none, none⟩, f)
  | .mpass f => some (⟨0x84, .vreg, .vreg, .tile, .vreg, false, .code, .mpass, none, none⟩, f)
  | .mwb f => some (⟨0x85, .tile, .tile, .none, .none, false, .untyped, .zeroFlag, some 6, none⟩, f)
  | .mwbQ f => some (⟨0x86, .vreg, .tile, .vreg, .none, false, .qcode, .quant, some 6, none⟩, f)
  | .mldt f => some (⟨0x87, .vreg, .wreg, .wreg, .wreg, false, .code, .mldt, none, none⟩, f)
  | .vtrn8 f => some (⟨0x88, .tile, .none, .none, .none, false, .untyped, .zero, none, none⟩, f)
  | .mchain f => some (⟨0x89, .none, .wreg, .none, .none, false, .untyped, .zero, none, none⟩, f)
  | .sload f => some (⟨0x90, .wreg, .wreg, .none, .none, false, .untyped, .slot, none, none⟩, f)
  | .sfree f => some (⟨0x91, .none, .none, .none, .none, false, .untyped, .slot, none, none⟩, f)
  | .xop f => some (⟨0x92, .vreg, .vreg, .vreg, .vreg, true, .graph, .xop, some 5, none⟩, f)
  | .squery f => some (⟨0x93, .wreg, .none, .none, .none, false, .untyped, .zero, none, none⟩, f)
  | .sstart f => some (⟨0x94, .wreg, .wreg, .wreg, .wreg, false, .untyped, .sstart, none, none⟩, f)
  | _ => none

/-- FN[hi:lo] of a vector instruction. -/
def fnField (f : VFields) (hi lo : Nat) : Nat := field f.fn.toNat hi lo

/-- Integer type codes (09 R145). -/
def intCode (ty : Nat) : Bool := [8, 9, 10, 11, 13, 14, 15].contains ty

/-- TY and SG accepted by a row (09 R145, 13 R205, 15 R235). -/
def typeOk (t : TypeSet) (ty sg : Nat) : Bool :=
  let valid := (elemType ty sg).isSome
  match t with
  | .untyped => ty == 0
  | .code => true
  | .qcode => (3 ≤ ty && ty ≤ 7) || 12 ≤ ty
  | .all => valid
  | .fi => valid && [0, 1, 2, 12, 8, 9, 13, 14, 15].contains ty
  | .f => valid && [0, 1, 2, 12].contains ty
  | .i => valid && [8, 9, 13, 14, 15].contains ty
  | .absT => valid && ([0, 1, 2, 12].contains ty || ([8, 13, 14, 15].contains ty && sg == 1))
  | .w3264 => valid && [14, 15].contains ty
  | .win => valid && [0, 12, 14, 15].contains ty
  | .slice => valid && !([7, 10, 11].contains ty)
  | .f32 => valid && ty == 0
  | .graph => valid && !([5, 6, 7, 10, 11].contains ty)

/-- An operand field holds a value of its kind (09 R143); `src` and `rlc` resolve the two kinds FN selects. -/
def kindOk (k : OperandKind) (src : Nat) (lc : OperandKind) (x : BitVec 6) : Bool :=
  let plain : OperandKind → Bool := fun k =>
    match k with
    | .none => x == 0
    | .vreg => true
    | .wreg => x.toNat < 16
    | .mask => x.toNat < 8
    | .loopc => x.toNat < 6
    | .tile => x.toNat % 8 == 0
    | _ => false
  match k with
  | .src => plain (match src with | 0 => .vreg | 1 => .wreg | _ => .none)
  | .wOrLc => plain lc
  | k => plain k

/-- Which opcodes are loads of layout M, and which are indexed (13 R206). -/
def memLoad (op : BitVec 8) : Bool := [2#8, 4#8, 6#8, 9#8].contains op
def memIndexed (op : BitVec 8) : Bool := [6#8, 7#8, 9#8].contains op

/-- FN holds a value the row defines (09 R151; 13 R206; 15 R234, R235, R238, R239, R251, R252, R256, R260; 17 R269;
19 R303). -/
def fnOk (r : VRow) (f : VFields) : Bool :=
  let ty := f.ty.toNat
  let isInt := intCode ty
  let fn := fnField f
  let rmoOk := fn 20 18 ≤ 5 && (!isInt || fn 20 18 == 0)
  let srcOk := fn 22 21 ≤ 2 && (fn 22 21 == 2 || fn 15 0 == 0) && (fn 22 21 != 2 || isInt)
  match r.layout with
  | .setvl => fn 19 16 == 0 && (fn 20 20 == 0 || f.vs1 == 0) && (fn 20 20 == 1 || fn 15 0 == 0)
      && (fn 21 21 == 1 || (f.vs2 == 0 && f.vs3 == 0))
  | .mem => fn 22 22 == 0
      && (if memLoad r.op then fn 21 20 ≤ 1 && fn 19 19 == 0 else (fn 21 20 == 0 || fn 21 20 == 3))
      && (if memIndexed r.op then fn 18 17 != 3 else fn 18 16 == 0)
      && (r.op != 9#8 || fn 21 20 == 0)
      && (memLoad r.op || fn 19 19 == 1 || f.vd == 0)
  | .packed => fn 22 8 == 0
  | .zero => f.fn == 0
  | .sgOnly => fn 22 0 == 0
  | .sbar => true
  | .atomic => fn 10 0 == 0 && fn 13 12 != 3
      && (if r.op == 0x10 then fn 22 19 ≤ 10 && fn 18 16 != 0 && fn 18 16 != 7
          else fn 22 19 ≤ 5 && fn 18 14 == 0 && (isInt || [0, 4, 5].contains (fn 22 19)))
  | .window => fn 18 0 == 0 && [0, 2, 4, 5].contains (fn 22 19) && (isInt || fn 22 19 != 2)
  | .offset => fn 22 16 == 0 && (r.op == 0x14 || fn 15 0 ≤ 4095)
  | .count => fn 23 9 == 0 && 1 ≤ fn 8 0 && fn 8 0 ≤ 256
  | .elem => fn 17 16 == 0 && rmoOk && srcOk && (r.k2 == .src || fn 22 21 == 0)
  | .cmp => fn 20 20 == 0 && srcOk && fn 19 16 ≤ (if isInt then 5 else 6)
  | .cvt =>
    let sty := fn 3 0
    let ii := isInt && intCode sty
    fn 22 21 == 0 && fn 16 9 == 0 && fn 7 4 == 0 && (elemType sty (fn 8 8)).isSome && fn 20 18 ≤ 5
      && !(sty == ty && fn 8 8 == fn 23 23) && (fn 17 17 == 0 || ii) && (!ii || fn 20 18 == 0)
  | .complex => fn 22 21 == 0 && fn 17 1 == 0 && fn 20 18 ≤ 5
  | .permute => fn 20 17 == 0 && srcOk
      && (if r.k2 == .src then fn 22 21 != 0 else fn 22 21 == 0)
      && (r.op == 0x4E || r.op == 0x4F || fn 16 16 == 0)
  | .rows => fn 22 16 == 0
  | .table => fn 22 5 == 0 && fn 4 0 ≤ 23
  | .userTable => fn 23 5 == 0 && 16 ≤ fn 4 0 && fn 4 0 ≤ 23
  | .branch => true
  | .jump => fn 23 20 ≤ 6 && (fn 23 20 != 0 || (f.vs1 == 0 && f.vs2 == 0))
  | .walu =>
    let o := fn 23 19
    some o == r.sub
      && (if 15 ≤ o then fn 18 0 == 0 && f.vs2 == 0
          else if fn 18 18 == 1 then f.vs2 == 0 && (!(5 ≤ o && o ≤ 7) || fn 17 6 == 0)
          else fn 17 0 == 0)
  | .imm24 => true
  | .vmode => fn 23 1 == 0 && some (fn 0 0) == r.sub
  | .zeroFlag => fn 23 1 == 0 && (r.op == 0x85 || 12 ≤ ty || f.vs3 == 0)
  | .mpass => fn 23 2 == 0 && (12 ≤ ty || f.vs3 == 0)
  | .quant => fn 23 3 == 0 && fn 2 1 != 3
  | .mldt => fn 17 17 == 0 && fn 11 0 == 0 && (12 ≤ ty || fn 23 18 == 0)
  | .slot => fn 23 3 == 0
  | .xop => fn 22 4 == 0
  | .sstart => fn 23 21 == 0 && (fn 9 9 == 1 || fn 20 10 == 0) && (fn 8 8 == 1 || fn 7 4 == 0)

/-- Every field of a vector instruction is one the row defines (09 R151). -/
def vectorOk (r : VRow) (f : VFields) : Bool :=
  let typed := r.types != .untyped && r.types != .code && r.types != .qcode
  let sg := if typed then fnField f 23 23 else 0
  let lc : OperandKind := match r.sub with
    | some 15 => .loopc
    | some o => if 15 < o then .none else .wreg
    | none => .wreg
  let src := fnField f 22 21
  typeOk r.types f.ty.toNat sg && kindOk r.kd src lc f.vd && kindOk r.k1 src lc f.vs1
    && kindOk r.k2 src lc f.vs2 && kindOk r.k3 src lc f.vs3
    && (r.mask || (f.msk == 0 && !f.me)) && fnOk r f

/-- The control-register numbers (09 R140). -/
def cregOk (c : BitVec 12) : Bool :=
  [0x000, 0x001, 0x002, 0x010, 0x011, 0x012, 0x013, 0x020, 0x030, 0x031, 0x032].contains c.toNat

def tyOk (t : BitVec 4) : Bool := (scalarFType t.toNat).isSome

def amoOk (sc : BitVec 3) (asz : BitVec 2) : Bool := sc != 0 && sc != 7 && (asz == 2 || asz == 3)

def evenReg (r : BitVec 5) : Bool := r.toNat % 2 == 0

/-- The reserved values of scalar fields (09 R139, 11 R177), and for vector instructions every field. Rows that are not
encodings of an instruction stream hold no field to check. -/
def encodingOk : Instr → Bool
  | .lq rt _ _ => evenReg rt
  | .sq rt _ _ => evenReg rt
  | .lqW rt _ _ => evenReg rt
  | .lqWc rt _ _ => evenReg rt
  | .sqFl rt _ _ => evenReg rt
  | .fadd _ _ _ ty => tyOk ty
  | .fsub _ _ _ ty => tyOk ty
  | .fmul _ _ _ ty => tyOk ty
  | .fdiv _ _ _ ty => tyOk ty
  | .fsqrt _ _ ty => tyOk ty
  | .fmin _ _ _ ty => tyOk ty
  | .fmax _ _ _ ty => tyOk ty
  | .feq _ _ _ ty => tyOk ty
  | .flt _ _ _ ty => tyOk ty
  | .fle _ _ _ ty => tyOk ty
  | .fclass _ _ ty => tyOk ty
  | .fcvt _ _ sty ty => tyOk ty && tyOk sty && sty != ty
  | .ftoi _ _ rm ty => tyOk ty && rm.toNat ≤ 4
  | .fton _ _ rm ty => tyOk ty && rm.toNat ≤ 4
  | .itof _ _ ty => tyOk ty
  | .ntof _ _ ty => tyOk ty
  | .fmadd _ _ _ _ ty => tyOk ty
  | .fmsub _ _ _ _ ty => tyOk ty
  | .fnmadd _ _ _ _ ty => tyOk ty
  | .fnmsub _ _ _ _ ty => tyOk ty
  | .amoswap _ _ _ sc _ asz => amoOk sc asz
  | .amoadd _ _ _ sc _ asz => amoOk sc asz
  | .amoand _ _ _ sc _ asz => amoOk sc asz
  | .amoor _ _ _ sc _ asz => amoOk sc asz
  | .amoxor _ _ _ sc _ asz => amoOk sc asz
  | .amomin _ _ _ sc _ asz => amoOk sc asz
  | .amomax _ _ _ sc _ asz => amoOk sc asz
  | .amominu _ _ _ sc _ asz => amoOk sc asz
  | .amomaxu _ _ _ sc _ asz => amoOk sc asz
  | .amocas _ _ _ sc _ asz => amoOk sc asz
  | .amold _ _ sc _ asz => amoOk sc asz
  | .amost _ _ sc _ asz => amoOk sc asz
  | .csrr _ c => cregOk c
  | .csrw _ _ c => cregOk c
  | .csrs _ _ c => cregOk c
  | .csrc _ _ c => cregOk c
  | .trap c => !(1 ≤ c.toNat && c.toNat ≤ 6)
  | i => match vrowOf i with
    | some (r, f) => vectorOk r f
    | none => true

/-- The chaining class of a vector instruction (09 R147). -/
def chainClass (i : Instr) : Option Nat :=
  match vrowOf i with
  | some (r, _) => r.cls
  | none => none

end Sys2Proof.Machine
end

