-- ==== Sys2Proof/WellFormed.lean ====
section
/-! DEFINITION. Well-formed instructions: every field holds a value that the instruction's entry defines (09 R139, R143, R151). -/

namespace Sys2Proof

/-- The encoding is one that an instruction defines. -/
def Instr.wf (i : Instr) : Bool := Machine.encodingOk i

end Sys2Proof
end

