-- ==== Sys2Proof/Decode.lean ====
section
/-! DEFINITION. The decoder of each agent's instruction set (09 R134 to R151), total on any parcels, and the encoder written from the same tables. -/

namespace Sys2Proof

/-- The parcel of a scalar instruction or of a convoy header (09 R138, R141, R148); none for every other row. -/
def encodeParcel : Instr → Option Parcel
  | .add rd rs1 rs2 => some (0x1#6 ++ rd ++ rs1 ++ rs2 ++ 0x0#11)
  | .sub rd rs1 rs2 => some (0x1#6 ++ rd ++ rs1 ++ rs2 ++ 0x1#11)
  | .and rd rs1 rs2 => some (0x1#6 ++ rd ++ rs1 ++ rs2 ++ 0x2#11)
  | .or rd rs1 rs2 => some (0x1#6 ++ rd ++ rs1 ++ rs2 ++ 0x3#11)
  | .xor rd rs1 rs2 => some (0x1#6 ++ rd ++ rs1 ++ rs2 ++ 0x4#11)
  | .sll rd rs1 rs2 => some (0x1#6 ++ rd ++ rs1 ++ rs2 ++ 0x5#11)
  | .srl rd rs1 rs2 => some (0x1#6 ++ rd ++ rs1 ++ rs2 ++ 0x6#11)
  | .sra rd rs1 rs2 => some (0x1#6 ++ rd ++ rs1 ++ rs2 ++ 0x7#11)
  | .slt rd rs1 rs2 => some (0x1#6 ++ rd ++ rs1 ++ rs2 ++ 0x8#11)
  | .sltu rd rs1 rs2 => some (0x1#6 ++ rd ++ rs1 ++ rs2 ++ 0x9#11)
  | .mul rd rs1 rs2 => some (0x1#6 ++ rd ++ rs1 ++ rs2 ++ 0xa#11)
  | .mulh rd rs1 rs2 => some (0x1#6 ++ rd ++ rs1 ++ rs2 ++ 0xb#11)
  | .mulhu rd rs1 rs2 => some (0x1#6 ++ rd ++ rs1 ++ rs2 ++ 0xc#11)
  | .div rd rs1 rs2 => some (0x1#6 ++ rd ++ rs1 ++ rs2 ++ 0xd#11)
  | .divu rd rs1 rs2 => some (0x1#6 ++ rd ++ rs1 ++ rs2 ++ 0xe#11)
  | .rem rd rs1 rs2 => some (0x1#6 ++ rd ++ rs1 ++ rs2 ++ 0xf#11)
  | .remu rd rs1 rs2 => some (0x1#6 ++ rd ++ rs1 ++ rs2 ++ 0x10#11)
  | .min rd rs1 rs2 => some (0x1#6 ++ rd ++ rs1 ++ rs2 ++ 0x11#11)
  | .max rd rs1 rs2 => some (0x1#6 ++ rd ++ rs1 ++ rs2 ++ 0x12#11)
  | .minu rd rs1 rs2 => some (0x1#6 ++ rd ++ rs1 ++ rs2 ++ 0x13#11)
  | .maxu rd rs1 rs2 => some (0x1#6 ++ rd ++ rs1 ++ rs2 ++ 0x14#11)
  | .clz rd rs1 => some (0x1#6 ++ rd ++ rs1 ++ 0x15#16)
  | .ctz rd rs1 => some (0x1#6 ++ rd ++ rs1 ++ 0x16#16)
  | .popc rd rs1 => some (0x1#6 ++ rd ++ rs1 ++ 0x17#16)
  | .addi rd rs1 imm => some (0x2#6 ++ rd ++ rs1 ++ imm)
  | .andi rd rs1 imm => some (0x3#6 ++ rd ++ rs1 ++ imm)
  | .ori rd rs1 imm => some (0x4#6 ++ rd ++ rs1 ++ imm)
  | .xori rd rs1 imm => some (0x5#6 ++ rd ++ rs1 ++ imm)
  | .slti rd rs1 imm => some (0x6#6 ++ rd ++ rs1 ++ imm)
  | .sltiu rd rs1 imm => some (0x7#6 ++ rd ++ rs1 ++ imm)
  | .slli rd rs1 sh => some (0x8#6 ++ rd ++ rs1 ++ 0x0#10 ++ sh)
  | .srli rd rs1 sh => some (0x9#6 ++ rd ++ rs1 ++ 0x0#10 ++ sh)
  | .srai rd rs1 sh => some (0xa#6 ++ rd ++ rs1 ++ 0x0#10 ++ sh)
  | .lui rd imm => some (0xb#6 ++ rd ++ imm)
  | .auipc rd imm => some (0xc#6 ++ rd ++ imm)
  | .ormi rd rs1 imm => some (0xd#6 ++ rd ++ rs1 ++ imm)
  | .orhi rd rs1 imm => some (0xe#6 ++ rd ++ rs1 ++ imm)
  | .lb rt rs1 imm => some (0x10#6 ++ rt ++ rs1 ++ imm)
  | .lbu rt rs1 imm => some (0x11#6 ++ rt ++ rs1 ++ imm)
  | .lh rt rs1 imm => some (0x12#6 ++ rt ++ rs1 ++ imm)
  | .lhu rt rs1 imm => some (0x13#6 ++ rt ++ rs1 ++ imm)
  | .lw rt rs1 imm => some (0x14#6 ++ rt ++ rs1 ++ imm)
  | .lwu rt rs1 imm => some (0x15#6 ++ rt ++ rs1 ++ imm)
  | .ld rt rs1 imm => some (0x16#6 ++ rt ++ rs1 ++ imm)
  | .lq rt rs1 imm => some (0x17#6 ++ rt ++ rs1 ++ imm)
  | .sb rt rs1 imm => some (0x18#6 ++ rt ++ rs1 ++ imm)
  | .sh rt rs1 imm => some (0x19#6 ++ rt ++ rs1 ++ imm)
  | .sw rt rs1 imm => some (0x1a#6 ++ rt ++ rs1 ++ imm)
  | .sd rt rs1 imm => some (0x1b#6 ++ rt ++ rs1 ++ imm)
  | .sq rt rs1 imm => some (0x1c#6 ++ rt ++ rs1 ++ imm)
  | .lbW rt rs1 imm => some (0x1d#6 ++ rt ++ rs1 ++ 0x2#5 ++ imm)
  | .lbWc rt rs1 imm => some (0x1d#6 ++ rt ++ rs1 ++ 0x3#5 ++ imm)
  | .lbuW rt rs1 imm => some (0x1d#6 ++ rt ++ rs1 ++ 0x0#5 ++ imm)
  | .lbuWc rt rs1 imm => some (0x1d#6 ++ rt ++ rs1 ++ 0x1#5 ++ imm)
  | .lhW rt rs1 imm => some (0x1d#6 ++ rt ++ rs1 ++ 0x6#5 ++ imm)
  | .lhWc rt rs1 imm => some (0x1d#6 ++ rt ++ rs1 ++ 0x7#5 ++ imm)
  | .lhuW rt rs1 imm => some (0x1d#6 ++ rt ++ rs1 ++ 0x4#5 ++ imm)
  | .lhuWc rt rs1 imm => some (0x1d#6 ++ rt ++ rs1 ++ 0x5#5 ++ imm)
  | .lwW rt rs1 imm => some (0x1d#6 ++ rt ++ rs1 ++ 0xa#5 ++ imm)
  | .lwWc rt rs1 imm => some (0x1d#6 ++ rt ++ rs1 ++ 0xb#5 ++ imm)
  | .lwuW rt rs1 imm => some (0x1d#6 ++ rt ++ rs1 ++ 0x8#5 ++ imm)
  | .lwuWc rt rs1 imm => some (0x1d#6 ++ rt ++ rs1 ++ 0x9#5 ++ imm)
  | .ldW rt rs1 imm => some (0x1d#6 ++ rt ++ rs1 ++ 0xc#5 ++ imm)
  | .ldWc rt rs1 imm => some (0x1d#6 ++ rt ++ rs1 ++ 0xd#5 ++ imm)
  | .lqW rt rs1 imm => some (0x1d#6 ++ rt ++ rs1 ++ 0x10#5 ++ imm)
  | .lqWc rt rs1 imm => some (0x1d#6 ++ rt ++ rs1 ++ 0x11#5 ++ imm)
  | .sbFl rt rs1 imm => some (0x1e#6 ++ rt ++ rs1 ++ 0x0#5 ++ imm)
  | .shFl rt rs1 imm => some (0x1e#6 ++ rt ++ rs1 ++ 0x4#5 ++ imm)
  | .swFl rt rs1 imm => some (0x1e#6 ++ rt ++ rs1 ++ 0x8#5 ++ imm)
  | .sdFl rt rs1 imm => some (0x1e#6 ++ rt ++ rs1 ++ 0xc#5 ++ imm)
  | .sqFl rt rs1 imm => some (0x1e#6 ++ rt ++ rs1 ++ 0x10#5 ++ imm)
  | .beq rs1 rs2 off => some (0x20#6 ++ rs1 ++ rs2 ++ off)
  | .bne rs1 rs2 off => some (0x21#6 ++ rs1 ++ rs2 ++ off)
  | .blt rs1 rs2 off => some (0x22#6 ++ rs1 ++ rs2 ++ off)
  | .bge rs1 rs2 off => some (0x23#6 ++ rs1 ++ rs2 ++ off)
  | .bltu rs1 rs2 off => some (0x24#6 ++ rs1 ++ rs2 ++ off)
  | .bgeu rs1 rs2 off => some (0x25#6 ++ rs1 ++ rs2 ++ off)
  | .jal off => some (0x26#6 ++ off)
  | .j off => some (0x27#6 ++ off)
  | .jalr rd rs1 imm => some (0x28#6 ++ rd ++ rs1 ++ imm)
  | .fadd rd rs1 rs2 ty => some (0x2a#6 ++ rd ++ rs1 ++ rs2 ++ ty ++ 0x0#7)
  | .fsub rd rs1 rs2 ty => some (0x2a#6 ++ rd ++ rs1 ++ rs2 ++ ty ++ 0x1#7)
  | .fmul rd rs1 rs2 ty => some (0x2a#6 ++ rd ++ rs1 ++ rs2 ++ ty ++ 0x2#7)
  | .fdiv rd rs1 rs2 ty => some (0x2a#6 ++ rd ++ rs1 ++ rs2 ++ ty ++ 0x3#7)
  | .fsqrt rd rs1 ty => some (0x2a#6 ++ rd ++ rs1 ++ 0x0#5 ++ ty ++ 0x4#7)
  | .fmin rd rs1 rs2 ty => some (0x2a#6 ++ rd ++ rs1 ++ rs2 ++ ty ++ 0x5#7)
  | .fmax rd rs1 rs2 ty => some (0x2a#6 ++ rd ++ rs1 ++ rs2 ++ ty ++ 0x6#7)
  | .feq rd rs1 rs2 ty => some (0x2a#6 ++ rd ++ rs1 ++ rs2 ++ ty ++ 0x7#7)
  | .flt rd rs1 rs2 ty => some (0x2a#6 ++ rd ++ rs1 ++ rs2 ++ ty ++ 0x8#7)
  | .fle rd rs1 rs2 ty => some (0x2a#6 ++ rd ++ rs1 ++ rs2 ++ ty ++ 0x9#7)
  | .fclass rd rs1 ty => some (0x2a#6 ++ rd ++ rs1 ++ 0x0#5 ++ ty ++ 0xa#7)
  | .fcvt rd rs1 sty ty => some (0x2a#6 ++ rd ++ rs1 ++ 0x0#1 ++ sty ++ ty ++ 0xb#7)
  | .ftoi rd rs1 rm ty => some (0x2a#6 ++ rd ++ rs1 ++ rm ++ ty ++ 0xc#7)
  | .fton rd rs1 rm ty => some (0x2a#6 ++ rd ++ rs1 ++ rm ++ ty ++ 0xd#7)
  | .itof rd rs1 ty => some (0x2a#6 ++ rd ++ rs1 ++ 0x0#5 ++ ty ++ 0xe#7)
  | .ntof rd rs1 ty => some (0x2a#6 ++ rd ++ rs1 ++ 0x0#5 ++ ty ++ 0xf#7)
  | .fmadd rd rs1 rs2 rs3 ty => some (0x2b#6 ++ rd ++ rs1 ++ rs2 ++ rs3 ++ 0x0#2 ++ ty)
  | .fmsub rd rs1 rs2 rs3 ty => some (0x2b#6 ++ rd ++ rs1 ++ rs2 ++ rs3 ++ 0x1#2 ++ ty)
  | .fnmadd rd rs1 rs2 rs3 ty => some (0x2b#6 ++ rd ++ rs1 ++ rs2 ++ rs3 ++ 0x2#2 ++ ty)
  | .fnmsub rd rs1 rs2 rs3 ty => some (0x2b#6 ++ rd ++ rs1 ++ rs2 ++ rs3 ++ 0x3#2 ++ ty)
  | .amoswap rd rs1 rs2 sc ord asz => some (0x2c#6 ++ rd ++ rs1 ++ rs2 ++ sc ++ ord ++ asz ++ 0x0#4)
  | .amoadd rd rs1 rs2 sc ord asz => some (0x2c#6 ++ rd ++ rs1 ++ rs2 ++ sc ++ ord ++ asz ++ 0x1#4)
  | .amoand rd rs1 rs2 sc ord asz => some (0x2c#6 ++ rd ++ rs1 ++ rs2 ++ sc ++ ord ++ asz ++ 0x2#4)
  | .amoor rd rs1 rs2 sc ord asz => some (0x2c#6 ++ rd ++ rs1 ++ rs2 ++ sc ++ ord ++ asz ++ 0x3#4)
  | .amoxor rd rs1 rs2 sc ord asz => some (0x2c#6 ++ rd ++ rs1 ++ rs2 ++ sc ++ ord ++ asz ++ 0x4#4)
  | .amomin rd rs1 rs2 sc ord asz => some (0x2c#6 ++ rd ++ rs1 ++ rs2 ++ sc ++ ord ++ asz ++ 0x5#4)
  | .amomax rd rs1 rs2 sc ord asz => some (0x2c#6 ++ rd ++ rs1 ++ rs2 ++ sc ++ ord ++ asz ++ 0x6#4)
  | .amominu rd rs1 rs2 sc ord asz => some (0x2c#6 ++ rd ++ rs1 ++ rs2 ++ sc ++ ord ++ asz ++ 0x7#4)
  | .amomaxu rd rs1 rs2 sc ord asz => some (0x2c#6 ++ rd ++ rs1 ++ rs2 ++ sc ++ ord ++ asz ++ 0x8#4)
  | .amocas rd rs1 rs2 sc ord asz => some (0x2c#6 ++ rd ++ rs1 ++ rs2 ++ sc ++ ord ++ asz ++ 0x9#4)
  | .amold rd rs1 sc ord asz => some (0x2c#6 ++ rd ++ rs1 ++ 0x0#5 ++ sc ++ ord ++ asz ++ 0xa#4)
  | .amost rs1 rs2 sc ord asz => some (0x2c#6 ++ 0x0#5 ++ rs1 ++ rs2 ++ sc ++ ord ++ asz ++ 0xb#4)
  | .fenceSv => some (0x2d#6 ++ 0x0#26)
  | .fenceVs => some (0x2d#6 ++ 0x1#26)
  | .fenceVv => some (0x2d#6 ++ 0x2#26)
  | .binit rs1 rs2 => some (0x2e#6 ++ 0x0#5 ++ rs1 ++ rs2 ++ 0x0#11)
  | .arrive rd rs1 => some (0x2e#6 ++ rd ++ rs1 ++ 0x1#16)
  | .arriveDrop rd rs1 => some (0x2e#6 ++ rd ++ rs1 ++ 0x2#16)
  | .bwait rd rs1 rs2 => some (0x2e#6 ++ rd ++ rs1 ++ rs2 ++ 0x3#11)
  | .phend => some (0x2e#6 ++ 0x4#26)
  | .qcfg rs1 rs2 => some (0x2f#6 ++ 0x0#5 ++ rs1 ++ rs2 ++ 0x0#11)
  | .qpost rs1 rs2 => some (0x2f#6 ++ 0x0#5 ++ rs1 ++ rs2 ++ 0x1#11)
  | .qtake rd rs1 rs2 => some (0x2f#6 ++ rd ++ rs1 ++ rs2 ++ 0x2#11)
  | .qwaitn rd rs1 rs2 => some (0x2f#6 ++ rd ++ rs1 ++ rs2 ++ 0x3#11)
  | .qstat rd rs1 => some (0x2f#6 ++ rd ++ rs1 ++ 0x4#16)
  | .qresync rs1 => some (0x2f#6 ++ 0x0#5 ++ rs1 ++ 0x5#16)
  | .postb rs1 ra rb rc re => some (0x30#6 ++ rs1 ++ ra ++ rb ++ rc ++ re ++ 0x0#1)
  | .getr rd => some (0x31#6 ++ rd ++ 0x0#21)
  | .waitc bl ns cp tl => some (0x32#6 ++ 0x0#10 ++ bl ++ ns ++ cp ++ tl)
  | .copy rs1 => some (0x33#6 ++ 0x0#5 ++ rs1 ++ 0x0#16)
  | .klaunch rd rs1 => some (0x34#6 ++ rd ++ rs1 ++ 0x0#16)
  | .seat rs1 => some (0x35#6 ++ 0x0#5 ++ rs1 ++ 0x0#16)
  | .spanatt rs1 => some (0x35#6 ++ 0x0#5 ++ rs1 ++ 0x1#16)
  | .spanrel rs1 => some (0x35#6 ++ 0x0#5 ++ rs1 ++ 0x2#16)
  | .csrr rd creg => some (0x38#6 ++ rd ++ 0x0#9 ++ creg)
  | .csrw rd rs1 creg => some (0x38#6 ++ rd ++ rs1 ++ 0x1#4 ++ creg)
  | .csrs rd rs1 creg => some (0x38#6 ++ rd ++ rs1 ++ 0x2#4 ++ creg)
  | .csrc rd rs1 creg => some (0x38#6 ++ rd ++ rs1 ++ 0x3#4 ++ creg)
  | .trap code => some (0x39#6 ++ 0x0#18 ++ code)
  | .alloc => some (0x39#6 ++ 0x1#26)
  | .free => some (0x39#6 ++ 0x2#26)
  | .kstat => some (0x39#6 ++ 0x3#26)
  | .kcancel => some (0x39#6 ++ 0x4#26)
  | .feat => some (0x39#6 ++ 0x5#26)
  | .logev => some (0x39#6 ++ 0x6#26)
  | .tret => some (0x39#6 ++ 0x100#26)
  | .exit => some (0x39#6 ++ 0x200#26)
  | .convoy len k0 k1 k2 k3 k4 k5 => some (0xfc#8 ++ len ++ k0 ++ k1 ++ k2 ++ k3 ++ k4 ++ k5 ++ 0x0#3)
  | _ => none

/-- The 64 bits of a vector instruction (09 R142); row 0xE_ opcodes included (R150). -/
def encodeVector (i : Instr) : Option (BitVec 64) :=
  let word : BitVec 8 → VFields → BitVec 64 := fun op f =>
    op ++ f.vd ++ f.vs1 ++ f.vs2 ++ f.vs3 ++ f.msk ++ BitVec.ofBool f.me ++ f.ty ++ f.fn
  match i with
  | .microcodeOpcode op f => some (word (0xE#4 ++ op) f)
  | i => match Machine.vrowOf i with
    | some (r, f) => some (word r.op f)
    | none => none

/-- The parcels of an instruction, lowest address first: a two-parcel instruction keeps bits [63:32] in the first
(09 R134). Rows that no instruction stream holds have no parcel. -/
def encode (i : Instr) : List Parcel :=
  match encodeParcel i with
  | some p => [p]
  | none => match encodeVector i with
    | some v => [v.extractLsb' 32 32, v.extractLsb' 0 32]
    | none => []

/-- The instructions of major 0x1 (09 R141). -/
noncomputable def integerForms (p : Parcel) : Option Instr :=
  match (p.extractLsb' 0 11).toNat with
  | 0 => some (.add (p.extractLsb' 21 5) (p.extractLsb' 16 5) (p.extractLsb' 11 5))
  | 1 => some (.sub (p.extractLsb' 21 5) (p.extractLsb' 16 5) (p.extractLsb' 11 5))
  | 2 => some (.and (p.extractLsb' 21 5) (p.extractLsb' 16 5) (p.extractLsb' 11 5))
  | 3 => some (.or (p.extractLsb' 21 5) (p.extractLsb' 16 5) (p.extractLsb' 11 5))
  | 4 => some (.xor (p.extractLsb' 21 5) (p.extractLsb' 16 5) (p.extractLsb' 11 5))
  | 5 => some (.sll (p.extractLsb' 21 5) (p.extractLsb' 16 5) (p.extractLsb' 11 5))
  | 6 => some (.srl (p.extractLsb' 21 5) (p.extractLsb' 16 5) (p.extractLsb' 11 5))
  | 7 => some (.sra (p.extractLsb' 21 5) (p.extractLsb' 16 5) (p.extractLsb' 11 5))
  | 8 => some (.slt (p.extractLsb' 21 5) (p.extractLsb' 16 5) (p.extractLsb' 11 5))
  | 9 => some (.sltu (p.extractLsb' 21 5) (p.extractLsb' 16 5) (p.extractLsb' 11 5))
  | 10 => some (.mul (p.extractLsb' 21 5) (p.extractLsb' 16 5) (p.extractLsb' 11 5))
  | 11 => some (.mulh (p.extractLsb' 21 5) (p.extractLsb' 16 5) (p.extractLsb' 11 5))
  | 12 => some (.mulhu (p.extractLsb' 21 5) (p.extractLsb' 16 5) (p.extractLsb' 11 5))
  | 13 => some (.div (p.extractLsb' 21 5) (p.extractLsb' 16 5) (p.extractLsb' 11 5))
  | 14 => some (.divu (p.extractLsb' 21 5) (p.extractLsb' 16 5) (p.extractLsb' 11 5))
  | 15 => some (.rem (p.extractLsb' 21 5) (p.extractLsb' 16 5) (p.extractLsb' 11 5))
  | 16 => some (.remu (p.extractLsb' 21 5) (p.extractLsb' 16 5) (p.extractLsb' 11 5))
  | 17 => some (.min (p.extractLsb' 21 5) (p.extractLsb' 16 5) (p.extractLsb' 11 5))
  | 18 => some (.max (p.extractLsb' 21 5) (p.extractLsb' 16 5) (p.extractLsb' 11 5))
  | 19 => some (.minu (p.extractLsb' 21 5) (p.extractLsb' 16 5) (p.extractLsb' 11 5))
  | 20 => some (.maxu (p.extractLsb' 21 5) (p.extractLsb' 16 5) (p.extractLsb' 11 5))
  | 21 => some (.clz (p.extractLsb' 21 5) (p.extractLsb' 16 5))
  | 22 => some (.ctz (p.extractLsb' 21 5) (p.extractLsb' 16 5))
  | 23 => some (.popc (p.extractLsb' 21 5) (p.extractLsb' 16 5))
  | _ => none

/-- The instructions of major 0x1D (09 R141). -/
def consumingLoads (p : Parcel) : Option Instr :=
  match (p.extractLsb' 11 5).toNat with
  | 0 => some (.lbuW (p.extractLsb' 21 5) (p.extractLsb' 16 5) (p.extractLsb' 0 11))
  | 1 => some (.lbuWc (p.extractLsb' 21 5) (p.extractLsb' 16 5) (p.extractLsb' 0 11))
  | 2 => some (.lbW (p.extractLsb' 21 5) (p.extractLsb' 16 5) (p.extractLsb' 0 11))
  | 3 => some (.lbWc (p.extractLsb' 21 5) (p.extractLsb' 16 5) (p.extractLsb' 0 11))
  | 4 => some (.lhuW (p.extractLsb' 21 5) (p.extractLsb' 16 5) (p.extractLsb' 0 11))
  | 5 => some (.lhuWc (p.extractLsb' 21 5) (p.extractLsb' 16 5) (p.extractLsb' 0 11))
  | 6 => some (.lhW (p.extractLsb' 21 5) (p.extractLsb' 16 5) (p.extractLsb' 0 11))
  | 7 => some (.lhWc (p.extractLsb' 21 5) (p.extractLsb' 16 5) (p.extractLsb' 0 11))
  | 8 => some (.lwuW (p.extractLsb' 21 5) (p.extractLsb' 16 5) (p.extractLsb' 0 11))
  | 9 => some (.lwuWc (p.extractLsb' 21 5) (p.extractLsb' 16 5) (p.extractLsb' 0 11))
  | 10 => some (.lwW (p.extractLsb' 21 5) (p.extractLsb' 16 5) (p.extractLsb' 0 11))
  | 11 => some (.lwWc (p.extractLsb' 21 5) (p.extractLsb' 16 5) (p.extractLsb' 0 11))
  | 12 => some (.ldW (p.extractLsb' 21 5) (p.extractLsb' 16 5) (p.extractLsb' 0 11))
  | 13 => some (.ldWc (p.extractLsb' 21 5) (p.extractLsb' 16 5) (p.extractLsb' 0 11))
  | 16 => some (.lqW (p.extractLsb' 21 5) (p.extractLsb' 16 5) (p.extractLsb' 0 11))
  | 17 => some (.lqWc (p.extractLsb' 21 5) (p.extractLsb' 16 5) (p.extractLsb' 0 11))
  | _ => none

/-- The instructions of major 0x1E (09 R141). -/
def fillingStores (p : Parcel) : Option Instr :=
  match (p.extractLsb' 11 5).toNat with
  | 0 => some (.sbFl (p.extractLsb' 21 5) (p.extractLsb' 16 5) (p.extractLsb' 0 11))
  | 4 => some (.shFl (p.extractLsb' 21 5) (p.extractLsb' 16 5) (p.extractLsb' 0 11))
  | 8 => some (.swFl (p.extractLsb' 21 5) (p.extractLsb' 16 5) (p.extractLsb' 0 11))
  | 12 => some (.sdFl (p.extractLsb' 21 5) (p.extractLsb' 16 5) (p.extractLsb' 0 11))
  | 16 => some (.sqFl (p.extractLsb' 21 5) (p.extractLsb' 16 5) (p.extractLsb' 0 11))
  | _ => none

/-- The instructions of major 0x2A (09 R141). -/
def floatForms (p : Parcel) : Option Instr :=
  match (p.extractLsb' 0 7).toNat with
  | 0 => some (.fadd (p.extractLsb' 21 5) (p.extractLsb' 16 5) (p.extractLsb' 11 5) (p.extractLsb' 7 4))
  | 1 => some (.fsub (p.extractLsb' 21 5) (p.extractLsb' 16 5) (p.extractLsb' 11 5) (p.extractLsb' 7 4))
  | 2 => some (.fmul (p.extractLsb' 21 5) (p.extractLsb' 16 5) (p.extractLsb' 11 5) (p.extractLsb' 7 4))
  | 3 => some (.fdiv (p.extractLsb' 21 5) (p.extractLsb' 16 5) (p.extractLsb' 11 5) (p.extractLsb' 7 4))
  | 4 => some (.fsqrt (p.extractLsb' 21 5) (p.extractLsb' 16 5) (p.extractLsb' 7 4))
  | 5 => some (.fmin (p.extractLsb' 21 5) (p.extractLsb' 16 5) (p.extractLsb' 11 5) (p.extractLsb' 7 4))
  | 6 => some (.fmax (p.extractLsb' 21 5) (p.extractLsb' 16 5) (p.extractLsb' 11 5) (p.extractLsb' 7 4))
  | 7 => some (.feq (p.extractLsb' 21 5) (p.extractLsb' 16 5) (p.extractLsb' 11 5) (p.extractLsb' 7 4))
  | 8 => some (.flt (p.extractLsb' 21 5) (p.extractLsb' 16 5) (p.extractLsb' 11 5) (p.extractLsb' 7 4))
  | 9 => some (.fle (p.extractLsb' 21 5) (p.extractLsb' 16 5) (p.extractLsb' 11 5) (p.extractLsb' 7 4))
  | 10 => some (.fclass (p.extractLsb' 21 5) (p.extractLsb' 16 5) (p.extractLsb' 7 4))
  | 11 => some (.fcvt (p.extractLsb' 21 5) (p.extractLsb' 16 5) (p.extractLsb' 11 4) (p.extractLsb' 7 4))
  | 12 => some (.ftoi (p.extractLsb' 21 5) (p.extractLsb' 16 5) (p.extractLsb' 11 5) (p.extractLsb' 7 4))
  | 13 => some (.fton (p.extractLsb' 21 5) (p.extractLsb' 16 5) (p.extractLsb' 11 5) (p.extractLsb' 7 4))
  | 14 => some (.itof (p.extractLsb' 21 5) (p.extractLsb' 16 5) (p.extractLsb' 7 4))
  | 15 => some (.ntof (p.extractLsb' 21 5) (p.extractLsb' 16 5) (p.extractLsb' 7 4))
  | _ => none

/-- The instructions of major 0x2B (09 R141). -/
def fusedForms (p : Parcel) : Option Instr :=
  match (p.extractLsb' 4 2).toNat with
  | 0 => some (.fmadd (p.extractLsb' 21 5) (p.extractLsb' 16 5) (p.extractLsb' 11 5) (p.extractLsb' 6 5) (p.extractLsb' 0 4))
  | 1 => some (.fmsub (p.extractLsb' 21 5) (p.extractLsb' 16 5) (p.extractLsb' 11 5) (p.extractLsb' 6 5) (p.extractLsb' 0 4))
  | 2 => some (.fnmadd (p.extractLsb' 21 5) (p.extractLsb' 16 5) (p.extractLsb' 11 5) (p.extractLsb' 6 5) (p.extractLsb' 0 4))
  | 3 => some (.fnmsub (p.extractLsb' 21 5) (p.extractLsb' 16 5) (p.extractLsb' 11 5) (p.extractLsb' 6 5) (p.extractLsb' 0 4))
  | _ => none

/-- The instructions of major 0x2C (09 R141). -/
def atomicForms (p : Parcel) : Option Instr :=
  match (p.extractLsb' 0 4).toNat with
  | 0 => some (.amoswap (p.extractLsb' 21 5) (p.extractLsb' 16 5) (p.extractLsb' 11 5) (p.extractLsb' 8 3) (p.extractLsb' 6 2) (p.extractLsb' 4 2))
  | 1 => some (.amoadd (p.extractLsb' 21 5) (p.extractLsb' 16 5) (p.extractLsb' 11 5) (p.extractLsb' 8 3) (p.extractLsb' 6 2) (p.extractLsb' 4 2))
  | 2 => some (.amoand (p.extractLsb' 21 5) (p.extractLsb' 16 5) (p.extractLsb' 11 5) (p.extractLsb' 8 3) (p.extractLsb' 6 2) (p.extractLsb' 4 2))
  | 3 => some (.amoor (p.extractLsb' 21 5) (p.extractLsb' 16 5) (p.extractLsb' 11 5) (p.extractLsb' 8 3) (p.extractLsb' 6 2) (p.extractLsb' 4 2))
  | 4 => some (.amoxor (p.extractLsb' 21 5) (p.extractLsb' 16 5) (p.extractLsb' 11 5) (p.extractLsb' 8 3) (p.extractLsb' 6 2) (p.extractLsb' 4 2))
  | 5 => some (.amomin (p.extractLsb' 21 5) (p.extractLsb' 16 5) (p.extractLsb' 11 5) (p.extractLsb' 8 3) (p.extractLsb' 6 2) (p.extractLsb' 4 2))
  | 6 => some (.amomax (p.extractLsb' 21 5) (p.extractLsb' 16 5) (p.extractLsb' 11 5) (p.extractLsb' 8 3) (p.extractLsb' 6 2) (p.extractLsb' 4 2))
  | 7 => some (.amominu (p.extractLsb' 21 5) (p.extractLsb' 16 5) (p.extractLsb' 11 5) (p.extractLsb' 8 3) (p.extractLsb' 6 2) (p.extractLsb' 4 2))
  | 8 => some (.amomaxu (p.extractLsb' 21 5) (p.extractLsb' 16 5) (p.extractLsb' 11 5) (p.extractLsb' 8 3) (p.extractLsb' 6 2) (p.extractLsb' 4 2))
  | 9 => some (.amocas (p.extractLsb' 21 5) (p.extractLsb' 16 5) (p.extractLsb' 11 5) (p.extractLsb' 8 3) (p.extractLsb' 6 2) (p.extractLsb' 4 2))
  | 10 => some (.amold (p.extractLsb' 21 5) (p.extractLsb' 16 5) (p.extractLsb' 8 3) (p.extractLsb' 6 2) (p.extractLsb' 4 2))
  | 11 => some (.amost (p.extractLsb' 16 5) (p.extractLsb' 11 5) (p.extractLsb' 8 3) (p.extractLsb' 6 2) (p.extractLsb' 4 2))
  | _ => none

/-- The instructions of major 0x2D (09 R141). -/
def fenceForms (p : Parcel) : Option Instr :=
  match (p.extractLsb' 0 11).toNat with
  | 0 => some (.fenceSv)
  | 1 => some (.fenceVs)
  | 2 => some (.fenceVv)
  | _ => none

/-- The instructions of major 0x2E (09 R141). -/
def barrierForms (p : Parcel) : Option Instr :=
  match (p.extractLsb' 0 11).toNat with
  | 0 => some (.binit (p.extractLsb' 16 5) (p.extractLsb' 11 5))
  | 1 => some (.arrive (p.extractLsb' 21 5) (p.extractLsb' 16 5))
  | 2 => some (.arriveDrop (p.extractLsb' 21 5) (p.extractLsb' 16 5))
  | 3 => some (.bwait (p.extractLsb' 21 5) (p.extractLsb' 16 5) (p.extractLsb' 11 5))
  | 4 => some (.phend)
  | _ => none

/-- The instructions of major 0x2F (09 R141). -/
def pigeonholeForms (p : Parcel) : Option Instr :=
  match (p.extractLsb' 0 11).toNat with
  | 0 => some (.qcfg (p.extractLsb' 16 5) (p.extractLsb' 11 5))
  | 1 => some (.qpost (p.extractLsb' 16 5) (p.extractLsb' 11 5))
  | 2 => some (.qtake (p.extractLsb' 21 5) (p.extractLsb' 16 5) (p.extractLsb' 11 5))
  | 3 => some (.qwaitn (p.extractLsb' 21 5) (p.extractLsb' 16 5) (p.extractLsb' 11 5))
  | 4 => some (.qstat (p.extractLsb' 21 5) (p.extractLsb' 16 5))
  | 5 => some (.qresync (p.extractLsb' 16 5))
  | _ => none

/-- The instructions of major 0x31 (09 R141). -/
def replyForms (p : Parcel) : Option Instr :=
  match (p.extractLsb' 0 11).toNat with
  | 0 => some (.getr (p.extractLsb' 21 5))
  | _ => none

/-- The instructions of major 0x33 (09 R141). -/
def copyForms (p : Parcel) : Option Instr :=
  match (p.extractLsb' 0 11).toNat with
  | 0 => some (.copy (p.extractLsb' 16 5))
  | _ => none

/-- The instructions of major 0x34 (09 R141). -/
def launchForms (p : Parcel) : Option Instr :=
  match (p.extractLsb' 0 11).toNat with
  | 0 => some (.klaunch (p.extractLsb' 21 5) (p.extractLsb' 16 5))
  | _ => none

/-- The instructions of major 0x35 (09 R141). -/
def seatingForms (p : Parcel) : Option Instr :=
  match (p.extractLsb' 0 11).toNat with
  | 0 => some (.seat (p.extractLsb' 16 5))
  | 1 => some (.spanatt (p.extractLsb' 16 5))
  | 2 => some (.spanrel (p.extractLsb' 16 5))
  | _ => none

/-- The instructions of major 0x38 (09 R141). -/
def controlForms (p : Parcel) : Option Instr :=
  match (p.extractLsb' 12 4).toNat with
  | 0 => some (.csrr (p.extractLsb' 21 5) (p.extractLsb' 0 12))
  | 1 => some (.csrw (p.extractLsb' 21 5) (p.extractLsb' 16 5) (p.extractLsb' 0 12))
  | 2 => some (.csrs (p.extractLsb' 21 5) (p.extractLsb' 16 5) (p.extractLsb' 0 12))
  | 3 => some (.csrc (p.extractLsb' 21 5) (p.extractLsb' 16 5) (p.extractLsb' 0 12))
  | _ => none

/-- The instructions of major 0x39 (09 R141). -/
def trapForms (p : Parcel) : Option Instr :=
  match (p.extractLsb' 8 3).toNat with
  | 0 =>
    match (p.extractLsb' 0 8).toNat with
    | 1 => some .alloc
    | 2 => some .free
    | 3 => some .kstat
    | 4 => some .kcancel
    | 5 => some .feat
    | 6 => some .logev
    | _ => some (.trap (p.extractLsb' 0 8))
  | 1 => some .tret
  | 2 => some .exit
  | _ => none

/-- The scalar instruction that OP from 0x10 on and its function field name, its operand fields read (09 R138, R141). -/
def majorForms (p : Parcel) : Option Instr :=
  match (p.extractLsb' 26 6).toNat with
  | 0x10 => some (.lb (p.extractLsb' 21 5) (p.extractLsb' 16 5) (p.extractLsb' 0 16))
  | 0x11 => some (.lbu (p.extractLsb' 21 5) (p.extractLsb' 16 5) (p.extractLsb' 0 16))
  | 0x12 => some (.lh (p.extractLsb' 21 5) (p.extractLsb' 16 5) (p.extractLsb' 0 16))
  | 0x13 => some (.lhu (p.extractLsb' 21 5) (p.extractLsb' 16 5) (p.extractLsb' 0 16))
  | 0x14 => some (.lw (p.extractLsb' 21 5) (p.extractLsb' 16 5) (p.extractLsb' 0 16))
  | 0x15 => some (.lwu (p.extractLsb' 21 5) (p.extractLsb' 16 5) (p.extractLsb' 0 16))
  | 0x16 => some (.ld (p.extractLsb' 21 5) (p.extractLsb' 16 5) (p.extractLsb' 0 16))
  | 0x17 => some (.lq (p.extractLsb' 21 5) (p.extractLsb' 16 5) (p.extractLsb' 0 16))
  | 0x18 => some (.sb (p.extractLsb' 21 5) (p.extractLsb' 16 5) (p.extractLsb' 0 16))
  | 0x19 => some (.sh (p.extractLsb' 21 5) (p.extractLsb' 16 5) (p.extractLsb' 0 16))
  | 0x1a => some (.sw (p.extractLsb' 21 5) (p.extractLsb' 16 5) (p.extractLsb' 0 16))
  | 0x1b => some (.sd (p.extractLsb' 21 5) (p.extractLsb' 16 5) (p.extractLsb' 0 16))
  | 0x1c => some (.sq (p.extractLsb' 21 5) (p.extractLsb' 16 5) (p.extractLsb' 0 16))
  | 0x1d => consumingLoads p
  | 0x1e => fillingStores p
  | 0x20 => some (.beq (p.extractLsb' 21 5) (p.extractLsb' 16 5) (p.extractLsb' 0 16))
  | 0x21 => some (.bne (p.extractLsb' 21 5) (p.extractLsb' 16 5) (p.extractLsb' 0 16))
  | 0x22 => some (.blt (p.extractLsb' 21 5) (p.extractLsb' 16 5) (p.extractLsb' 0 16))
  | 0x23 => some (.bge (p.extractLsb' 21 5) (p.extractLsb' 16 5) (p.extractLsb' 0 16))
  | 0x24 => some (.bltu (p.extractLsb' 21 5) (p.extractLsb' 16 5) (p.extractLsb' 0 16))
  | 0x25 => some (.bgeu (p.extractLsb' 21 5) (p.extractLsb' 16 5) (p.extractLsb' 0 16))
  | 0x26 => some (.jal (p.extractLsb' 0 26))
  | 0x27 => some (.j (p.extractLsb' 0 26))
  | 0x28 => some (.jalr (p.extractLsb' 21 5) (p.extractLsb' 16 5) (p.extractLsb' 0 16))
  | 0x2a => floatForms p
  | 0x2b => fusedForms p
  | 0x2c => atomicForms p
  | 0x2d => fenceForms p
  | 0x2e => barrierForms p
  | 0x2f => pigeonholeForms p
  | 0x30 => some (.postb (p.extractLsb' 21 5) (p.extractLsb' 16 5) (p.extractLsb' 11 5) (p.extractLsb' 6 5) (p.extractLsb' 1 5))
  | 0x31 => replyForms p
  | 0x32 => some (.waitc (p.extractLsb' 12 4) (p.extractLsb' 8 4) (p.extractLsb' 4 4) (p.extractLsb' 0 4))
  | 0x33 => copyForms p
  | 0x34 => launchForms p
  | 0x35 => seatingForms p
  | 0x38 => controlForms p
  | 0x39 => trapForms p
  | _ => none

/-- The scalar instruction that OP and its function field name, its operand fields read (09 R138, R141). It is marked
noncomputable only because compiled code cannot build constructors numbered past 244; the kernel evaluates it. -/
noncomputable def scalarFields (p : Parcel) : Option Instr :=
  match (p.extractLsb' 26 6).toNat with
  | 0x1 => integerForms p
  | 0x2 => some (.addi (p.extractLsb' 21 5) (p.extractLsb' 16 5) (p.extractLsb' 0 16))
  | 0x3 => some (.andi (p.extractLsb' 21 5) (p.extractLsb' 16 5) (p.extractLsb' 0 16))
  | 0x4 => some (.ori (p.extractLsb' 21 5) (p.extractLsb' 16 5) (p.extractLsb' 0 16))
  | 0x5 => some (.xori (p.extractLsb' 21 5) (p.extractLsb' 16 5) (p.extractLsb' 0 16))
  | 0x6 => some (.slti (p.extractLsb' 21 5) (p.extractLsb' 16 5) (p.extractLsb' 0 16))
  | 0x7 => some (.sltiu (p.extractLsb' 21 5) (p.extractLsb' 16 5) (p.extractLsb' 0 16))
  | 0x8 => some (.slli (p.extractLsb' 21 5) (p.extractLsb' 16 5) (p.extractLsb' 0 6))
  | 0x9 => some (.srli (p.extractLsb' 21 5) (p.extractLsb' 16 5) (p.extractLsb' 0 6))
  | 0xa => some (.srai (p.extractLsb' 21 5) (p.extractLsb' 16 5) (p.extractLsb' 0 6))
  | 0xb => some (.lui (p.extractLsb' 21 5) (p.extractLsb' 0 21))
  | 0xc => some (.auipc (p.extractLsb' 21 5) (p.extractLsb' 0 21))
  | 0xd => some (.ormi (p.extractLsb' 21 5) (p.extractLsb' 16 5) (p.extractLsb' 0 16))
  | 0xe => some (.orhi (p.extractLsb' 21 5) (p.extractLsb' 16 5) (p.extractLsb' 0 16))
  | _ => majorForms p

/-- The decoder of majors 0x10 to 0x3F: `decodeScalar` without those below. -/
def decodeMajor (p : Parcel) : Option Instr :=
  match majorForms p with
  | some i => if i.wf && encodeParcel i == some p then some i else none
  | none => none

/-- A parcel of majors 0x00 to 0x0E that an instruction defines: its function and reserved fields (09 R138, R141, R151). -/
def integerLegal (p : Parcel) : Bool :=
  match (p.extractLsb' 26 6).toNat with
  | 0x0 => false
  | 0x1 =>
    let fn := (p.extractLsb' 0 11).toNat
    fn ≤ 20 || (fn ≤ 23 && p.extractLsb' 11 5 == 0)
  | 0x8 => p.extractLsb' 6 10 == 0
  | 0x9 => p.extractLsb' 6 10 == 0
  | 0xa => p.extractLsb' 6 10 == 0
  | op => op ≤ 0xe

/-- A control thread's decoder: the fields must hold defined values and the reserved fields zero (09 R141, R151). -/
noncomputable def decodeScalar (p : Parcel) : Option Instr :=
  match scalarFields p with
  | some i => if i.wf && encodeParcel i == some p then some i else none
  | none => none

/-- The fields below the opcode of a vector instruction, from its two parcels (09 R142). -/
def vectorFields (hi lo : Parcel) : VFields :=
  { vd := hi.extractLsb' 18 6, vs1 := hi.extractLsb' 12 6, vs2 := hi.extractLsb' 6 6, vs3 := hi.extractLsb' 0 6,
    msk := lo.extractLsb' 29 3, me := lo.getLsbD 28, ty := lo.extractLsb' 24 4, fn := lo.extractLsb' 0 24 }

/-- The vector instruction an opcode names (09 R146, R150). -/
def vectorOpcode (op : Nat) (f : VFields) : Option Instr :=
  match op with
  | 0x01 => some (.setvl f)
  | 0x02 => some (.vld f)
  | 0x03 => some (.vst f)
  | 0x04 => some (.vlds f)
  | 0x05 => some (.vsts f)
  | 0x06 => some (.vldx f)
  | 0x07 => some (.vstx f)
  | 0x08 => some (.vldz f)
  | 0x09 => some (.vgatherb f)
  | 0x0A => some (.vbind f)
  | 0x0B => some (.vunbind f)
  | 0x0C => some (.sbar f)
  | 0x0D => some (.vcopy f)
  | 0x0F => some (.vsetmf f)
  | 0x10 => some (.vamo f)
  | 0x11 => some (.vredm f)
  | 0x12 => some (.vwin f)
  | 0x13 => some (.vacc f)
  | 0x14 => some (.vmerge f)
  | 0x15 => some (.vldl f)
  | 0x16 => some (.vstl f)
  | 0x17 => some (.vqpost f)
  | 0x20 => some (.vadd f)
  | 0x21 => some (.vsub f)
  | 0x22 => some (.vmul f)
  | 0x23 => some (.vfma f)
  | 0x24 => some (.vfms f)
  | 0x25 => some (.vfnma f)
  | 0x26 => some (.vfnms f)
  | 0x27 => some (.vdiv f)
  | 0x28 => some (.vmin f)
  | 0x29 => some (.vmax f)
  | 0x2A => some (.vabs f)
  | 0x2B => some (.vneg f)
  | 0x2C => some (.vsqrt f)
  | 0x2D => some (.vmulh f)
  | 0x2E => some (.vsadd f)
  | 0x2F => some (.vssub f)
  | 0x30 => some (.vand f)
  | 0x31 => some (.vor f)
  | 0x32 => some (.vxor f)
  | 0x33 => some (.vshl f)
  | 0x34 => some (.vshr f)
  | 0x35 => some (.vclz f)
  | 0x36 => some (.vpopc f)
  | 0x37 => some (.vcvt f)
  | 0x38 => some (.vcmp f)
  | 0x39 => some (.vsel f)
  | 0x3A => some (.vcmul f)
  | 0x3B => some (.vcmac f)
  | 0x3C => some (.vmov f)
  | 0x40 => some (.vmand f)
  | 0x41 => some (.vmor f)
  | 0x42 => some (.vmxor f)
  | 0x43 => some (.vmandn f)
  | 0x44 => some (.vmpop f)
  | 0x45 => some (.vmfirst f)
  | 0x48 => some (.vperm f)
  | 0x49 => some (.vslideup f)
  | 0x4A => some (.vslidedn f)
  | 0x4B => some (.vbcast f)
  | 0x4C => some (.vcompress f)
  | 0x4D => some (.vexpand f)
  | 0x4E => some (.vzip f)
  | 0x4F => some (.vunzip f)
  | 0x50 => some (.vxchg f)
  | 0x51 => some (.vredsum f)
  | 0x52 => some (.vredmax f)
  | 0x53 => some (.vredmin f)
  | 0x54 => some (.vredand f)
  | 0x55 => some (.vredor f)
  | 0x56 => some (.vrowstat f)
  | 0x57 => some (.vfn f)
  | 0x58 => some (.vtblld f)
  | 0x59 => some (.vidx f)
  | 0x5A => some (.vextw f)
  | 0x5B => some (.vinsw f)
  | 0x60 => some (.vbany f)
  | 0x61 => some (.vball f)
  | 0x62 => some (.vbnone f)
  | 0x63 => some (.vbrD f)
  | 0x64 => some (.vjoin f)
  | 0x65 => some (.vjmp f)
  | 0x66 => some (.vloop f)
  | 0x67 => some (.vendlp f)
  | 0x68 => some (.vend f)
  | 0x69 => some (.vpostr f)
  | 0x6A =>
    match (f.fn.extractLsb' 19 5).toNat with
    | 0 => some (.vwaluAdd f)
    | 1 => some (.vwaluSub f)
    | 2 => some (.vwaluAnd f)
    | 3 => some (.vwaluOr f)
    | 4 => some (.vwaluXor f)
    | 5 => some (.vwaluSll f)
    | 6 => some (.vwaluSrl f)
    | 7 => some (.vwaluSra f)
    | 8 => some (.vwaluSlt f)
    | 9 => some (.vwaluSltu f)
    | 10 => some (.vwaluMul f)
    | 11 => some (.vwaluMin f)
    | 12 => some (.vwaluMax f)
    | 13 => some (.vwaluMinu f)
    | 14 => some (.vwaluMaxu f)
    | 15 => some (.vwaluRlc f)
    | 16 => some (.vwaluRvl f)
    | 17 => some (.vwaluRssn f)
    | _ => none
  | 0x6B => some (.vwli f)
  | 0x80 => if f.fn.extractLsb' 0 1 = 1#1 then some (.vmodeArr f) else some (.vmodeVec f)
  | 0x81 => some (.moxa f)
  | 0x82 => some (.moxs f)
  | 0x83 => some (.mldw f)
  | 0x84 => some (.mpass f)
  | 0x85 => some (.mwb f)
  | 0x86 => some (.mwbQ f)
  | 0x87 => some (.mldt f)
  | 0x88 => some (.vtrn8 f)
  | 0x89 => some (.mchain f)
  | 0x90 => some (.sload f)
  | 0x91 => some (.sfree f)
  | 0x92 => some (.xop f)
  | 0x93 => some (.squery f)
  | 0x94 => some (.sstart f)
  | 0xE0 => some (.microcodeOpcode 0 f)
  | 0xE1 => some (.microcodeOpcode 1 f)
  | 0xE2 => some (.microcodeOpcode 2 f)
  | 0xE3 => some (.microcodeOpcode 3 f)
  | 0xE4 => some (.microcodeOpcode 4 f)
  | 0xE5 => some (.microcodeOpcode 5 f)
  | 0xE6 => some (.microcodeOpcode 6 f)
  | 0xE7 => some (.microcodeOpcode 7 f)
  | 0xE8 => some (.microcodeOpcode 8 f)
  | 0xE9 => some (.microcodeOpcode 9 f)
  | 0xEA => some (.microcodeOpcode 10 f)
  | 0xEB => some (.microcodeOpcode 11 f)
  | 0xEC => some (.microcodeOpcode 12 f)
  | 0xED => some (.microcodeOpcode 13 f)
  | 0xEE => some (.microcodeOpcode 14 f)
  | 0xEF => some (.microcodeOpcode 15 f)
  | _ => none

/-- A sequencer's decoder of a two-parcel instruction (09 R146, R151). -/
def decodeVector (hi lo : Parcel) : Option Instr :=
  match vectorOpcode (hi.extractLsb' 24 8).toNat (vectorFields hi lo) with
  | some i => if i.wf then some i else none
  | none => none

/-- A convoy header (09 R148): the top byte 0xFC with the reserved bits zero. LEN and the unit codes are checked when
the header executes (R149). -/
def decodeConvoy (p : Parcel) : Option Instr :=
  if p.extractLsb' 24 8 = 0xFC#8 && p.extractLsb' 0 3 = 0#3 then
    some (.convoy (p.extractLsb' 21 3) (p.extractLsb' 18 3) (p.extractLsb' 15 3) (p.extractLsb' 12 3)
      (p.extractLsb' 9 3) (p.extractLsb' 6 3) (p.extractLsb' 3 3))
  else none

/-- How many parcels the sequencer takes at its program counter, from the top byte there (09 R136). -/
def vectorLength (p : Parcel) : Nat := if (p.extractLsb' 24 8).toNat < 0xFC then 2 else 1

/-- A sequencer's decoder at its program counter (09 R136): a header, or an instruction of two parcels; a parcel with
top byte 0xFD to 0xFF, and every encoding that no instruction defines, is refused by name. -/
def decodeSequencer (hi lo : Parcel) : Instr :=
  if vectorLength hi = 2 then (decodeVector hi lo).getD (.undefinedEncoding hi lo)
  else (decodeConvoy hi).getD (.undefinedEncoding hi 0)

/-- A control thread's decoder at its program counter (09 R135, R151). -/
noncomputable def decodeThread (p : Parcel) : Instr := (decodeScalar p).getD (.undefinedEncoding p 0)

/-- The host's question: the instruction read from bits numbered as the opcode table numbers them, the first parcel in
the low bits. One parcel is read as a scalar instruction, and a convoy header by its top byte; two parcels as a vector
instruction. -/
noncomputable def decodeTableWord (nbits w : Nat) : Option Instr :=
  let first : Parcel := BitVec.ofNat 32 w
  let second : Parcel := BitVec.ofNat 32 (w / 2 ^ 32)
  if nbits ≤ 32 then
    match decodeScalar first with
    | some i => some i
    | none => decodeConvoy first
  else decodeVector first second

end Sys2Proof
end

