-- ==== Sys2Proof/Machine/Flags.lean ====
section
/-! DEFINITION. Every operation that computes a result together with its FFLAGS bits: scalar and elementwise floating point, conversions, comparisons, complex products, the array step, the reduction tree, row statistics, quantisation and segment tables (05 R76 to R94, R424; 11 R176 to R179; 15 R236 to R240). -/

namespace Sys2Proof.Machine

/-- NV for a signalling NaN among the values read (05 R71). -/
def snanFlag (vs : List FVal) : Flags := flagIf (vs.any FVal.isSnan) fNV

/-- The exact product of two values; 0 × ∞ is a NaN with NV (05 R85, R87). -/
def mulVal (a b : FVal) : FVal × Flags :=
  match a, b with
  | .nan _, _ => (.nan false, 0#7)
  | _, .nan _ => (.nan false, 0#7)
  | .inf s, v => if v.isZero then (.nan false, fNV) else (.inf (s != v.sign), 0#7)
  | v, .inf s => if v.isZero then (.nan false, fNV) else (.inf (s != v.sign), 0#7)
  | .fin s m e, .fin t n g => (.fin (s != t) (m * n) (e + g), 0#7)

/-- A finite value as an integer number of units 2^q, q at most its exponent. -/
def unitsAt (q : Int) : FVal → Int
  | .fin s m e => let k : Int := (m * 2 ^ (e - q).toNat : Nat); if s then -k else k
  | _ => 0

/-- The exponent of a finite value. -/
def expOf : FVal → Int
  | .fin _ _ e => e
  | _ => 0

/-- The least exponent among values. -/
def minExp (vs : List FVal) : Int :=
  match vs with
  | [] => 0
  | v :: rest => rest.foldl (fun q x => min q (expOf x)) (expOf v)

/-- The exact sum of values: a NaN for a NaN term, NV for infinities of both signs (05 R85). The sign of a zero sum
is the one `zeroNeg` gives from the terms' signs. -/
def sumVal (zeroNeg : List FVal → Bool) (vs : List FVal) : FVal × Flags :=
  if vs.any FVal.isNan then (.nan false, 0#7)
  else
    let pos := vs.any (fun v => v.isInf && !v.sign)
    let neg := vs.any (fun v => v.isInf && v.sign)
    if pos && neg then (.nan false, fNV)
    else if pos then (.inf false, 0#7)
    else if neg then (.inf true, 0#7)
    else
      let q := minExp vs
      let s := vs.foldl (fun t v => t + unitsAt q v) 0
      if s = 0 then (.fin (zeroNeg vs) 0 0, 0#7) else (.fin (decide (s < 0)) s.natAbs q, 0#7)

/-- IEEE 754-2019's sign of a zero sum: terms of one sign keep it, else +0, and −0 under rdn (05 R76). -/
def ieeeZero (mode : RoundMode) (vs : List FVal) : Bool :=
  if vs.all FVal.sign then true else if vs.all (fun v => !v.sign) then false else mode == .rdn

/-- The sign of a zero component of a complex product: +0, −0 under rdn or when every term is −0 (15 R240). -/
def complexZero (mode : RoundMode) (vs : List FVal) : Bool := vs.all FVal.sign || mode == .rdn

/-- A value rounded, the flags joined. -/
def rounded (f : FType) (r : Rounding) (v : FVal × Flags) : Nat × Flags :=
  let (e, g) := roundVal f r v.1
  (e, v.2 ||| g)

/-- A NaN result for operands of which one is a NaN (05 R71). -/
def nanResult (f : FType) (vs : List FVal) : Nat × Flags := ((f.nan).getD f.maxEnc, snanFlag vs)

/-- Round(x + y) (11 R177, 15 R236). -/
def fAdd (f : FType) (r : Rounding) (x y : Nat) : Nat × Flags :=
  let vs := [f.value x, f.value y]
  if vs.any FVal.isNan then nanResult f vs else rounded f r (sumVal (ieeeZero r.mode) vs)

/-- Round(x − y). -/
def fSub (f : FType) (r : Rounding) (x y : Nat) : Nat × Flags :=
  let vs := [f.value x, (f.value y).negate]
  if vs.any FVal.isNan then nanResult f vs else rounded f r (sumVal (ieeeZero r.mode) vs)

/-- Round(x × y). -/
def fMul (f : FType) (r : Rounding) (x y : Nat) : Nat × Flags :=
  let vs := [f.value x, f.value y]
  if vs.any FVal.isNan then nanResult f vs else rounded f r (mulVal (f.value x) (f.value y))

/-- Round(±(x × y) ± z), one rounding; 0 × ∞ raises NV whatever z holds (11 R179). -/
def fFma (f : FType) (r : Rounding) (negP negZ : Bool) (x y z : Nat) : Nat × Flags :=
  let a := f.value x
  let b := f.value y
  let c := if negZ then (f.value z).negate else f.value z
  let (p, g) := mulVal a b
  let bad := snanFlag [a, b, c] ||| g
  if [a, b, c].any FVal.isNan || g != 0#7 then ((f.nan).getD f.maxEnc, bad)
  else rounded f r (sumVal (ieeeZero r.mode) [if negP then p.negate else p, c])

/-- The exact quotient of finite nonzero values, rounded once; the special cases of FDIV (11 R177). -/
def divVal (f : FType) (r : Rounding) (a b : FVal) : Nat × Flags :=
  match a, b with
  | .nan s, v => ((f.nan).getD f.maxEnc, snanFlag [.nan s, v])
  | v, .nan s => ((f.nan).getD f.maxEnc, snanFlag [v, .nan s])
  | .inf _, .inf _ => ((f.nan).getD f.maxEnc, fNV)
  | .inf s, .fin t _ _ => (f.inf (s != t), 0#7)
  | .fin s _ _, .inf t => (f.signed (s != t) 0, 0#7)
  | .fin s m e, .fin t n g =>
    if n = 0 then
      if m = 0 then ((f.nan).getD f.maxEnc, fNV) else (f.inf (s != t), fDZ)
    else if m = 0 then (f.signed (s != t) 0, 0#7)
    else roundMag f r (s != t) m n (e - g)

/-- Round(x / y). -/
def fDiv (f : FType) (r : Rounding) (x y : Nat) : Nat × Flags := divVal f r (f.value x) (f.value y)

/-- One step of a bitwise square root: `acc` grows by `bit` when its square still fits. -/
def isqrtGo : Nat → Nat → Nat → Nat
  | 0, _, acc => acc
  | k + 1, n, acc => isqrtGo k n (if (acc + 2 ^ k) * (acc + 2 ^ k) ≤ n then acc + 2 ^ k else acc)

/-- The integer square root. -/
def isqrt (n : Nat) : Nat := isqrtGo (n.log2 / 2 + 1) n 0

/-- Round(√x): √(−0) = −0; a negative gives NaN and NV (11 R177). The root is taken with more than 100 bits
and a sticky bit below them, so that one rounding is exact. -/
def fSqrt (f : FType) (r : Rounding) (x : Nat) : Nat × Flags :=
  match f.value x with
  | .nan s => ((f.nan).getD f.maxEnc, snanFlag [.nan s])
  | .inf s => if s then ((f.nan).getD f.maxEnc, fNV) else (f.inf false, 0#7)
  | .fin s m e =>
    if m = 0 then (f.signed s 0, 0#7)
    else if s then ((f.nan).getD f.maxEnc, fNV)
    else
      let sh : Nat := 220 + (if e % 2 = 0 then 0 else 1)
      let n := m * 2 ^ sh
      let k := isqrt n
      let e' := (e - (sh : Int)) / 2
      if k * k = n then roundMag f r false k 1 e' else roundMag f r false (2 * k + 1) 1 (e' - 1)

/-- Order of values that are not NaN: −1, 0 or 1, with −0 equal to +0. -/
def cmpVal (a b : FVal) : Int :=
  let rank : FVal → Int := fun v => if v.isInf then (if v.sign then -1 else 1) else 0
  if a.isInf || b.isInf then
    (if rank a < rank b then -1 else if rank b < rank a then 1 else 0)
  else
    let q := minExp [a, b]
    let x := unitsAt q a
    let y := unitsAt q b
    if x < y then -1 else if y < x then 1 else 0

/-- FMIN and FMAX: −0 below +0; one NaN gives the other operand, two the canonical NaN (11 R177). -/
def fMinMax (f : FType) (isMax : Bool) (x y : Nat) : Nat × Flags :=
  let a := f.value x
  let b := f.value y
  let g := snanFlag [a, b]
  let x' := x % 2 ^ f.bits
  let y' := y % 2 ^ f.bits
  if a.isNan && b.isNan then ((f.nan).getD f.maxEnc, g)
  else if a.isNan then (y', g)
  else if b.isNan then (x', g)
  else
    let c := cmpVal a b
    let below := decide (c < 0) || (decide (c = 0) && a.sign && !b.sign)
    (if below == isMax then y' else x', g)

/-- The conditions of VCMP (15 R239): 0 eq, 1 ne, 2 lt, 3 le, 4 gt, 5 ge, 6 un. -/
def fCmp (f : FType) (cc : Nat) (x y : Nat) : Bool × Flags :=
  let a := f.value x
  let b := f.value y
  let g := snanFlag [a, b]
  if a.isNan || b.isNan then
    let ordered := 2 ≤ cc && cc ≤ 5
    (cc == 1 || cc == 6, g ||| flagIf ordered fNV)
  else
    let c := cmpVal a b
    ((match cc with
      | 0 => decide (c = 0)
      | 1 => decide (c ≠ 0)
      | 2 => decide (c < 0)
      | 3 => decide (c ≤ 0)
      | 4 => decide (0 < c)
      | 5 => decide (0 ≤ c)
      | _ => false), g)

/-- FCLASS (11 R178): the number of the one bit set. -/
def fClass (f : FType) (x : Nat) : Nat :=
  match f.value x with
  | .nan s => if s then 8 else 9
  | .inf s => if s then 0 else 7
  | .fin s m _ =>
    if m = 0 then (if s then 3 else 4)
    else if (x >>> f.mbits) % 2 ^ f.ebits = 0 then (if s then 2 else 5)
    else (if s then 1 else 6)

/-- A conversion between floating formats (05 R77, R79). -/
def fConv (src dst : FType) (r : Rounding) (x : Nat) : Nat × Flags := roundVal dst r (src.value x)

/-- A conversion to an integer: rounded in the mode, then clipped; a NaN gives 0 and NV; NX only where nothing
clips (05 R79, 11 R177). -/
def fToInt (src : FType) (signed : Bool) (w : Nat) (r : Rounding) (x : Nat) : Nat × Flags :=
  let (lo, hi) := intRange signed w
  match src.value x with
  | .nan _ => (0, fNV)
  | .inf s => (keep (if s then lo else hi) w, fIS)
  | .fin s m e =>
    let (k, inexact) := roundUnits r s m 1 e 0
    let v : Int := if s then -(k : Int) else k
    let (c, clipped) := satInt v lo hi
    (keep c w, if clipped then fIS else flagIf inexact fNX)

/-- A conversion from an exact integer to a floating format. -/
def intToF (dst : FType) (r : Rounding) (v : Int) : Nat × Flags := roundVal dst r (FVal.ofInt v)

/-- One component of a complex product: cv + p × q ± t × u, one rounding (15 R240). -/
def complexPart (r : Rounding) (sub : Bool) (cv p q t u : FVal) : Nat × Flags :=
  let (x, g) := mulVal p q
  let (y, h) := mulVal t u
  let bad := snanFlag [cv, p, q, t, u] ||| g ||| h
  if [cv, p, q, t, u].any FVal.isNan || (g ||| h) != 0#7 then ((FType.f32.nan).getD 0, bad)
  else rounded .f32 r (sumVal (complexZero r.mode) [cv, x, if sub then y.negate else y])

/-- The tree of 05 R88 over optional items, one level. -/
def treeLevel {α : Type} (op : α → α → α × Flags) : List (Option α) → List (Option α) × Flags
  | [] => ([], 0#7)
  | [x] => ([x], 0#7)
  | x :: y :: rest =>
    let (tail, g) := treeLevel op rest
    match x, y with
    | some a, some b => let (c, h) := op a b; (some c :: tail, g ||| h)
    | some a, none => (some a :: tail, g)
    | none, b => (b :: tail, g)

/-- The tree of 05 R88, as many levels as the fuel allows; a list of n items needs at most n levels. -/
def treeGo {α : Type} (op : α → α → α × Flags) : Nat → List (Option α) → List (Option α) × Flags
  | 0, xs => (xs, 0#7)
  | n + 1, xs =>
    if xs.length ≤ 1 then (xs, 0#7)
    else
      let (ys, g) := treeLevel op xs
      let (zs, h) := treeGo op n ys
      (zs, g ||| h)

/-- The result of 05 R88: s[0], or the identity. -/
def reduceTree {α : Type} (op : α → α → α × Flags) (ident : α) (xs : List (Option α)) : α × Flags :=
  match treeGo op xs.length xs with
  | (some a :: _, g) => (a, g)
  | (_, g) => (ident, g)

/-- VROWSTAT's four statistics of a row: sum, max, mean, var (05 R89). `row` holds the .f32 value of each position, none where
it is not active, so that both sums take the tree of R88 over the row's positions. -/
def rowStat (row : List (Option Nat)) : (Nat × Nat × Nat × Nat) × Flags :=
  let xs := row.filterMap id
  if xs.isEmpty then ((0, 0xFF800000, 0, 0), 0#7)
  else
    let n := xs.length
    let conv := xs.map (fConv .f32 .f64 rneR)
    let row64 := row.map (Option.map (fun x => (fConv .f32 .f64 rneR x).1))
    let g0 := conv.foldl (fun g c => g ||| c.2) 0#7
    let add := fAdd .f64 rneR
    let (s, g1) := reduceTree add 0 row64
    let count : FVal := .fin false n 0
    let (mu, g2) := divVal .f64 rneR (FType.f64.value s) count
    let square := fun (x : Nat) =>
      let d := sumVal (ieeeZero .rne) [FType.f64.value x, (FType.f64.value mu).negate]
      let p := mulVal d.1 d.1
      let z := rounded .f64 rneR p
      (z.1, z.2 ||| d.2)
    let q := row64.map (Option.map square)
    let g3 := (q.filterMap id).foldl (fun g c => g ||| c.2) 0#7
    let (qq, g4) := reduceTree add 0 (q.map (Option.map Prod.fst))
    let (sum, g5) := fConv .f64 .f32 rneR s
    let mx := if xs.any (fun x => (FType.f32.value x).isNan) then 0x7FC00000
      else xs.foldl (fun m x => (fMinMax .f32 true m x).1) 0xFF800000
    let (mean, g6) := fConv .f64 .f32 rneR mu
    let (var, g7) := divVal .f32 rneR (FType.f64.value qq) count
    ((sum, mx, mean, var), g0 ||| g1 ||| g2 ||| g3 ||| g4 ||| g5 ||| g6 ||| g7)

/-- The matrix operand codes that name a floating format, MX codes with their element format (05 R74, R75). -/
def operandFormat : Nat → Option FType
  | 0 => some .f32 | 1 => some .bf16 | 2 => some .f16 | 3 => some .e4m3 | 4 => some .e5m2 | 5 => some .e3m2
  | 6 => some .e2m3 | 7 => some .e2m1 | 12 => some .e4m3 | 13 => some .e5m2 | 14 => some .e2m1
  | _ => none

/-- One operand element of a code as an exact value, without its block scale (05 R74, R75). -/
def operandValue (code x : Nat) : FVal :=
  match operandFormat code with
  | some f => f.value x
  | none =>
    match code with
    | 15 => let v := sext x 8; .fin (decide (v < 0)) v.natAbs (-6)
    | 8 => FVal.ofInt (sext x 8)
    | 9 => FVal.ofInt (x % 256 : Nat)
    | 10 => FVal.ofInt (sext x 4)
    | _ => FVal.ofInt (x % 16 : Nat)

/-- Bits of an element of an operand code in memory positions and registers (05 R75). -/
def operandBits : Nat → Nat
  | 0 => 32 | 1 => 16 | 2 => 16 | 7 => 4 | 10 => 4 | 11 => 4 | 14 => 4
  | _ => 8

/-- Products summed in one accumulator step (05 R75). -/
def operandStep : Nat → Nat
  | 0 => 1 | 1 => 1 | 2 => 1 | 7 => 4 | 10 => 4 | 11 => 4 | 14 => 4
  | _ => 2

/-- Codes with an .i32 accumulator (05 R75). -/
def operandInt (code : Nat) : Bool := 8 ≤ code && code ≤ 11

/-- Codes with block scales (05 R74). -/
def operandMx (code : Nat) : Bool := 12 ≤ code && code ≤ 15

/-- An element of a block under its E8M0 encoding: every element of a block with the NaN scale reads as a NaN, quiet whatever
its own encoding holds (05 R74). -/
def blockValue (code scale x : Nat) : FVal := if operandMx code && scale == 255 then .nan false else operandValue code x

/-- One step of the array's accumulation (05 R86, R87): acc ← Round(acc ± Σ A × B × 2^(sa+sb−254)). `pairs` holds
the step's operand encodings, `sa` and `sb` the E8M0 encodings; `sub` subtracts the exact sum of the step. -/
def arrayStep (code : Nat) (sub : Bool) (sa sb : Nat) (pairs : List (Nat × Nat)) (acc : Nat) : Nat × Flags :=
  if operandInt code then
    let s := pairs.foldl (fun t p => t + unitsAt 0 (operandValue code p.1) * unitsAt 0 (operandValue code p.2)) 0
    let (v, clipped) := satInt (sext acc 32 + (if sub then -s else s)) (-2147483648) 2147483647
    (keep v 32, flagIf clipped fIS)
  else
    let vals := pairs.map (fun p => (blockValue code sa p.1, blockValue code sb p.2))
    let sn := snanFlag (vals.flatMap (fun p => [p.1, p.2]))
    let prods := vals.map (fun p => mulVal p.1 p.2)
    let g := prods.foldl (fun g p => g ||| p.2) sn
    let (p, h) := sumVal (fun _ => false) (prods.map Prod.fst)
    let shift : Int := if operandMx code then (sa : Int) + (sb : Int) - 254 else 0
    let p := match p with
      | .fin s m e => if m = 0 then .fin false 0 0 else .fin (s != sub) m (e + shift)
      | .inf s => .inf (s != sub)
      | .nan s => .nan s
    let a := FType.f32.value acc
    if p.isNan || a.isNan then (0x7FC00000, g ||| h ||| snanFlag [a])
    else
      let (e, k) := rounded .f32 rneR (sumVal (ieeeZero .rne) [a, p])
      (e, g ||| h ||| k)

/-- The smallest s from `lo` on, within the fuel, with A × 2^(−s) at most M (05 R91). -/
def scaleFrom (ma : Nat) (ea : Int) (mk : Nat) (mq : Int) : Nat → Int → Int
  | 0, s => s
  | n + 1, s =>
    let q := min (ea - s) mq
    if ma * 2 ^ (ea - s - q).toNat ≤ mk * 2 ^ (mq - q).toNat then s else scaleFrom ma ea mk mq n (s + 1)

/-- MWB.Q of one scaling group of .f32 accumulators: the encodings, the E8M0 scale and the flags (05 R90, R91). -/
def quantise (code : Nat) (accs : List Nat) : List Nat × Nat × Flags :=
  let vals := accs.map FType.f32.value
  let (mk, mq) : Nat × Int := match operandFormat code with
    | some f => (match f.value f.maxEnc with | .fin _ k e => (k, e) | _ => (127, -6))
    | none => (127, -6)
  let absV : FVal → FVal := fun v => match v with
    | .fin _ m e => .fin false m e
    | w => w
  let big := (vals.filter (fun v => !v.isNan && !v.isInf)).foldl
    (fun m v => if cmpVal m (absV v) < 0 then absV v else m) (.fin false 0 0)
  let s : Int := match big with
    | .fin _ m e =>
      if m = 0 then 0
      else
        let start := (m.log2 : Int) + e - ((mk.log2 : Int) + mq) - 1
        min 127 (max (-127) (scaleFrom m e mk mq 8 start))
    | _ => 0
  let one : FVal → Nat × Flags := fun v =>
    match v with
    | .nan sg => (match operandFormat code with
      | some f => roundVal f rneR (.nan sg)
      | none => (0x7F, fNQ ||| flagIf sg fNV))
    | _ =>
      let neg := v.sign
      let exceeds := v.isInf || decide (0 < cmpVal (match v with | .fin _ m e => .fin false m (e - s) | w => w)
        (.fin false mk mq))
      let y : FVal := if exceeds then .fin neg mk mq else (match v with | .fin sg m e => .fin sg m (e - s) | w => w)
      let g := flagIf exceeds fOF ||| flagIf (exceeds && !v.isInf) fNX
      match operandFormat code with
      | some f => let (e, h) := roundVal f rneR y; (e, g ||| h)
      | none =>
        (match y with
        | .fin sg m e =>
          let (k, inexact) := roundUnits rneR sg m 1 e (-6)
          (keep (if sg then -(k : Int) else k) 8, g ||| flagIf inexact fNX ||| flagIf (inexact && k == 0) fUF)
        | _ => (0, g))
  let rs := vals.map one
  (rs.map Prod.fst, (s + 127).toNat, rs.foldl (fun g p => g ||| p.2) 0#7)

/-- The size in bytes of a segment table with this header word, or none when it is malformed (05 R92). -/
def tableSize (header : Nat) : Option Nat :=
  let sym := field header 22 21
  let deg := field header 20 20
  let mb := field header 19 16
  let emax := field header 15 8
  let emin := field header 7 0
  if field header 31 23 ≠ 0 || sym == 3 || 4 < mb || emin == 0 || emin == 255 || emax == 255 || emax < emin then none
  else
    let half := (emax - emin + 1) * 2 ^ mb + 2
    let entries := if sym = 0 then 2 * half else half
    if 256 < entries then none else some (16 + entries * (if deg = 1 then 12 else 8))

/-- Round(x × y + z, f32, rne). Of its flags VFN keeps NV for a signalling NaN alone (05 R71, R93). -/
def fma32 (x y : FVal) (z : Nat) : Nat × Flags :=
  let (p, g) := mulVal x y
  let c := FType.f32.value z
  (if g != 0#7 || p.isNan || c.isNan then 0x7FC00000 else (rounded .f32 rneR (sumVal (ieeeZero .rne) [p, c])).1,
    snanFlag [x, y, c])

/-- VFN's value from a segment table, whose 32-bit word at byte `o` is `word o` (05 R92, R93); a NaN that is
negated stays the canonical one (05 R71). PINF and NINF are returned bit for bit, a NaN among them too, and raise nothing
(DEDUCED, log 41); a signalling NaN read as a coefficient raises NV (05 R71). -/
def segTable (word : Nat → Nat) (x : Nat) : Nat × Flags :=
  let h := word 0
  let sym := field h 22 21
  let deg := field h 20 20
  let mb := field h 19 16
  let emax := field h 15 8
  let emin := field h 7 0
  match FType.f32.value x with
  | .nan s => (0x7FC00000, flagIf s fNV)
  | .inf s => (if s then word 8 else word 4, 0#7)
  | .fin s _ _ =>
    let aenc := if sym = 0 then x % 2 ^ 32 else x % 2 ^ 31
    let half := (emax - emin + 1) * 2 ^ mb + 2
    let bexp := field aenc 30 23
    let seg := field aenc 22 (23 - mb)
    let i := if bexp < emin then 0 else if emax < bexp then half - 1 else 1 + (bexp - emin) * 2 ^ mb + (if mb = 0 then 0 else seg)
    let idx := if sym = 0 && s then half + i else i
    let a := FType.f32.value aenc
    let b : FVal := if i = 0 || i == half - 1 then .fin false 0 0
      else FType.f32.value (aenc / 2 ^ (23 - mb) * 2 ^ (23 - mb))
    let t := (sumVal (ieeeZero .rne) [a, b.negate]).1
    let at' := fun j => word (16 + idx * (if deg = 1 then 12 else 8) + 4 * j)
    let (y, g) := if deg = 1 then
        let (u, g) := fma32 (FType.f32.value (at' 2)) t (at' 1)
        let (y, h) := fma32 (FType.f32.value u) t (at' 0)
        (y, g ||| h)
      else fma32 (FType.f32.value (at' 1)) t (at' 0)
    (if sym = 2 && s && y != 0x7FC00000 then (y + 2 ^ 31) % 2 ^ 32 else y, g)

/-- The results every version of the built-in tables gives (05 R424): +∞, −∞, +0, −0, and whether negative finite
arguments give the canonical NaN; none where the segments decide. -/
def builtinFixed (table : Nat) : Nat × Nat × Option Nat × Option Nat × Bool :=
  let one := 0x3F800000
  let inf := 0x7F800000
  let ninf := 0xFF800000
  let nz := 0x80000000
  let nan := 0x7FC00000
  match table with
  | 0 => (inf, nz, some 0, some nz, false)
  | 1 => (inf, nz, some 0, some nz, false)
  | 2 => (one, 0xBF800000, some 0, some nz, false)
  | 3 => (inf, 0, some one, some one, false)
  | 4 => (inf, nan, some ninf, some ninf, true)
  | 5 => (0, nz, some inf, some ninf, false)
  | 6 => (0, nan, some inf, some ninf, true)
  | 7 => (one, 0xBF800000, some 0, some nz, false)
  | 8 => (one, 0, some 0x3F000000, some 0x3F000000, false)
  | 9 => (inf, nz, some 0, some nz, false)
  | 10 => (inf, 0, some one, some one, false)
  | 11 => (inf, nan, some ninf, some ninf, true)
  | 12 => (inf, nan, some 0, some nz, true)
  | 13 => (nan, nan, some 0, some nz, false)
  | 14 => (nan, nan, some one, some one, false)
  | _ => (inf, 0, none, none, false)

/-- VFN on a built-in table (05 R93, R94, R424): `segments` is what the table's own segments give. -/
def builtinTable (segments : Nat → Nat → Nat) (table x : Nat) : Nat × Flags :=
  let (pinf, ninf, pz, nz, dom) := builtinFixed table
  match FType.f32.value x with
  | .nan s => (0x7FC00000, flagIf s fNV)
  | .inf s => (if s then ninf else pinf, 0#7)
  | .fin s m _ =>
    if m = 0 then ((if s then nz else pz).getD (segments table x % 2 ^ 32), 0#7)
    else if s && dom then (0x7FC00000, 0#7)
    else (segments table x % 2 ^ 32, 0#7)

/-- The integer operations of VWALU, VOP and the scalar unit share these 64-bit results (11 R169). -/
def divSigned (a b : Word) : Word := if b = 0 then BitVec.allOnes 64 else a.sdiv b

def divUnsigned (a b : Word) : Word := if b = 0 then BitVec.allOnes 64 else a / b

def remSigned (a b : Word) : Word := if b = 0 then a else a.srem b

def remUnsigned (a b : Word) : Word := if b = 0 then a else a % b

end Sys2Proof.Machine
end

