-- ==== Sys2Proof/Machine/Graph.lean ====
section
/-! DEFINITION. Graph images: records, what makes one malformed, costs, path times and live state, and the evaluation of one element or iteration (19 R289 to R298). -/

namespace Sys2Proof.Machine

/-- A node record (19 R291). -/
structure Node where
  op : Nat
  wd : Nat
  sg : Bool
  prm : Nat
  inA : Nat
  inB : Nat
  inC : Nat
  imm : Nat
  aux : Nat
  reserved : Bool
  deriving DecidableEq, Repr

/-- An image's header and nodes (19 R290); `headerBad` says that a reserved field or value is set or a count is out of range. -/
structure Graph where
  kind : Nat
  nsrc : Nat
  ty : Nat
  sg : Nat
  ver : Nat
  lat : Nat
  ndata : Nat
  nodes : List Node
  data : Nat
  headerBad : Bool
  deriving DecidableEq, Repr

/-- Node and data records that a header announces. -/
def graphRecords (header : Nat) : Nat := field header 23 16 + field header 15 8

/-- The node of 16 bytes. -/
def nodeOf (r : Nat) : Node :=
  { op := field r 31 27, wd := field r 26 24, sg := bitOf r 23, prm := field r 21 16, inA := field r 55 48, inB := field r 47 40,
    inC := field r 39 32, imm := field r 95 64, aux := field r 127 96,
    reserved := bitOf r 22 || field r 15 0 != 0 || field r 63 56 != 0 }

/-- The graph of an image's bytes, as a little-endian number (19 R289). -/
def graphOf (x : Nat) : Graph :=
  let nn := field x 23 16
  let nd := field x 15 8
  let kind := field x 31 28
  let ty := field x 3 0
  let sg := field x 7 7
  { kind := kind, nsrc := field x 27 26, ty := ty, sg := sg, ver := field x 63 56, lat := field x 37 32 + 1, ndata := nd,
    nodes := (List.range nn).map (fun i => nodeOf (field x (128 * (i + 1) + 127) (128 * (i + 1)))),
    data := x / 2 ^ (128 * (nn + 1)),
    headerBad := field x 25 24 != 0 || field x 6 4 != 0 || field x 55 38 != 0 || field x 127 64 != 0
      || !(kind == 1 || kind == 2) || nn == 0 || 128 < nn || 64 < nd || [5, 6, 7, 10, 11].contains ty
      || (elemType ty sg).isNone || (kind == 1 && field x 27 26 == 0) || field x 63 56 == 0 }

/-- Bits of a width code (19 R291). -/
def wdBits : Nat → Nat
  | 0 => 8 | 1 => 16 | 2 => 32 | 3 => 64 | 4 => 1
  | _ => 32

/-- The width of a graph's sources, result and stream (19 R290). -/
def Graph.width (g : Graph) : Nat := ((elemType g.ty g.sg).map ElemType.width).getD 32

/-- What 19 R293 gives an operation: integer, .f32 and predicate widths, whether compute and memory graphs take it, cells,
64-bit and .f32 cells, cycles, .f32 cycles, the inputs A, B, C (0 none, 1 required, 2 optional), and whether PRM, IMM and AUX are
used. -/
structure OpInfo where
  int : Bool
  flt : Bool
  pred : Bool
  compute : Bool
  memory : Bool
  cells : Nat
  cells64 : Nat
  cellsF : Nat
  cycles : Nat
  cyclesF : Nat
  a : Nat
  b : Nat
  c : Nat
  prm : Bool
  imm : Bool
  aux : Bool
  deriving DecidableEq, Repr

/-- The table of 19 R293; STRP and OUT take the width of the graph's type, AGEN 64 bits only (`nodeWidthOk`). -/
def opInfo : Nat → OpInfo
  | 0 => ⟨true, true, false, true, true, 1, 2, 2, 1, 4, 1, 1, 0, false, false, false⟩
  | 1 => ⟨true, true, false, true, true, 1, 2, 2, 1, 4, 1, 1, 0, false, false, false⟩
  | 2 => ⟨true, true, false, true, true, 2, 4, 2, 3, 4, 1, 1, 0, false, false, false⟩
  | 3 => ⟨true, false, false, true, true, 2, 4, 2, 3, 3, 1, 1, 0, false, false, false⟩
  | 4 => ⟨true, false, false, true, true, 1, 2, 1, 1, 1, 1, 1, 0, false, false, false⟩
  | 5 => ⟨true, false, false, true, true, 1, 2, 1, 1, 1, 1, 1, 0, false, false, false⟩
  | 6 => ⟨true, true, false, true, true, 1, 2, 1, 1, 1, 1, 1, 0, false, false, false⟩
  | 7 => ⟨true, true, false, true, true, 1, 2, 1, 1, 1, 1, 1, 0, false, false, false⟩
  | 8 => ⟨true, false, false, true, true, 1, 2, 1, 1, 1, 1, 0, 0, true, false, false⟩
  | 9 => ⟨true, false, false, true, true, 1, 2, 1, 1, 1, 1, 0, 0, true, false, false⟩
  | 10 => ⟨true, false, false, true, true, 1, 2, 1, 1, 1, 1, 1, 0, false, false, false⟩
  | 11 => ⟨true, false, false, true, true, 1, 2, 1, 1, 1, 1, 1, 0, false, false, false⟩
  | 12 => ⟨true, false, true, true, true, 1, 2, 1, 1, 1, 1, 1, 0, false, false, false⟩
  | 13 => ⟨true, false, true, true, true, 1, 2, 1, 1, 1, 1, 1, 0, false, false, false⟩
  | 14 => ⟨true, false, true, true, true, 1, 2, 1, 1, 1, 1, 1, 0, false, false, false⟩
  | 15 => ⟨true, false, true, true, true, 1, 2, 1, 1, 1, 1, 1, 0, false, false, false⟩
  | 16 => ⟨false, false, true, true, true, 1, 2, 1, 1, 1, 1, 1, 0, true, false, true⟩
  | 17 => ⟨true, true, true, true, true, 1, 2, 1, 1, 1, 1, 1, 1, false, false, false⟩
  | 18 => ⟨true, true, true, true, true, 1, 2, 1, 0, 0, 0, 0, 0, false, true, false⟩
  | 19 => ⟨true, true, true, true, true, 1, 2, 1, 0, 0, 1, 0, 0, true, true, false⟩
  | 20 => ⟨true, true, false, true, true, 4, 4, 4, 2, 2, 1, 0, 0, false, false, true⟩
  | 21 => ⟨true, true, false, true, true, 2, 4, 2, 1, 4, 1, 2, 0, true, true, false⟩
  | 22 => ⟨true, false, false, true, true, 1, 2, 1, 1, 1, 1, 0, 0, true, false, true⟩
  | 23 => ⟨true, false, false, true, true, 1, 2, 1, 1, 1, 1, 1, 0, true, false, false⟩
  | 24 => ⟨true, false, false, false, true, 2, 2, 2, 2, 2, 1, 1, 0, false, true, false⟩
  | 25 => ⟨true, true, false, false, true, 4, 4, 4, 0, 0, 1, 0, 2, false, false, true⟩
  | 26 => ⟨true, true, false, false, true, 4, 4, 4, 0, 0, 1, 1, 2, false, false, false⟩
  | 27 => ⟨true, true, false, false, true, 4, 4, 4, 0, 0, 1, 0, 2, false, false, false⟩
  | _ => ⟨true, true, false, true, false, 0, 0, 0, 0, 0, 1, 0, 0, false, false, false⟩

/-- A node's width is allowed (19 R293). -/
def nodeWidthOk (g : Graph) (n : Node) : Bool :=
  let i := opInfo n.op
  let kindOk := if n.wd ≤ 3 then i.int else if n.wd = 4 then i.pred else n.wd == 5 && i.flt
  kindOk && (n.op != 24 || n.wd == 3) && ((n.op != 27 && n.op != 28) || wdBits n.wd == g.width)

/-- Bits that BFX takes (19 R293). -/
def bfxLen (aux : Nat) : Nat := if field aux 5 0 = 0 then 64 else field aux 5 0

/-- A node breaks 19 R291, R293 or R294 by itself. -/
def nodeBad (g : Graph) (idx : Nat) (n : Node) : Bool :=
  let i := opInfo n.op
  let code := fun (need c : Nat) (delayA : Bool) =>
    if c = 0xFF then need == 1
    else if need = 0 then true
    else if c < 128 then decide (g.nodes.length ≤ c) || (decide (idx ≤ c) && !delayA)
    else !((0xF0 ≤ c && c < 0xF0 + g.nsrc) || c == 0xF3)
  n.reserved || 28 < n.op || 5 < n.wd || !nodeWidthOk g n || !(if g.kind = 1 then i.compute else i.memory)
    || code i.a n.inA (n.op == 19) || code i.b n.inB false || code i.c n.inC false
    || (!i.prm && n.prm != 0) || (!i.imm && n.imm != 0) || (!i.aux && n.aux != 0)
    || ((n.op == 8 || n.op == 9) && wdBits n.wd ≤ n.prm)
    || (n.op == 16 && (5 < n.prm || n.aux / 8 != 0 || 5 < n.aux % 8))
    || (n.op == 19 && (n.prm == 0 || 32 < n.prm))
    || (n.op == 20 && (n.aux % 65536 == 0 || 4096 < n.aux % 65536
        || g.ndata * 128 < n.aux / 65536 * 128 + n.aux % 65536 * wdBits n.wd))
    || (n.op == 21 && (if n.wd = 5 then 2 else 4) < n.prm)
    || (n.op == 22 && (n.aux / 64 != 0 || 64 < n.prm + bfxLen n.aux))
    || (n.op == 25 && n.aux / 2 != 0)

/-- The lowest malformed node, 0xFF for the header (19 R294, R304). -/
def graphFault (g : Graph) : Option Nat :=
  if g.headerBad then some 0xFF
  else
    let bad := (g.nodes.zipIdx).find? (fun x => nodeBad g x.2 x.1
      || ((x.1.op == 28 || x.1.op == 27) && (g.nodes.take x.2).any (fun y => y.op == x.1.op)))
    match bad with
    | some x => some x.2
    | none => if g.kind == 1 && !g.nodes.any (fun n => n.op == 28) then some 0xFF else none

/-- A node's cells (19 R293, R296). -/
def nodeCells (n : Node) : Nat :=
  let i := opInfo n.op
  if n.op = 19 then (1 + n.prm / 8) * (if n.wd = 3 then 2 else 1)
  else if n.op = 16 then (if n.aux % 8 = 3 then 2 else 1)
  else if n.wd = 3 then i.cells64 else if n.wd = 5 then i.cellsF else i.cells

/-- The cell cost (19 R296). -/
def Graph.cost (g : Graph) : Nat := (g.nodes.map nodeCells).foldl (fun n x => n + x) 0

/-- Path times of the nodes so far (19 R295); results of CONST, DELAY and the ports count 0. -/
def pathsGo (nodes : List Node) : List Node → List Nat → List Nat
  | [], acc => acc
  | n :: rest, acc =>
    let at' := fun (c : Nat) => match nodes[c]? with
      | some m => if [18, 19, 25, 26, 27].contains m.op then 0 else acc.getD c 0
      | none => 0
    let ins := [n.inA, n.inB, n.inC].foldl (fun m c => max m (if c < 128 then at' c else 0)) 0
    let i := opInfo n.op
    pathsGo nodes rest (acc ++ [(if n.wd = 5 then i.cyclesF else i.cycles) + ins])

/-- The path of a graph (19 R295). A DELAY node's own path follows its input, which may come later. -/
def Graph.path (g : Graph) : Nat :=
  let ps := pathsGo g.nodes g.nodes []
  let ps := (g.nodes.zipIdx).map (fun x =>
    if x.1.op = 19 && x.1.inA < 128 then
      (match g.nodes[x.1.inA]? with
      | some m => if [18, 19, 25, 26, 27].contains m.op then 0 else ps.getD x.1.inA 0
      | none => 0)
    else ps.getD x.2 0)
  if g.kind = 1 then
    match g.nodes.findIdx? (fun n => n.op == 28) with
    | some k => ps.getD k 0
    | none => 0
  else ps.foldl max 0

/-- Bytes of live state (19 R295). -/
def Graph.liveBytes (g : Graph) : Nat :=
  (g.nodes.map (fun n => let b := (wdBits n.wd + 7) / 8; if n.op = 19 then n.prm * b else if n.op = 21 then b else 0)).foldl
    (fun n x => n + x) 0

/-- IMM extended to n bits by SG (19 R293). -/
def immAt (n : Node) : Nat := if n.sg then keep (sext n.imm 32) (wdBits n.wd) else n.imm % 2 ^ wdBits n.wd

/-- Words of live state of a node: a line's values from the oldest, or a state. -/
def liveWords (n : Node) : Nat := if n.op = 19 then n.prm else if n.op = 21 then 1 else 0

/-- The live state at its initial values (19 R293). -/
def Graph.initial (g : Graph) : List Word :=
  g.nodes.flatMap (fun n => List.replicate (liveWords n) (BitVec.ofNat 64 (immAt n)))

/-- Live state, an empty list standing for the initial values. -/
def Graph.liveOr (g : Graph) (l : List Word) : List Word := if l.isEmpty then g.initial else l

/-- A value between nodes: its bits, its width, whether it extends by sign (19 R292). -/
structure GVal where
  bits : Nat
  width : Nat
  sg : Bool
  deriving DecidableEq, Repr, Inhabited

/-- A value read at a width (19 R292). -/
def GVal.at (v : GVal) (w : Nat) : Nat :=
  if w ≤ v.width then v.bits % 2 ^ w
  else if v.sg && v.width != 1 then keep (sext v.bits v.width) w else v.bits % 2 ^ v.width

/-- What an evaluation reads from outside: sources, the element or iteration index, a port's load. -/
structure GInput where
  srcs : List GVal
  index : Nat
  deriving DecidableEq, Repr

/-- The value of an input code among the results so far. -/
def codeVal (g : Graph) (inp : GInput) (vals : List GVal) (c : Nat) : GVal :=
  if c < 128 then vals.getD c ⟨0, wdBits ((g.nodes[c]?.map Node.wd).getD 0), false⟩
  else if c = 0xF3 then ⟨inp.index % 2 ^ 64, 64, false⟩
  else inp.srcs.getD (c - 0xF0) ⟨0, 64, false⟩

/-- The operation of an ACC node (19 R293). -/
def accOp (n : Node) (x a : Nat) : Nat × Flags :=
  let w := wdBits n.wd
  if n.wd = 5 then
    match n.prm with
    | 0 => fAdd .f32 rneR x a
    | 1 => fMinMax .f32 false x a
    | _ => fMinMax .f32 true x a
  else
    let s := fun (y : Nat) => readInt n.sg w y
    (match n.prm with
      | 0 => (x + a) % 2 ^ w
      | 1 => if s a < s x then a else x
      | 2 => if s x < s a then a else x
      | 3 => x ||| a
      | _ => x &&& a, 0#7)

/-- The result of a node without state, ports apart, from its inputs (19 R293). -/
def nodeResult (g : Graph) (n : Node) (va vb vc : GVal) : Nat × Flags :=
  let w := wdBits n.wd
  let a := va.at w
  let b := vb.at w
  let s := fun (y : Nat) => readInt n.sg w y
  let fl := n.wd == 5
  let m := fun (x : Int) => keep x w
  let sat := fun (x : Int) => let (lo, hi) := intRange n.sg w; let (y, c) := satInt x lo hi; (keep y w, flagIf c fIS)
  match n.op with
  | 0 => if fl then fAdd .f32 rneR a b else ((a + b) % 2 ^ w, 0#7)
  | 1 => if fl then fSub .f32 rneR a b else (m ((a : Int) - b), 0#7)
  | 2 => if fl then fMul .f32 rneR a b else (a * b % 2 ^ w, 0#7)
  | 3 => (m (s a * s b / (2 ^ w : Nat)), 0#7)
  | 4 => sat (s a + s b)
  | 5 => sat (s a - s b)
  | 6 => if fl then fMinMax .f32 false a b else (if s b < s a then b else a, 0#7)
  | 7 => if fl then fMinMax .f32 true a b else (if s a < s b then b else a, 0#7)
  | 8 => (a * 2 ^ n.prm % 2 ^ w, 0#7)
  | 9 => (m (s a / (2 ^ n.prm : Nat)), 0#7)
  | 10 => (if w ≤ b then 0 else a * 2 ^ b % 2 ^ w, 0#7)
  | 11 => (m (s a / (2 ^ min b w : Nat)), 0#7)
  | 12 => (a &&& b, 0#7)
  | 13 => (a ||| b, 0#7)
  | 14 => (a ^^^ b, 0#7)
  | 15 => (a &&& (2 ^ w - 1 - b), 0#7)
  | 16 =>
    let cw := wdBits (n.aux % 8)
    if n.aux % 8 = 5 then
      let (r, f) := fCmp .f32 n.prm (va.at 32) (vb.at 32)
      (if r then 1 else 0, f)
    else
      let x := readInt n.sg cw (va.at cw)
      let y := readInt n.sg cw (vb.at cw)
      let r := match n.prm with
        | 0 => decide (x = y) | 1 => decide (x ≠ y) | 2 => decide (x < y) | 3 => decide (x ≤ y)
        | 4 => decide (y < x) | _ => decide (y ≤ x)
      (if r then 1 else 0, 0#7)
  | 17 => (if va.at 1 = 1 then b else vc.at w, 0#7)
  | 18 => (immAt n, 0#7)
  | 20 =>
    let len := n.aux % 65536
    let i := min a (len - 1)
    (field g.data (n.aux / 65536 * 128 + i * w + w - 1) (n.aux / 65536 * 128 + i * w), 0#7)
  | 22 =>
    let len := bfxLen n.aux
    let x := field (va.at 64) (n.prm + len - 1) n.prm
    (if n.sg then m (sext x len) else x % 2 ^ w, 0#7)
  | 23 => ((a * 2 ^ n.prm ||| b) % 2 ^ w, 0#7)
  | 24 => (m ((a : Int) + (b : Int) * sext n.imm 32), 0#7)
  | 28 => (a, 0#7)
  | _ => (0, 0#7)

/-- Position of a node's live words. -/
def liveAt (g : Graph) (idx : Nat) : Nat := ((g.nodes.take idx).map liveWords).foldl (fun n x => n + x) 0

/-- What an evaluation has come to: results, live state after it, flags. -/
structure GEval where
  vals : List GVal
  live : List Word
  flags : Flags
  deriving DecidableEq, Repr

/-- One node without a port: its result, and for an ACC its new state (19 R293). -/
def evalNode (g : Graph) (inp : GInput) (before : List Word) (st : GEval) (idx : Nat) (n : Node) : GEval :=
  let c := codeVal g inp st.vals
  let p := liveAt g idx
  let w := wdBits n.wd
  if n.op = 19 then { st with vals := st.vals ++ [⟨(before.getD p 0).toNat % 2 ^ w, w, n.sg⟩] }
  else if n.op = 21 then
    let cur := if n.inB ≠ 0xFF && (c n.inB).at 1 = 1 then immAt n else (before.getD p 0).toNat % 2 ^ w
    let (r, f) := accOp n cur ((c n.inA).at w)
    { vals := st.vals ++ [⟨r, w, n.sg⟩], live := st.live.set p (BitVec.ofNat 64 r), flags := st.flags ||| f }
  else
    let (r, f) := nodeResult g n (c n.inA) (c n.inB) (c n.inC)
    { st with vals := st.vals ++ [⟨r, w, n.sg⟩], flags := st.flags ||| f }

/-- Every DELAY node takes in the value of its INA (19 R297). -/
def shiftDelays (g : Graph) (inp : GInput) (st : GEval) : List Word :=
  (g.nodes.zipIdx).foldl (fun (l : List Word) x =>
    if x.1.op = 19 then
      let p := liveAt g x.2
      let v := (codeVal g inp st.vals x.1.inA).at (wdBits x.1.wd)
      l.take p ++ (l.drop (p + 1)).take (x.1.prm - 1) ++ [BitVec.ofNat 64 v] ++ l.drop (p + x.1.prm)
    else l) st.live

/-- One element through a compute graph: the result, the live state after it, the flags (19 R297). -/
def evalElement (g : Graph) (inp : GInput) (live : List Word) : Nat × List Word × Flags :=
  let st := (g.nodes.zipIdx).foldl (fun st x => evalNode g inp live st x.2 x.1) { vals := [], live := live, flags := 0 }
  let out := match g.nodes.findIdx? (fun n => n.op == 28) with
    | some k => (st.vals.getD k ⟨0, 8, false⟩).bits
    | none => 0
  (out, shiftDelays g inp st, st.flags)

end Sys2Proof.Machine
end

