-- ==== Sys2Proof/Machine/Convert.lean ====
section
/-! DEFINITION. Stored encodings: MFMT, the conversion between memory and registers, and where elements narrower than a byte lie (13 R200, R204, R208, R209). -/

namespace Sys2Proof.Machine

/-- An exact value times 2^n. -/
def FVal.scale (n : Int) : FVal → FVal
  | .fin s m e => .fin s m (e + n)
  | v => v

/-- Bits of an encoding of a type. -/
def ElemType.bits : ElemType → Nat
  | .flt f => f.bits
  | .int _ w => w

/-- The stored type's code and SG: MFMT's when EN is 1, else the instruction's (13 R204). -/
def storedCode (mfmt : Word) (ty sg : Nat) : Nat × Nat :=
  let x := mfmt.toNat
  if bitOf x 4 then (field x 3 0, field x 5 5) else (ty, sg)

/-- The element type of codes that decoding has accepted. -/
def typeOf (ty sg : Nat) : ElemType := (elemType ty sg).getD (.flt .f32)

/-- Bits that a stored element takes: below 8 for 4-bit types, and for 6-bit types with PK6 (13 R209). -/
def storedBits (mfmt : Word) (ty sg : Nat) : Nat :=
  let t := typeOf (storedCode mfmt ty sg).1 (storedCode mfmt ty sg).2
  if t.bits = 6 then (if bitOf mfmt.toNat 8 then 6 else 8) else t.bits

/-- Register and stored type are one type. -/
def sameStored (mfmt : Word) (ty sg : Nat) : Bool := storedCode mfmt ty sg == (ty, sg)

def ElemType.isFloat : ElemType → Bool
  | .flt _ => true
  | .int _ _ => false

/-- The access performs a rounding conversion (05 R81, 13 R208). -/
def convRounds (mfmt : Word) (ty sg : Nat) : Bool :=
  let c := storedCode mfmt ty sg
  !sameStored mfmt ty sg && ((typeOf ty sg).isFloat || (typeOf c.1 c.2).isFloat)

/-- MFMT.SCL (13 R200). -/
def mfmtScl (mfmt : Word) : Int := sext (field mfmt.toNat 23 16) 8

/-- SCL is nonzero where a type is an integer (13 R208). -/
def mfmtBad (mfmt : Word) (ty sg : Nat) : Bool :=
  let c := storedCode mfmt ty sg
  mfmtScl mfmt != 0 && (!(typeOf ty sg).isFloat || !(typeOf c.1 c.2).isFloat)

/-- One conversion from a type to a type, with a power of two between floating types (13 R208). -/
def convert (src dst : ElemType) (scl : Int) (sat : Bool) (r : Rounding) (x : Nat) : Nat × Flags :=
  match src, dst with
  | .flt f, .flt g => roundVal g r ((f.value x).scale scl)
  | .int s w, .flt g => intToF g r (readInt s w x)
  | .flt f, .int s w => fToInt f s w r x
  | .int s w, .int s' w' =>
    let v := readInt s w x
    let (lo, hi) := intRange s' w'
    let (c, clipped) := satInt v lo hi
    if sat then (keep c w', flagIf clipped fIS) else (keep v w', 0#7)

/-- What a load puts in the register for a stored value (13 R208). -/
def convLoad (mfmt : Word) (ty sg : Nat) (r : Rounding) (x : Nat) : Nat × Flags :=
  let c := storedCode mfmt ty sg
  if sameStored mfmt ty sg then (x % 2 ^ (typeOf ty sg).bits, 0#7)
  else convert (typeOf c.1 c.2) (typeOf ty sg) (mfmtScl mfmt) (bitOf mfmt.toNat 9) r x

/-- What a store puts in memory for a register's element (13 R208). -/
def convStore (mfmt : Word) (ty sg : Nat) (r : Rounding) (y : Nat) : Nat × Flags :=
  let c := storedCode mfmt ty sg
  if sameStored mfmt ty sg then (y % 2 ^ (typeOf ty sg).bits, 0#7)
  else convert (typeOf ty sg) (typeOf c.1 c.2) (-(mfmtScl mfmt)) (bitOf mfmt.toNat 9) r y

/-- Where element e narrower than a byte lies from byte a: its bytes, and its lowest bit in them (13 R209). -/
def packedAt (a bits e : Nat) : List (Nat × Nat) × Nat :=
  if bits = 4 then ([((a + e / 2) % 2 ^ 64, 1)], 4 * (e % 2))
  else
    let p := 6 * (e % 4)
    let b := a + 3 * (e / 4) + p / 8
    if p % 8 ≤ 2 then ([(b % 2 ^ 64, 1)], p % 8) else ([(b % 2 ^ 64, 1), ((b + 1) % 2 ^ 64, 1)], p % 8)

/-- VSETMF refuses a value (13 R208). -/
def mfmtIllegal (v : Word) : Bool :=
  let x := v.toNat
  field x 63 24 != 0 || field x 15 10 != 0 || field x 7 6 != 0
    || (if bitOf x 4 then (elemType (field x 3 0) (field x 5 5)).isNone else x != 0)

end Sys2Proof.Machine
end

