-- ==== Sys2Proof/Config.lean ====
section
/-! DEFINITION. What the spec leaves to an implementation or leaves free: uninterpreted constants, none with a body. -/

namespace Sys2Proof

/-- Whose turn it is to move: a control thread, the sequencer of a thread's lane group, a Proctor core, or a step of
another agent, which is a row of the opcode table (DESIGN CHOICE, log 1). -/
inductive Turn where
  | scalar (tid : Nat)
  | vector (tid : Nat)
  | proctor (core : Nat)
  | event (i : Instr)
  deriving DecidableEq, Repr, Inhabited

namespace Config

/-- The order in which agents move (log 1; 03 R67 promises progress, not an order). -/
opaque schedule : Nat → Turn

/-- Cycles that pass on die 0 to 3, or on the hub as die 4, during a step (log 2; 00 R3, 11 R196). -/
opaque cyclesOf : Nat → Nat → Nat

/-- The segments of the built-in tables of a table version as tables of 05 R92, and which integer, exponent or period their steps
split off (log 6; 05 R94): version, table, then the offset of a 32-bit word or the argument. -/
opaque builtinWord : Nat → Nat → Nat → Nat
opaque builtinSplit : Nat → Nat → Nat → Bool

/-- The AES-256-XTS key pair and the 128-bit sharing key of a domain, as the module's random generator gives them at a DCREATE
(log 7; 25 R403, 07 R118): a tick. -/
opaque memoryKeys : Nat → BitVec 512
opaque sharingKey : Nat → BitVec 128

/-- Brynpol's public keys, fused in the hub die (log 7; 25 R408): ECDSA x‖y and HSS. -/
opaque brynpolKey : List Byte
opaque brynpolHss : List Byte

/-- The parts of a firmware or microcode package, whose layout the spec does not give (log 7; 25 R408): the bytes signed, the
ECDSA signature, the HSS signature. -/
opaque brynpolParts : List Byte → List Byte × List Byte × List Byte

/-- A report's signatures by the module's identity keys, which come from a fused secret (log 7; 25 R381, R408, R409): SIGEC and
SIGHS for the HSS state they use and the bytes they cover. SIGHS is an HSS signature of two levels, 3604 bytes. -/
opaque reportEc : Nat → List Byte → BitVec 768
opaque reportHss : Nat → List Byte → BitVec 28832

/-- What the random generator gives a DCREATE for the private key of EPUB (log 7; 25 R403, R409): a tick. -/
opaque ecdhSecret : Nat → Nat

/-- Z where the tenant's ECDH key is no point of P-384 (log 7; 25 R410): a tick. -/
opaque offCurveSecret : Nat → List Byte

/-- A translation of a container's loop nests for a level (log 7; 25 R413, R416, R418), none when verification or
translation fails. -/
opaque translateNests : List Byte → BitVec 32 → Option (List Byte)

/-- Whether the Proctor can bound some strip of a native image past a limit of R49 (log 9; 25 R417). -/
opaque boundsStripOver : List Byte → Bool

/-- The level descriptor of a microcode package (log 7; 25 R420): LEVEL, EMASK, VLDZ versions, graph image versions, and for
each built-in table the current version followed by the retained ones. -/
opaque packageDescriptor : List Byte → Nat × Nat × List Nat × List Nat × List (List Nat)

/-- The placement the timetable unit prefers among those that fit (log 10; 21 R327): tick, launch number,
form, and the item being placed; each result turns the list of candidates that the search tries in order. -/
opaque placementChoice : Nat → Nat → Nat → Nat → Nat

/-- SATB as the Proctor sets it for a thread at admission (log 9; 21 R331, 23 R357): whether it is a shadow member, launch
number, form, form index; bits [55:0] count. -/
opaque satchelFor : Bool → Nat → Nat → Nat → Word

/-- The line's home slice, 0 to 47 (log 7; 07 R117): a fixed hash of address bits [38:7]. -/
opaque homeSlice : Nat → Nat

/-- The fabric's choice of a base for ALLOC (log 9; 25 R401): tick; the model takes it where it fits. -/
opaque allocBase : Nat → Nat

/-- Whether the report that a peer module signs for a link's training verifies (log 37; 25 R387): tick, its node. -/
opaque peerReportVerifies : Nat → Nat → Bool

/-- Whether the home refuses a request of this module, since its domain does not own the frame there (log 37; 25 R386): tick, 2 MiB
frame of the global window. -/
opaque remoteRefuses : Nat → Nat → Bool

/-- Whether a kernel has written to a node between the loss of the route and its notice 10 ms later (log 37; 25 R388): tick, launch
number. -/
opaque wroteUnrouted : Nat → Nat → Bool

/-- What a mask bit reads as that R38 gives no place: tick, mask, element (log 12). -/
opaque absentMaskBit : Nat → Nat → Nat → Bool

/-- Bytes of host memory as the host holds them at a moment (log 5; 25 R406): tick, host physical address. -/
opaque hostByte : Nat → Nat → Byte

/-- Bytes of another module's memory as an access of this one reads them at a moment (log 37; 25 R388): tick, address in the global
window. -/
opaque remoteByte : Nat → Nat → Byte

/-- A command that the group's bridge forwards to this module, as its Proctor meets it at a moment (log 39; 25 R390): tick. -/
opaque forwardedCommand : Nat → Option Command

/-- Whether the module that a slot of the ring names has written the slot's entry (log 39; 25 R390, R398): tick, slot. -/
opaque foreignEntered : Nat → Nat → Bool

/-- What a window read gives of another node, or of entries that are not there yet (log 39; 25 R390, R391, R400): tick, offset. -/
opaque remoteWindow : Nat → Nat → Word

/-- How many signatures the module's HSS state allows before it is exhausted (log 7; 25 R408). -/
opaque hssSignatures : Nat

/-- The newest Gozan version that a firmware accepts (log 7; 25 R419) and its version (R418); none for the firmware that the
module shipped with, whose bytes are `shippedFirmware`. -/
opaque gozanNewest : Option (List Byte) → Nat
opaque firmwareVersion : Option (List Byte) → BitVec 64
opaque shippedFirmware : List Byte

/-- The opcodes 0xE0 + i that a feature level provides (log 7; 25 R417, R420). -/
opaque levelOpcodes : Nat → BitVec 16

/-- Whether a feature level gives an opcode 0xE0 + i this encoding (log 15; 09 R150, 25 R420): level, opcode, fields. -/
opaque opcodeDefines : Nat → Nat → VFields → Bool

/-- SATB as the Proctor writes it before it reissues a save that stopped (log 13; 23 R362): whether it is a shadow member's,
tick, launch number, form, form index; bits [55:0] count. -/
opaque satchelGrown : Bool → Nat → Nat → Nat → Nat → Word

end Config

end Sys2Proof
end

