-- ==== Sys2Proof/Machine/Sparse.lean ====
section
/-! DEFINITION. Sparse maps in one canonical form: lists of (key, value) with strictly rising keys. Cells of a fixed width list no entry equal to zero, which is what an unlisted key reads as; tables of records read as absent. -/

namespace Sys2Proof.Machine

/-- Cells of w bits by key; an unlisted key reads as zero. A `Host.Cell` list is `Sparse 8`. -/
abbrev Sparse (w : Nat) := List (Nat × BitVec w)

/-- Records by key; an unlisted key holds none. -/
abbrev Table (α : Type) := List (Nat × α)

/-- The record at a key. -/
def tableGet {α : Type} (k : Nat) : Table α → Option α
  | [] => none
  | (j, x) :: rest => if k = j then some x else if k < j then none else tableGet k rest

/-- The table with a record at a key. -/
def tablePut {α : Type} (k : Nat) (x : α) : Table α → Table α
  | [] => [(k, x)]
  | (j, y) :: rest =>
    if k = j then (k, x) :: rest else if k < j then (k, x) :: (j, y) :: rest else (j, y) :: tablePut k x rest

/-- The table without a key. -/
def tableDel {α : Type} (k : Nat) : Table α → Table α
  | [] => []
  | (j, y) :: rest => if k = j then rest else if k < j then (j, y) :: rest else (j, y) :: tableDel k rest

/-- The table with a record changed where there is one. -/
def tableMod {α : Type} (k : Nat) (f : α → α) (t : Table α) : Table α :=
  match tableGet k t with
  | some x => tablePut k (f x) t
  | none => t

/-- The cell at a key; zero where unlisted. -/
def cellGet {w : Nat} (m : Sparse w) (k : Nat) : BitVec w := (tableGet k m).getD 0#w

/-- The cells with one written: writing zero removes the entry. -/
def cellSet {w : Nat} (m : Sparse w) (k : Nat) (v : BitVec w) : Sparse w :=
  if v = 0#w then tableDel k m else tablePut k v m

/-- The keys rise strictly. -/
def keysRise {α : Type} : Table α → Bool
  | [] => true
  | [_] => true
  | (j, _) :: (k, y) :: rest => decide (j < k) && keysRise ((k, y) :: rest)

/-- The canonical form of cells: strictly rising keys, no zero. -/
def cellsWf {w : Nat} (m : Sparse w) : Bool := keysRise m && m.all (fun e => e.2 != 0#w)

/-- The cells whose keys satisfy `p`. -/
def cellsWhere {w : Nat} (m : Sparse w) (p : Nat → Bool) : Sparse w := m.filter (fun e => p e.1)

/-- Two sorted lists of cells of disjoint keys, merged. -/
def cellsJoin {w : Nat} (m n : Sparse w) : Sparse w := n.foldl (fun acc e => tablePut e.1 e.2 acc) m

/-- A sorted set of numbers: membership, insertion, removal. -/
def setAdd (k : Nat) : List Nat → List Nat
  | [] => [k]
  | j :: rest => if k = j then j :: rest else if k < j then k :: j :: rest else j :: setAdd k rest

def setDel (k : Nat) (s : List Nat) : List Nat := s.filter (fun j => j != k)

end Sys2Proof.Machine
end

