-- ==== Sys2Proof/Machine/State.lean ====
section
/-! DEFINITION. Everything the spec gives the machine, as plain data, and the machine right after reset. -/

namespace Sys2Proof.Machine

/-- Memory: bytes by physical address, scratchpads at their apertures (07 R98). -/
abbrev Memory := List Host.Cell

/-- The agent that an instruction is executed for. -/
inductive Actor where
  | thread (tid : Nat)
  | sequencer (tid : Nat)
  | proctor (core : Nat)
  | engine
  deriving DecidableEq, Repr, Inhabited

/-- Registers of a control thread (03 R34): PC, g0 to g31, FFLAGS, FMODE.RM, SEED. -/
structure ScalarCtx where
  pc : Word
  g : Vector Word 32
  fflags : BitVec 7
  fmode : BitVec 3
  seed : Word
  deriving DecidableEq, Repr

/-- A translation, scratchpad and privilege context: TRBASE fields and the form's range (07 R99, 21 R329). -/
structure TrCtx where
  dom : Nat
  asid : Nat
  root : Nat
  spLo : Nat
  spHi : Nat
  deriving DecidableEq, Repr, Inhabited

/-- A posted block: address, four operands, FMODE, SEED (03 R40, 05 R84), and whether a FENCE.VV stands before it (07 R123). -/
structure VBlock where
  addr : Word
  ops : Vector Word 4
  fmode : BitVec 3
  seed : Word
  fence : Bool
  deriving DecidableEq, Repr

/-- An entry of the pending-fragment buffer (15 R255); masks by element index of the long vector. -/
structure PendFrag where
  target : Word
  taken : BitVec 65536
  saved : BitVec 65536
  joining : Bool
  deriving DecidableEq, Repr

/-- The binding of a stream register (13 R215), or to a memory-graph run's stream (19 R302). -/
structure Stream where
  base : Nat
  exts : List Nat
  strs : List Int
  ty : Nat
  sg : Nat
  mfmt : Word
  pos : Nat
  slot : Option Nat
  deriving DecidableEq, Repr

/-- An accumulation window (13 R224). -/
structure Window where
  off : Nat
  bins : Nat
  ty : Nat
  sg : Nat
  op : Nat
  deriving DecidableEq, Repr

/-- A chain member: a part of a group named by the slot that holds it (17 R282). -/
structure Member where
  die : Nat
  clu : Nat
  core : Nat
  slot : Nat
  deriving DecidableEq, Repr, Inhabited

/-- The chain links of one part (17 R282). -/
structure Links where
  up : Option Member
  down : Option Member
  deriving DecidableEq, Repr

/-- A fault that a delivered element carries: its kind, the address, and for a poison fault the unit, for a translation fault
four times the cause plus the level (13 R216). -/
structure Mark where
  kind : Nat
  va : Nat
  info : Nat
  deriving DecidableEq, Repr

/-- The vector-side state that a checkpoint holds (03 R41, R47; 23 R358): the sequencer's PC, w, lc, VL, VTYPE (TY, SG,
AM), MFMT, VSSN, the fragment mask and pending fragments, stream bindings with their positions, the gathers that the
open strip has taken and the marked elements of delivered ones (register, element, mark), the window, user tables 16 to 23, chain links by part, live state of compute graphs by slot and
die position, and the satchel tags VB, DT and LDT. -/
structure GroupCore where
  pc : Word
  w : Vector Word 16
  lc : Vector (BitVec 32) 6
  vl : Nat
  ty : BitVec 4
  sg : BitVec 1
  am : BitVec 2
  mfmt : Word
  vssn : Word
  frag : BitVec 65536
  pending : List PendFrag
  streams : Table Stream
  gread : List Nat
  gmark : List (Nat × Nat × Mark)
  window : Option Window
  tables : Table (Nat × Nat)
  links : Table Links
  live : Table (List (List Word))
  tags : Table (Nat × Bool)
  ldt : BitVec 16
  deriving DecidableEq, Repr

/-- The cells of a group's own lanes: vector registers, masks (03 R38). -/
structure LaneCells where
  vregs : Sparse 256
  masks : Sparse 64
  deriving DecidableEq, Repr

/-- A checkpoint (03 R47). -/
structure Checkpoint where
  core : GroupCore
  cells : LaneCells
  deriving DecidableEq, Repr

/-- A background gather (13 R218): the physical and virtual address of each element, none for an inactive one; the random
bits of each conversion. -/
structure Gather where
  reg : Nat
  addrs : List (Option (Nat × Nat))
  ty : Nat
  sg : Nat
  mfmt : Word
  fmode : BitVec 3
  rand : List Nat
  delivered : Option (List (Nat × Option Mark))
  deriving DecidableEq, Repr

/-- A copy descriptor with its footprint (11 R191). -/
structure CopyDesc where
  src : Nat
  dst : Nat
  rows : Nat
  rowLen : Nat
  dpitch : Int
  spitch : Int
  stat : Nat
  regions : List (Nat × Nat × Bool × Bool)
  deriving DecidableEq, Repr

/-- A start of a memory graph (19 R308). -/
structure RunStart where
  slot : Nat
  count : Nat
  params : List Word
  reset : Bool
  stream : Option Nat
  post : Option (Nat × Nat)
  deriving DecidableEq, Repr

/-- What a strip holds until commit, in program order (03 R48, R51). Addresses are physical with their virtual
address beside them; `mask` names the bits stored of a value of `size` bytes, `lane` is the lane that writes (core times
256 plus lane), `ops` the operand values of an issue in field order, and `counted` is false for the identities of VWIN. -/
inductive Effect where
  | store (lane pa va size value mask : Nat) (fill : Bool)
  | slice (core lane off size value : Nat) (counted : Bool)
  | redm (lane pa va size : Nat) (ty sg op : Nat) (value : Nat) (fmode : BitVec 3)
  | notify (pa va count : Nat)
  | reply (v : Word)
  | copy (iaddr : Word) (ops : List Word) (d : CopyDesc)
  | gather (iaddr : Word) (ops : List Word) (g : Gather)
  | start (iaddr : Word) (ops : List Word) (r : RunStart)
  | load (slot addr : Nat) (image : List Byte) (cost : Nat)
  | clear (slot : Nat)
  | post (iaddr : Word) (ops : List Word) (hole gen : Nat) (handle : Word) (entries : List (List Byte))
  | sbar (regs slots : Nat)
  deriving DecidableEq, Repr

/-- The open strip (03 R46 to R51; 05 R81): checkpoint, effects, registers written, flags, the count k
of rsr instructions, the grant, and whether a SETVL opened it. -/
structure Strip where
  ckpt : Checkpoint
  effects : List Effect
  written : List Nat
  flags : BitVec 7
  k : Nat
  grant : Nat
  setvl : Bool
  deriving DecidableEq, Repr

/-- A link-buffer entry on the link into a part (17 R283): results row by row, code, L, hop count, whether a strip not yet
committed has consumed it, and the member that its MPASS named as downstream (17 R276). -/
structure LinkEntry where
  results : List (BitVec 32)
  code : Nat
  lanes : Nat
  hop : Nat
  consumed : Bool
  dest : Option Member
  deriving DecidableEq, Repr

/-- A closed strip of a paired member with its signature (23 R365, R366), whether an injection struck it, its block and how many
blocks had been taken from VBLK since the oldest closed strip, the gathers and link-buffer entries consumed up to its close,
and the results of its chained array operations by die. -/
structure ClosedStrip where
  strip : Strip
  ssn : Word
  signature : Word
  inj : Bool
  block : Option VBlock
  blocks : Nat
  gread : List Nat
  consumed : Table Nat
  links : Table (List LinkEntry)
  deriving DecidableEq, Repr

/-- An operation of the array queue (17 R271): the instruction, its address, VSSN at its issue and whether no strip was open
then, whether it has started, and the link-buffer entry that each part has consumed for it (17 R283). -/
structure ArrayOp where
  instr : Instr
  iaddr : Word
  ssn : Word
  outside : Bool
  started : Bool
  entries : Table LinkEntry
  deriving DecidableEq, Repr

/-- What a run has delivered to the stream register bound to it: every value from position 0, whether the run is over, and
the fault that stopped it (19 R302). -/
structure RunStream where
  values : List Word
  ended : Bool
  mark : Option Mark
  deriving DecidableEq, Repr

/-- A run of a memory graph (19 R298 to R302): its count, the next iteration, its stream and its
completion post (a pigeonhole with its generation), the cause and address at which it stopped. -/
structure Run where
  count : Nat
  next : Nat
  params : List Word
  stream : Option Nat
  post : Option (Nat × Nat)
  flags : BitVec 7
  stopped : Option (Nat × Nat)
  deriving DecidableEq, Repr

/-- A Slate slot (19 R288): state code, image address and bytes, cell cost, live state of a memory graph, its run;
`reload` says that a resumed context places it again (19 R313), and state 0 that only an unfinished run is left. -/
structure Slot where
  st : Nat
  addr : Nat
  image : List Byte
  cost : Nat
  live : List Word
  run : Option Run
  reload : Bool
  deriving DecidableEq, Repr

/-- A slot whose run no longer delivers to a stream register that another binding takes (19 R302). -/
def Slot.unstream (sl : Slot) (reg : Nat) : Slot :=
  { sl with run := sl.run.map (fun r => { r with stream := if r.stream = some reg then none else r.stream }) }

/-- What the control thread and the group had set aside for a Slate loader (19 R309). -/
structure LoaderHold where
  ctx : ScalarCtx
  ckpt : Checkpoint
  replay : Option Nat
  strip : Option Strip
  vblk : List VBlock
  block : Option VBlock
  leaving : Bool
  deriving DecidableEq, Repr

/-- A pigeonhole post of a committed strip that is not yet posted (13 R228). -/
structure PendingPost where
  hole : Nat
  gen : Nat
  handle : Word
  entries : List (List Byte)
  deriving DecidableEq, Repr

/-- A committed notify write that is not yet performed (13 R212). -/
structure PendingNotify where
  pa : Nat
  va : Nat
  count : Nat
  deriving DecidableEq, Repr

/-- A lane group with its sequencer (03 R35, R41). `block0` and `nblk` are the run of blocks that it uses, which follows
CUR at its committed boundaries (03 R39); `stop` says how a pre-emption stopped it, true at a boundary, and `reopen` that a
boundary stop came after VAMO or VTBLLD (23 R354). `issues` are effects of a committed strip that a full queue or a busy
slot still holds back, and `committing` says that the boundary is not yet complete; `fenced` says that the next block is
posted behind a FENCE.VV; `recess` says that the array of a stopped group rests, and `quiesce` that started operations complete
before a queued one starts (17 R285); `emptyAgain` lists the instructions that took the loader trap, with VSSN (19 R309); `outgoing` and `leaving` hold results of chained operations of the open strip and of committed
ones, and `redo` the blocks that a paired member takes again if it rolls back (23 R370). -/
structure Group where
  core : GroupCore
  running : Bool
  block : Option VBlock
  vblk : List VBlock
  vreply : List Word
  strip : Option Strip
  replay : Option Nat
  waiting : Option Instr
  faulted : Bool
  gathers : List Gather
  held : Table (List (Nat × Option Mark))
  runData : Table RunStream
  slots : Table Slot
  queue : List ArrayOp
  buffers : Table (List LinkEntry)
  outgoing : Table (List LinkEntry)
  leaving : Table (List LinkEntry)
  acks : Table Nat
  notifies : List PendingNotify
  posts : List PendingPost
  issues : List Effect
  committing : Bool
  fenced : Bool
  closed : List ClosedStrip
  redo : List VBlock
  mismatches : Nat
  emptyAgain : List (Word × Word)
  poisoned : Bool
  recess : Bool
  quiesce : Bool
  stopping : Bool
  stop : Option Bool
  reopen : Bool
  block0 : Nat
  nblk : Nat
  deriving DecidableEq, Repr

/-- A reserved span partner: the slot and run of blocks on a core of another die (21 R327). -/
structure Partner where
  die : Nat
  core : Nat
  slot : Nat
  block0 : Nat
  nblk : Nat
  deriving DecidableEq, Repr

/-- The part a thread plays in paired execution (23 R364). -/
inductive PairRole where
  | solo
  | lead (shadow : Nat)
  | shadow (lead : Nat)
  deriving DecidableEq, Repr

/-- An external event of a paired thread (23 R368): its number, kind, instruction address, address, size, data and
operands, and whether an injection struck it (R375). -/
structure ExtEvent where
  no : Nat
  kind : Nat
  iaddr : Word
  addr : Nat
  size : Nat
  data : List Word
  instr : Instr
  inj : Bool
  deriving DecidableEq, Repr

/-- A control thread on a compute die (03 R34). `pend` and `att` are SPAN's; `lnum`, `form`, `res` and `f` are its thread
word's (21 R332); `waiting` is the instruction that waits (11 R167), `lastSave` the lanes, dies and SATB of the last completed
save (23 R361), and `stopCyc` CYCLE of its die at its last stop (R359). -/
structure Thread where
  ctx : ScalarCtx
  trbase : Word
  satb : Word
  pend : BitVec 4
  att : BitVec 4
  lnum : Nat
  form : Nat
  res : Nat
  f : Nat
  waiting : Option Instr
  acked : Bool
  faulted : Bool
  poisoned : Bool
  stopped : Bool
  role : PairRole
  events : List ExtEvent
  eventNo : Nat
  group : Option Group
  partners : List Partner
  partnerLanes : Nat
  loader : Option LoaderHold
  lastSave : Option (Nat × Nat × Word)
  stopCyc : Word
  deriving DecidableEq, Repr

/-- A core: LSEAT (03 R36) and its retirement (23 R374): retired, retiring, and the cycles of its logged corrected errors. -/
structure Core where
  cur : BitVec 32
  nxt : BitVec 32
  retired : Bool
  retiring : Bool
  errors : List Nat
  deriving DecidableEq, Repr

/-- A leaf held by a TLB (07 R104). -/
structure TlbEntry where
  dom : Nat
  asid : Nat
  page : Nat
  level : Nat
  leaf : Word
  deriving DecidableEq, Repr

/-- A shared-cache tag (07 R118 to R120, R130). -/
structure CacheTag where
  zero : Bool
  entry : Nat
  dirty : Bool
  poison : Bool
  deriving DecidableEq, Repr

/-- A shared-cache data entry: its domain, hash and refcount, and whether it stands in the index. -/
structure CacheEntry where
  dom : Nat
  hash : BitVec 64
  refs : Nat
  indexed : Bool
  lines : List Nat
  deriving DecidableEq, Repr

/-- A slice: tags by line, entries by number, and the counters that do not follow from them (07 R120). -/
structure CacheSlice where
  tags : Table CacheTag
  entries : Table CacheEntry
  nextEntry : Nat
  shares : Word
  coll : Word
  satur : Word
  unshr : Word
  poisn : Word
  deriving DecidableEq, Repr

/-- An invalidation under way (25 R402): its range, the frames it releases, the pages kept while a satchel pins them (23 R357), the
journal entry that its end makes final, and whether it is the last of a domain that is being destroyed (R407). -/
structure Invalidation where
  dom : Nat
  lo : Nat
  hi : Nat
  release : List Nat
  kept : List (Nat × Nat)
  seq : Option Nat
  last : Bool
  deriving DecidableEq, Repr

/-- Memory and what serves it (07): bytes, granule states by granule number, poisoned HBM lines and lane-slice words,
TLBs, caches, invalidations. -/
structure MemSys where
  mem : Memory
  granules : Sparse 2
  poison : List Nat
  slicePoison : List Nat
  tlb1 : Table (List TlbEntry)
  tlb2 : Table (List TlbEntry)
  cache : Table CacheSlice
  invalidations : List Invalidation
  deriving DecidableEq, Repr

/-- Vector registers, masks and lane slices of every core (03 R38, 07 R108): 256 bits per register and lane, 64 bits per
mask and lane, 8-byte words of the slices. -/
structure LaneSys where
  vregs : Sparse 256
  masks : Sparse 64
  slices : Sparse 64
  deriving DecidableEq, Repr

/-- The free-slot counter of a remote producer (07 R116). -/
structure FreeCounter where
  cnt : Nat
  parity : Bool
  eseq : Nat
  gen : Nat
  deriving DecidableEq, Repr

/-- A control thread for its whole life, stopped or resident: its slot, its kernel and its form (21 R335). -/
structure Owner where
  tid : Nat
  lnum : Nat
  form : Nat
  deriving DecidableEq, Repr, Inhabited

/-- A pigeonhole (07 R114, 11 R186, R187); `cause` is of a freeze whose fault is still to be taken, and `inj` says that an
injection struck the pigeonhole since it was last in step (23 R375). -/
structure Hole where
  owner : Option Owner
  base : Nat
  depth : Nat
  head : Nat
  tail : Nat
  count : Nat
  ps : BitVec 16
  tk : BitVec 16
  notify : Word
  gen : BitVec 8
  frz : Bool
  remote : Option Nat
  counter : Option FreeCounter
  cause : Option (Nat × Nat × Nat)
  inj : Bool
  deriving DecidableEq, Repr

/-- A free-slot return in flight (07 R116). -/
structure SlotReturn where
  hole : Nat
  gen : BitVec 8
  seq : BitVec 16
  deriving DecidableEq, Repr

/-- A copy job (11 R191, 13 R221): descriptor, its thread, whether a VCOPY issued it, the next chunk, its first error, its
translation context and kernel, and the job that must end first where footprints conflict. -/
structure CopyJob where
  desc : CopyDesc
  own : Owner
  vec : Bool
  next : Nat
  error : Option (Nat × Nat)
  tr : TrCtx
  cluster : Nat
  after : List Nat
  deriving DecidableEq, Repr

/-- A memory-graph run whose thread has ended or been discarded, which runs to completion (21 R322, R323), a shadow's as a shadow
(23 R367). -/
structure Orphan where
  tid : Nat
  lnum : Nat
  shadow : Bool
  tr : TrCtx
  cluster : Nat
  slot : Nat
  data : Slot
  deriving DecidableEq, Repr

/-- Pigeonholes by number, free-slot returns, copy jobs, and work of ended threads, posts with their launch number. -/
structure Fabric where
  holes : Table Hole
  returns : List SlotReturn
  copies : Table CopyJob
  nextCopy : Nat
  orphans : List Orphan
  latePosts : List (Nat × PendingPost)
  deriving DecidableEq, Repr

/-- A seat of a form's thread: its slot and run of blocks (21 R327). -/
structure Seat where
  tid : Nat
  block0 : Nat
  nblk : Nat
  partners : List Partner
  deriving DecidableEq, Repr

/-- What a level of microcode provides or lacks (25 R420): an opcode 0xE0 + i, a version of VLDZ, of graph images, or of a
built-in table, version 0 for its current one. -/
inductive Feature where
  | opcode (i : Nat)
  | vldz (v : Nat)
  | graph (v : Nat)
  | table (t v : Nat)
  deriving DecidableEq, Repr

/-- What a form is doing (21 R333 to R342). -/
inductive FormStatus where
  | preloading
  | resident
  | stopping
  | stopped
  deriving DecidableEq, Repr

/-- What the save engine keeps of a stopped thread beside its satchel (log 13). -/
structure SavedThread where
  tid : Nat
  thread : Thread
  deriving DecidableEq, Repr

/-- Where a form lies (21 R327, 23 R364): its home and partner clusters, its seats, and the same of a paired form's
shadow. -/
structure Placement where
  clusters : List Nat
  seats : List Seat
  shadow : List Nat
  shadowSeats : List Seat
  deriving DecidableEq, Repr

/-- LSEAT of one block of a core: its owner in CUR and in NEXT (03 R36). -/
structure BlockSeat where
  core : Nat
  block : Nat
  cur : Nat
  nxt : Nat
  deriving DecidableEq, Repr

/-- An admitted form: its number, residency index, status, placement (of a stopped form, of the threads that it still has, as
they sat at the stop), when it was admitted (a tick), the CYCLE of its die at the stop request, LSEAT of its blocks at the stop
(21 R335), what the save engine keeps, and its place among the kernel's stopped forms. `refused` marks a form whose satchel was
refused (23 R363), `short` one whose save stopped (R362), `needs` the feature that it waits for on its die, and `moveTo` the die
to which it goes as it resumes (21 R339). -/
structure Form where
  no : Nat
  res : Nat
  status : FormStatus
  place : Placement
  since : Nat
  stopAt : Nat
  chart : List BlockSeat
  saved : List SavedThread
  order : Nat
  refused : Bool
  short : Bool
  needs : Option Feature
  moveTo : Option Nat
  deriving DecidableEq, Repr

/-- A kernel-table entry of an image (09 R162). -/
structure KernelEntry where
  entry : Word
  sldr : Word
  threads : Nat
  framea : Nat
  frameb : Nat
  spillb : Nat
  seat : List Nat
  deriving DecidableEq, Repr

/-- A loaded image (09 R159 to R164; 25 R396, R416): `order` gives the native kernel of each kernel of its container, `uses`
what its code takes from microcode (R423), and `nests` the container of a translated image (R413). -/
structure Image where
  dom : Nat
  base : Nat
  ktab : Nat
  level : Nat
  vllo : Nat
  vlhi : Nat
  tver : List Nat
  kernels : List KernelEntry
  order : List Nat
  uses : List Feature
  nests : Option (List Byte)
  sections : List (Nat × Nat)
  unloading : Option Nat
  deriving DecidableEq, Repr

/-- The fields of a job card (21 R316). -/
structure JobCard where
  ktab : Nat
  nform : Nat
  pri : Nat
  depf : Bool
  lret : Bool
  pdies : Nat
  maxres : Nat
  splen : Nat
  spoff : Nat
  stk : Nat
  stat : Nat
  args : List Word
  edges : List (Nat × Nat)
  preloads : List (Nat × Nat × Nat)
  regions : List (Nat × Nat × Bool × Bool)
  hasReg : Bool
  deriving DecidableEq, Repr

/-- An accepted kernel (21 R314 to R326). `since` is the CYCLE of its unit's die from which its age counts, below zero where the
kernel is older than that count, and `reserved` the placement that it reserves since tick `reservedAt` for the form `reservedFor`
(21 R336, R339); `dom` is 64 once its domain is gone (25 R407). -/
structure Kernel where
  card : JobCard
  image : Nat
  kidx : Nat
  dom : Nat
  asid : Nat
  root : Nat
  unit : Nat
  prio : Nat
  since : Int
  acceptedAt : Nat
  edges : List Nat
  streams : List (Nat × Nat)
  nextForm : Nat
  forms : Table Form
  fdone : Nat
  ended : Option (Nat × Nat)
  done : Option Word
  paired : Bool
  aged : Nat
  reserved : Option Placement
  reservedAt : Nat
  reservedFor : Nat
  journal : Option Nat
  stopOrder : Nat
  deriving DecidableEq, Repr

/-- The timetable units (21 R314, R315; 23 R353): kernels by launch number, the launch counter, PDL.DEADLINE per die,
the hold of 01 R31, and whether
resources were freed or a kernel accepted since the last scan (21 R336). -/
structure Sched where
  kernels : Table Kernel
  nextLaunch : Nat
  pdl : Vector (BitVec 32) 4
  hot : Bool
  rescan : Bool
  deriving DecidableEq, Repr

/-- A Proctor core (01 R15; 23 R352; 25 R378). -/
structure ProctorCore where
  ctx : ScalarCtx
  trbase : Word
  satb : Word
  inHandler : Bool
  halted : Bool
  waiting : Option Instr
  poisoned : Bool
  pxframe : Word
  pxhand : Word
  deriving DecidableEq, Repr

/-- A fault record delivered and not yet handled: its sixteen words and the agent held (23 R345, R347); of a feature-level
fault, the feature. -/
structure Delivered where
  words : List Word
  tid : Nat
  vec : Bool
  kind : Nat
  feature : Option Feature
  deriving DecidableEq, Repr

/-- A record of the log ring (23 R373): its four words. -/
structure LogRecord where
  w0 : Word
  w1 : Word
  cyc : Word
  tag : Word
  deriving DecidableEq, Repr

/-- A tenant domain (25 R403): key block, the key pair that its memory is encrypted under, its sharing key (07 R118), EPUB
(R409), its command and transfer keys (R410), group tag, CSEQ, table root, the entry of its DDESTROY. -/
structure Domain where
  keyBlock : List Byte
  memory : BitVec 512
  sharing : BitVec 128
  epub : List Byte
  command : List Byte
  transfer : List Byte
  tag : Word
  cseq : Nat
  root : Nat
  dying : Option Nat
  deriving DecidableEq, Repr

/-- A 2 MiB frame that a domain owns (25 R404): the domain, and whether its page has NSH (07 R101). -/
structure Frame where
  dom : Nat
  nsh : Bool
  deriving DecidableEq, Repr

/-- A region mapped by ALLOC, MAP or LOAD (25 R401, R402). -/
structure Region where
  dom : Nat
  base : Nat
  len : Nat
  page : Nat
  lazy : Bool
  nsh : Bool
  wr : Bool
  ex : Bool
  die : Nat
  deriving DecidableEq, Repr

/-- The microcode of a die (25 R380, R420): FLVL fields and what its descriptor provides. -/
structure Microcode where
  upd : Bool
  emask : BitVec 16
  level : BitVec 32
  vldz : List Nat
  graphs : List Nat
  tables : List (List Nat)
  deriving DecidableEq, Repr

/-- An update under way or accepted behind one (25 R422, R423): journal entry, new microcode, the die being updated. -/
structure McodeUpdate where
  seq : Nat
  code : Microcode
  die : Nat
  deriving DecidableEq, Repr

/-- The Proctor (25 R376 to R380, R401 to R407): cores, FINJ, records, log, domains, frames and their owners, regions,
images, microcode, updates, free table memory, sensors. -/
structure Proctor where
  cores : Vector ProctorCore 16
  finj : Word
  faults : List Delivered
  checks : List (List Word)
  log : List LogRecord
  logNext : Nat
  overwritten : Nat
  domains : Table Domain
  frames : Table Frame
  regions : List Region
  images : Table Image
  nextImage : Nat
  micro : Vector Microcode 4
  update : Option McodeUpdate
  queued : List McodeUpdate
  tableNext : Nat
  sensors : Table (BitVec 16)
  deriving DecidableEq, Repr

/-- A journal entry (25 R397). -/
structure JournalEntry where
  seq : Nat
  cmd : Command
  state : Nat
  det : Nat
  src : Nat
  result : Word
  tacc : Word
  tend : Word
  deriving DecidableEq, Repr

/-- A link port (25 R380): PEER, RETRY, SW, UP. -/
structure LinkPort where
  peer : BitVec 16
  retry : BitVec 16
  sw : Bool
  up : Bool
  deriving DecidableEq, Repr

/-- Host port, bridge, rings, journal, links, configuration flash (25 R381 to R400). `flash` holds the node number and the
HSS signatures used, which power-off keeps, and `staged` the firmware written to flash; `running` is the firmware read from
flash at power-on, none for the one the module shipped with. `pending` is the command in the ring's next slot, and `writes`
what the bridge has written to host memory (R406). -/
structure HostSys where
  fail : BitVec 8
  degr : Bool
  hotBit : Bool
  bridge : Bool
  ready : Bool
  hostPort : Option Nat
  node : BitVec 11
  brn : BitVec 11
  ringb : Word
  ringn : Word
  tail : BitVec 32
  head : BitVec 32
  jwin : Word
  jvalid : Bool
  lwin : Word
  journal : Table JournalEntry
  nextSeq : Nat
  ports : Vector LinkPort 24
  keyed : List Nat
  lost : List Nat
  flashNode : Option Nat
  hssUsed : Nat
  staged : Option (List Byte)
  running : Option (List Byte)
  pending : Option Command
  msix : List Nat
  writes : List (Nat × List Byte)
  serial : Word
  deriving DecidableEq, Repr

/-- Whether the package has power, and the FAIL code at which bring-up stopped (01 R30, 25 R381, R382). -/
inductive Power where
  | off
  | failed (code : Nat)
  | up
  deriving DecidableEq, Repr

/-- The whole machine. `actor`, `agenda` and `tick` are the model's own (log 1): the agent that `exec` acts for, turns
fixed in advance, and the counter that free values are applied to. `cycles` are CYCLE of dies 0 to 3 and of the hub
(11 R196). -/
structure State where
  actor : Actor
  agenda : List Turn
  tick : Nat
  power : Power
  cycles : Vector Word 5
  sys : MemSys
  lanes : LaneSys
  cores : Table Core
  threads : Table Thread
  fabric : Fabric
  sched : Sched
  proctor : Proctor
  host : HostSys
  deriving DecidableEq, Repr

/-- The machine stops: the model has no next state.
`noActor`: raised by every scalar and vector meaning when no agent of its kind is acting (safe: no such instruction
executes anywhere). -/
inductive Fault where
  /-- No control thread, sequencer or Proctor core of the kind the instruction needs is acting: raised by the common
  entry of scalar and vector meanings. Safe: an instruction executes only for an agent. -/
  | noActor
  deriving DecidableEq, Repr

/-- The model gives no next state for an instruction. -/
inductive Refusal where
  /-- An instruction that has no meaning yet, by its mnemonic: raised by exec's arms only. Safe. -/
  | notModelled (mnemonic : String)
  /-- An opcode 0xE0 to 0xEF that the die's microcode provides: the spec gives its effect to the package's level
  descriptor alone (09 R150, 25 R420). Raised by MICROCODE_OPCODE. Safe. -/
  | microcodeDefined (opcode : Nat)
  deriving DecidableEq, Repr

/-- Registers that read zero. -/
def ScalarCtx.zero : ScalarCtx :=
  { pc := 0, g := Vector.replicate 32 0, fflags := 0, fmode := 0, seed := 0 }

/-- LSEAT after reset (03 R36): every block unassigned. -/
def Core.reset : Core := { cur := 0xFFFFFFFF, nxt := 0xFFFFFFFF, retired := false, retiring := false, errors := [] }

/-- A Proctor core before bring-up: PC and g registers at zero (DESIGN CHOICE, log 3). -/
def ProctorCore.reset : ProctorCore :=
  { ctx := .zero, trbase := 0, satb := 0, inHandler := false, halted := false, waiting := none, poisoned := false, pxframe := 0, pxhand := 0 }

/-- FLVL after reset (25 R380), no microcode loaded. -/
def Microcode.reset : Microcode :=
  { upd := false, emask := 0, level := 0, vldz := [1], graphs := [1], tables := [] }

/-- LSTAT after reset (25 R380). -/
def LinkPort.reset : LinkPort := { peer := 0xFFFF, retry := 0, sw := false, up := false }

/-- A pigeonhole that was never configured (07 R114). -/
def Hole.reset : Hole :=
  { owner := none, base := 0, depth := 0, head := 0, tail := 0, count := 0, ps := 0, tk := 0, notify := 0, gen := 0,
    frz := false, remote := none, counter := none, cause := none, inj := false }

/-- An empty cache slice. -/
def CacheSlice.reset : CacheSlice :=
  { tags := [], entries := [], nextEntry := 0, shares := 0, coll := 0, satur := 0, unshr := 0, poisn := 0 }

def MemSys.reset : MemSys :=
  { mem := [], granules := [], poison := [], slicePoison := [], tlb1 := [], tlb2 := [], cache := [], invalidations := [] }

def Proctor.reset : Proctor :=
  { cores := Vector.replicate 16 .reset, finj := 0, faults := [], checks := [], log := [], logNext := 0, overwritten := 0,
    domains := [], frames := [], regions := [], images := [], nextImage := 1,
    micro := Vector.replicate 4 .reset, update := none, queued := [], tableNext := 0, sensors := [] }

def HostSys.reset : HostSys :=
  { fail := 0, degr := false, hotBit := false, bridge := false, ready := false, hostPort := none, node := 0x7FF,
    brn := 0x7FF, ringb := 0, ringn := 0, tail := 0, head := 0, jwin := 0, jvalid := false, lwin := 0, journal := [],
    nextSeq := 1, ports := Vector.replicate 24 .reset, keyed := [], lost := [], flashNode := none, hssUsed := 0,
    staged := none, running := none, pending := none, msix := [], writes := [], serial := 0 }

/-- The machine right after reset: no power-on step has run (25 R381), every register at its reset value. -/
def State.reset : State :=
  { actor := .engine, agenda := [], tick := 0, power := .off, cycles := Vector.replicate 5 0, sys := .reset,
    lanes := { vregs := [], masks := [], slices := [] }, cores := [], threads := [],
    fabric := { holes := [], returns := [], copies := [], nextCopy := 1, orphans := [], latePosts := [] },
    sched := { kernels := [], nextLaunch := 1, pdl := Vector.replicate 4 0x0000A410, hot := false, rescan := false },
    proctor := .reset, host := .reset }

/-- The canonical form of memory: strictly rising addresses, no entry equal to what an unlisted address reads as, which
is zero (25 R381 step 3 for HBM; DESIGN CHOICE for the rest, log 4 and 5). -/
def Memory.wf (m : Memory) : Bool := cellsWf m

end Sys2Proof.Machine
end

