-- ==== Sys2Proof/Machine/Mem.lean ====
section
/-! DEFINITION. The physical map, bytes of memory, granule states, poison, the shared cache's bookkeeping and the lane cells (07 R97, R98, R108 to R120, R130, R131; 03 R38). -/

namespace Sys2Proof.Machine

/-- What a physical address names (07 R98, 25 R377, R379, R385). -/
inductive PhysKind where
  | hbm (die : Nat) (protect : Bool)
  | scratch (cluster off : Nat)
  | device (off : Nat)
  | window (node off : Nat)
  | hole
  deriving DecidableEq, Repr

/-- The physical map (07 R98, 25 R377). -/
def physKind (pa : Nat) : PhysKind :=
  if pa < 0x10000000000 then
    let die := pa / 0x4000000000
    let off := pa % 0x4000000000
    if off < 0x3000000000 then .hbm die (decide (0x2F80000000 ≤ off)) else .hole
  else if 0x100000000000 ≤ pa && pa < 0x100040000000 then
    let o := pa - 0x100000000000
    let die := o / 0x10000000
    let c := o % 0x10000000 / 0x1000000
    if c < 6 then .scratch (die * 6 + c) (o % 0x1000000) else .hole
  else if 0x200000000000 ≤ pa && pa < 0x200100000000 then .device (pa - 0x200000000000)
  else if 0x8000000000000 ≤ pa && pa < 0x10000000000000 then .window (pa / 2 ^ 40 % 2048) (pa % 2 ^ 40)
  else .hole

/-- The aperture address of an offset in a cluster's scratchpad (07 R98); clusters are numbered 6d + c. -/
def aperture (cluster off : Nat) : Nat :=
  0x100000000000 + cluster / 6 * 0x10000000 + cluster % 6 * 0x1000000 + off % 0x1000000

/-- One byte of memory. -/
def readByte (m : Memory) (a : Nat) : Byte := cellGet m a

/-- The n bytes from an address, lowest first. -/
def readBytes (m : Memory) (a : Nat) : Nat → List Byte
  | 0 => []
  | n + 1 => readByte m a :: readBytes m (a + 1) n

/-- The little-endian value of n bytes (00 R4). -/
def readNat (m : Memory) (a n : Nat) : Nat := leValue (readBytes m a n)

/-- Bytes written from an address. -/
def writeBytes (m : Memory) (a : Nat) : List Byte → Memory
  | [] => m
  | b :: bs => writeBytes (cellSet m a b) (a + 1) bs

/-- The low n bytes of a value, written little-endian. -/
def writeNat (m : Memory) (a n v : Nat) : Memory := writeBytes m a (leBytes n v)

/-- The units of `size` bytes that n bytes from an address touch. -/
def unitsOf (size a n : Nat) : List Nat :=
  if n = 0 then [] else (List.range ((a + n - 1) / size - a / size + 1)).map (fun i => a / size + i)

/-- A unit lies whole inside n bytes from an address. -/
def unitWhole (size a n u : Nat) : Bool := a ≤ u * size && (u + 1) * size ≤ a + n

/-- Granule states (07 R111). -/
def gEmpty : BitVec 2 := 0
def gFull : BitVec 2 := 1
def gPoison : BitVec 2 := 2

/-- The state of the granule that holds an aperture address. -/
def granuleAt (sys : MemSys) (pa : Nat) : BitVec 2 := cellGet sys.granules (pa / 16)

/-- The home slice of a line: its die times 48 plus its place (07 R117). -/
def sliceOf (line : Nat) : Nat := line * 128 / 0x4000000000 % 4 * 48 + Config.homeSlice (field (line * 128) 38 7) % 48

/-- Two rounds of two of SipHash's state v0 to v3 make its SipRound (07 R118 names the function). -/
def sipRound (v : Word × Word × Word × Word) : Word × Word × Word × Word :=
  let (a, b, c, d) := v
  let a := a + b
  let b := (b.rotateLeft 13) ^^^ a
  let a := a.rotateLeft 32
  let c := c + d
  let d := (d.rotateLeft 16) ^^^ c
  let a := a + d
  let d := (d.rotateLeft 21) ^^^ a
  let c := c + b
  let b := (b.rotateLeft 17) ^^^ c
  (a, b, c.rotateLeft 32, d)

/-- One message word taken in with two rounds. -/
def sipWord (v : Word × Word × Word × Word) (m : Word) : Word × Word × Word × Word :=
  let (a, b, c, d) := sipRound (sipRound (v.1, v.2.1, v.2.2.1, v.2.2.2 ^^^ m))
  (a ^^^ m, b, c, d)

/-- SipHash-2-4 of a line's 128 bytes under a 128-bit key (07 R118): sixteen words, the length word, four rounds at the end. -/
def sipHash (key : BitVec 128) (bytes : List Byte) : BitVec 64 :=
  let k0 : Word := key.truncate 64
  let k1 : Word := (key >>> 64).truncate 64
  let start : Word × Word × Word × Word :=
    (k0 ^^^ 0x736F6D6570736575, k1 ^^^ 0x646F72616E646F6D, k0 ^^^ 0x6C7967656E657261, k1 ^^^ 0x7465646279746573)
  let words := (List.range 16).map (fun i => BitVec.ofNat 64 (leValue ((bytes.drop (8 * i)).take 8)))
  let (a, b, c, d) := (words ++ [0x8000000000000000]).foldl sipWord start
  let (a, b, c, d) := sipRound (sipRound (sipRound (sipRound (a, b, c ^^^ 0xFF, d))))
  a ^^^ b ^^^ c ^^^ d

/-- The tag of a line in its home slice. -/
def tagOf (sys : MemSys) (line : Nat) : Option CacheTag :=
  (tableGet (sliceOf line) sys.cache).bind (fun sl => tableGet line sl.tags)

/-- A line is poisoned: by its tag where it is cached, else by its mark in HBM (07 R130). -/
def linePoisoned (sys : MemSys) (line : Nat) : Bool :=
  match tagOf sys line with
  | some t => t.poison
  | none => sys.poison.contains line

/-- The first poisoned byte among n from an address, with its unit code of 23 R348: 0 an HBM line, 1 a tag, 2 a granule. -/
def poisonAt (sys : MemSys) (pa n : Nat) : Option (Nat × Nat) :=
  match physKind pa with
  | .hbm _ _ =>
    match (unitsOf 128 pa n).find? (linePoisoned sys) with
    | some u => some (max pa (u * 128), if (tagOf sys u).isSome then 1 else 0)
    | none => none
  | .scratch _ _ =>
    match (unitsOf 16 pa n).find? (fun u => cellGet sys.granules u == gPoison) with
    | some u => some (max pa (u * 16), 2)
    | none => none
  | _ => none

/-- The new state of a granule that a write touches (07 R111): a plain store, or a filling store or engine write. -/
def granuleAfter (fill whole : Bool) (st : BitVec 2) : BitVec 2 :=
  if st = gPoison then (if whole then (if fill then gFull else gEmpty) else gPoison)
  else if fill then gFull else st

/-- The owner of the frame of an HBM address (25 R404). -/
def frameOwner (p : Proctor) (pa : Nat) : Option Nat := (tableGet (pa / 0x200000) p.frames).map Frame.dom

/-- What decides the sharing of a line's contents: its domain, 64 for none, the domain's sharing key, whether its page has NSH
(07 R118), and whether the bytes written come from a poisoned unit (07 R130). -/
structure LineShare where
  dom : Nat
  key : BitVec 128
  nsh : Bool
  bad : Bool
  deriving DecidableEq, Repr

/-- The sharing of the line that holds an address. -/
def lineShare (p : Proctor) (pa : Nat) : LineShare :=
  match tableGet (pa / 0x200000) p.frames with
  | some f => { dom := f.dom, key := ((tableGet f.dom p.domains).map Domain.sharing).getD 0, nsh := f.nsh, bad := false }
  | none => { dom := 64, key := 0, nsh := false, bad := false }

/-- A tag lets go of its data entry (07 R119). -/
def cacheRelease (sl : CacheSlice) (line : Nat) (t : CacheTag) : CacheSlice :=
  if t.zero then sl
  else match tableGet t.entry sl.entries with
    | some e =>
      if e.refs ≤ 1 then { sl with entries := tableDel t.entry sl.entries }
      else { sl with entries := tablePut t.entry { e with refs := e.refs - 1, lines := setDel line e.lines } sl.entries }
    | none => sl

/-- A line gets a data entry of its own (07 R118, R119). -/
def cacheFresh (sl : CacheSlice) (line dom : Nat) (hash : BitVec 64) (indexed dirty poison : Bool) : CacheSlice :=
  { sl with
    entries := tablePut sl.nextEntry { dom := dom, hash := hash, refs := 1, indexed := indexed, lines := [line] } sl.entries,
    nextEntry := sl.nextEntry + 1,
    tags := tablePut line { zero := false, entry := sl.nextEntry, dirty := dirty, poison := poison } sl.tags }

/-- A tag leaves its slice: a dirty line carries its poison into HBM, and its entry is let go (07 R119, R130). -/
def evictTag (sys : MemSys) (line : Nat) : MemSys :=
  let k := sliceOf line
  match tagOf sys line with
  | none => sys
  | some t =>
    let sl := (tableGet k sys.cache).getD .reset
    let sl := { cacheRelease sl line t with tags := tableDel line sl.tags }
    let poison := if !t.dirty then sys.poison else if t.poison then setAdd line sys.poison else setDel line sys.poison
    { sys with cache := tablePut k sl sys.cache, poison := poison }

/-- A data entry leaves its slice with every tag that points to it (07 R119). -/
def evictEntry (sys : MemSys) (k entry : Nat) : MemSys :=
  match (tableGet k sys.cache).bind (fun sl => tableGet entry sl.entries) with
  | none => sys
  | some e => e.lines.foldl evictTag sys

/-- A slice frees an entry, and a tag, where none is free (07 R117, R119): the lowest-numbered, but not the line's own. -/
def makeRoom (sys : MemSys) (line : Nat) : MemSys :=
  let k := sliceOf line
  let sl := (tableGet k sys.cache).getD .reset
  let sys := if sl.entries.length < 32768 then sys
    else match sl.entries.find? (fun e => !e.2.lines.contains line) with
      | some e => evictEntry sys k e.1
      | none => sys
  let sl := (tableGet k sys.cache).getD .reset
  if sl.tags.length < 65536 then sys
  else match sl.tags.find? (fun t => t.1 != line) with
    | some t => evictTag sys t.1
    | none => sys

/-- Installs a line (07 R118); a poisoned line, or one of a page with NSH, takes an entry of its own. -/
def cacheInstall (sys : MemSys) (share : LineShare) (line : Nat) (dirty poison : Bool) : MemSys :=
  let sys := makeRoom sys line
  let k := sliceOf line
  let sl := (tableGet k sys.cache).getD .reset
  let bytes := readBytes sys.mem (line * 128) 128
  let dom := share.dom
  let h := sipHash share.key bytes
  let sl' :=
    if share.nsh || poison then cacheFresh sl line dom h false dirty poison
    else if bytes.all (fun b => b == 0) then
      { sl with tags := tablePut line { zero := true, entry := 0, dirty := dirty, poison := false } sl.tags }
    else
      match sl.entries.find? (fun e => e.2.indexed && e.2.dom == dom && e.2.hash == h) with
      | none => cacheFresh sl line dom h true dirty false
      | some (n, e) =>
        let same := match e.lines with
          | l :: _ => readBytes sys.mem (l * 128) 128 == bytes
          | [] => false
        if same && e.refs < 63 then
          { sl with
            entries := tablePut n { e with refs := e.refs + 1, lines := setAdd line e.lines } sl.entries,
            tags := tablePut line { zero := false, entry := n, dirty := dirty, poison := false } sl.tags,
            shares := sl.shares + 1 }
        else
          let sl := if same then { sl with satur := sl.satur + 1 } else { sl with coll := sl.coll + 1 }
          if e.refs < 63 then cacheFresh sl line dom h false dirty false
          else cacheFresh { sl with entries := tablePut n { e with indexed := false } sl.entries } line dom h true dirty false
  { sys with cache := tablePut k sl' sys.cache }

/-- What a write to a line does to its home slice (07 R118, R119, R131): it un-shares a shared entry, gives a zero-marked line
an entry, marks the tag dirty, clears the poison of a line that it covers whole, and installs such a line where it is not
cached. A whole line written where it is cached is a write in place, not an install (DESIGN CHOICE, log 26). -/
def cacheWrite (sys : MemSys) (share : LineShare) (line : Nat) (whole : Bool) : MemSys :=
  match tagOf sys line with
  | none => if whole then cacheInstall sys share line true share.bad else sys
  | some t =>
    let poison := t.poison && !whole
    let k := sliceOf line
    let fresh := fun (sys : MemSys) =>
      let sl := (tableGet k sys.cache).getD .reset
      { sys with cache := tablePut k (cacheFresh sl line share.dom 0 false true poison) sys.cache }
    let sl := (tableGet k sys.cache).getD .reset
    if t.zero then fresh (makeRoom sys line)
    else
      let refs := ((tableGet t.entry sl.entries).map CacheEntry.refs).getD 1
      if 1 < refs then
        let sys := makeRoom sys line
        let sl := (tableGet k sys.cache).getD .reset
        fresh { sys with cache := tablePut k { cacheRelease sl line t with unshr := sl.unshr + 1 } sys.cache }
      else
        let sl := { sl with tags := tablePut line { t with dirty := true, poison := poison } sl.tags }
        { sys with cache := tablePut k sl sys.cache }

/-- A line's mark or tag becomes poisoned; its tag then has an entry of its own that no index finds, since a poisoned line is
never hashed or shared (07 R130; log 26). -/
def poisonLine (sys : MemSys) (line : Nat) : MemSys :=
  match tagOf sys line with
  | none => { sys with poison := setAdd line sys.poison }
  | some t =>
    let k := sliceOf line
    let sl := (tableGet k sys.cache).getD .reset
    let refs := ((tableGet t.entry sl.entries).map CacheEntry.refs).getD 1
    if t.zero || 1 < refs then
      let sys := makeRoom sys line
      let sl := cacheRelease ((tableGet k sys.cache).getD .reset) line t
      { sys with cache := tablePut k (cacheFresh sl line 64 0 false t.dirty true) sys.cache }
    else
      let sl := { sl with tags := tablePut line { t with poison := true } sl.tags,
                          entries := tableMod t.entry (fun e => { e with indexed := false }) sl.entries }
      { sys with cache := tablePut k sl sys.cache }

/-- Stores bytes with every effect of 07 R111, R119 and R131 on granules, cache and poison. -/
def storeBytes (sys : MemSys) (share : Nat → LineShare) (pa : Nat) (bs : List Byte) (fill : Bool) : MemSys :=
  let n := bs.length
  let sys := { sys with mem := writeBytes sys.mem pa bs }
  match physKind pa with
  | .scratch _ _ =>
    let step := fun (g : Sparse 2) (u : Nat) => cellSet g u (granuleAfter fill (unitWhole 16 pa n u) (cellGet g u))
    { sys with granules := (unitsOf 16 pa n).foldl step sys.granules }
  | .hbm _ _ =>
    (unitsOf 128 pa n).foldl (fun sys u => cacheWrite sys (share (u * 128)) u (unitWhole 128 pa n u)) sys
  | _ => sys

/-- A consuming load clears the granules it read (07 R111). -/
def clearGranules (sys : MemSys) (pa n : Nat) : MemSys :=
  { sys with granules := (unitsOf 16 pa n).foldl (fun g u => cellSet g u gEmpty) sys.granules }

/-- Marks the unit that holds an address as poisoned (07 R130). -/
def poisonUnit (sys : MemSys) (pa : Nat) : MemSys :=
  match physKind pa with
  | .scratch _ _ => { sys with granules := cellSet sys.granules (pa / 16) gPoison }
  | .hbm _ _ => poisonLine sys (pa / 128)
  | _ => sys

/-- The n bytes at a physical address as an access reads them now: the module's own, or in the global window those of another
module or of a host, which are theirs to change (25 R388, R406; log 5, 37). What this module has sent there stands in its memory
under the same address. -/
def State.bytesAt (s : State) (pa n : Nat) : List Byte :=
  match physKind pa with
  | .window m off => (List.range n).map (fun i => if 1024 ≤ m then Config.hostByte s.tick (off + i) else Config.remoteByte s.tick (pa + i))
  | _ => readBytes s.sys.mem pa n

/-- Their little-endian value. -/
def State.numAt (s : State) (pa n : Nat) : Nat := leValue (s.bytesAt pa n)

/-- State-level store: frames decide the sharing domain of a line. -/
def State.store (s : State) (pa : Nat) (bs : List Byte) (fill : Bool) : State :=
  { s with sys := storeBytes s.sys (lineShare s.proctor) pa bs fill }

/-- A store whose bytes for some units come from poisoned ones: those units are poisoned after it, a whole line from its install
on (07 R118, R130). -/
def State.storeBad (s : State) (pa : Nat) (bs : List Byte) (bad : List Nat) : State :=
  let share := fun (a : Nat) => { lineShare s.proctor a with bad := bad.any (fun b => b / 128 == a / 128) }
  { s with sys := bad.foldl poisonUnit (storeBytes s.sys share pa bs true) }

/-- Key of a register's lane cell: core, register 0 to 63, lane. -/
def vregKey (core reg lane : Nat) : Nat := (core * 64 + reg) * 256 + lane

/-- Key of a mask's lane cell: core, mask 0 to 7, lane. -/
def maskKey (core m lane : Nat) : Nat := (core * 8 + m) * 256 + lane

/-- Key of an 8-byte word of a lane slice: core, lane, word 0 to 511. -/
def sliceKey (core lane word : Nat) : Nat := (core * 256 + lane) * 512 + word

/-- The owner of block b in a chart (03 R36). -/
def chartOwner (chart : BitVec 32) (b : Nat) : Nat := field chart.toNat (4 * b + 3) (4 * b)

/-- A chart with the owner of block b set. -/
def chartSet (chart : BitVec 32) (b owner : Nat) : BitVec 32 :=
  let x := chart.toNat
  BitVec.ofNat 32 (x - chartOwner chart b * 16 ^ b + owner % 16 * 16 ^ b)

/-- The blocks of a slot in a chart. -/
def chartBlocks (chart : BitVec 32) (slot : Nat) : List Nat := positions 8 (fun b => chartOwner chart b == slot)

/-- 03 R37: every owner is legal and each slot's blocks are one contiguous run. -/
def chartOk (chart : BitVec 32) : Bool :=
  (List.range 8).all (fun b => let o := chartOwner chart b; o < 8 || o == 15) &&
  (List.range 8).all (fun slot => match chartBlocks chart slot with
    | [] => true
    | b :: bs => (b :: bs) == (List.range (bs.length + 1)).map (fun i => b + i))

end Sys2Proof.Machine
end

