-- ==== Sys2Proof/Machine/Translate.lean ====
section
/-! DEFINITION. Address translation, permission and the details of translation faults (07 R99 to R107; 25 R376, R377, R385, R404). -/

namespace Sys2Proof.Machine

/-- What a fault reports: its code of 23 R343, the detail words D0 on of R348, the die of the faulting element, the node
whose lost route made it (25 R388), the bytes whose access met it, which an injection may have struck (23 R375), the poisoned table entry that
a walk met (07 R104), the feature that a die lacks (25 R420), and whether an injection caused it (23 R375). -/
structure FaultInfo where
  kind : Nat
  d : List Word
  edie : Option Nat
  node : Option Nat
  hit : Option (Nat × Nat)
  walked : Option Nat
  feature : Option Feature
  inj : Bool
  deriving DecidableEq, Repr

/-- The element that a fault names, none for a fault that belongs to no element (23 R346, R348). -/
def FaultInfo.element (f : FaultInfo) : Option Nat :=
  match f.kind with
  | 3 => some (f.d.getD 2 0).toNat
  | 4 => some (field (f.d.getD 1 0).toNat 63 32)
  | 5 => some (field (f.d.getD 1 0).toNat 63 32)
  | 6 => some (f.d.getD 1 0).toNat
  | _ => none

/-- Why an instruction does not complete now: a fault, a wait before every effect (11 R167), or a format that the die's
microcode alone defines (25 R420). -/
inductive Stop where
  | fault (f : FaultInfo)
  | wait
  | refuse (opcode : Nat)
  deriving DecidableEq, Repr

/-- A fault with these detail words. -/
def faultOf (kind : Nat) (d : List Nat) : FaultInfo := ⟨kind, d.map (BitVec.ofNat 64), none, none, none, none, none, false⟩

/-- Raises a fault. -/
def raise {α : Type} (kind : Nat) (d : List Nat) : Except Stop α := .error (.fault (faultOf kind d))

/-- Access kinds, as the Access field of 07 R106 numbers them. -/
inductive Access where
  | read
  | write
  | atomic (readOnly : Bool)
  | fetch
  deriving DecidableEq, Repr

def Access.code : Access → Nat
  | .read => 0
  | .write => 1
  | .atomic _ => 2
  | .fetch => 3

/-- For whom an access is translated: the context, the accessing core and cluster (package numbers), whether it is a
vector access in a strip, and whether it comes from a privileged core, whose accesses are not translated. -/
structure Accessor where
  tr : TrCtx
  core : Nat
  cluster : Nat
  strip : Bool
  priv : Bool
  deriving DecidableEq, Repr

/-- Where a walk ends. -/
inductive Walk where
  | leaf (e : Word) (level : Nat)
  | stop (cause level : Nat)
  | poison (entry : Nat)
  deriving DecidableEq, Repr

/-- log2 of the page that a leaf of a level maps (07 R100). -/
def pageBits : Nat → Nat
  | 1 => 31
  | 2 => 21
  | _ => 16

/-- The table index of a virtual address at a level (07 R100). -/
def tableIndex (va : Nat) : Nat → Nat
  | 0 => field va 55 43
  | 1 => field va 42 31
  | 2 => field va 30 21
  | _ => field va 20 16

/-- log2 of the size of the table below a pointer at a level (07 R100). -/
def tableBits : Nat → Nat
  | 0 => 15
  | 1 => 13
  | _ => 8

/-- 07 R102: an entry with V = 1 that is malformed at its level. -/
def entryMalformed (e level : Nat) : Bool :=
  let ptr := bitOf e 1
  field e 63 53 != 0 || (level == 0 && !ptr) || (level == 3 && ptr)
    || (ptr && (bitOf e 52 || field e 7 2 != 0 || e % 2 ^ tableBits level / 256 != 0))
    || (!ptr && (2 ≤ field e 7 6 || (e % 2 ^ pageBits level) / 256 != 0
        || (bitOf e 3 && !bitOf e 2) || (bitOf e 3 && bitOf e 4 && !bitOf e 5)))

/-- The walk from a table at a level, for the levels the fuel covers (07 R103, R104). -/
def walkFrom (sys : MemSys) (va : Nat) : Nat → Nat → Nat → Walk
  | 0, _, level => .stop 3 level
  | fuel + 1, base, level =>
    let ea := base + 8 * tableIndex va level
    match physKind ea with
    | .hole => .stop 1 level
    | .device _ => .stop 1 level
    | .window _ _ => .stop 1 level
    | _ =>
      if (poisonAt sys ea 8).isSome then .poison ea
      else
        let e := readNat sys.mem ea 8
        if !bitOf e 0 then .stop 0 level
        else if entryMalformed e level then .stop 3 level
        else if bitOf e 1 then walkFrom sys va fuel (field e 51 8 * 256) (level + 1)
        else .leaf (BitVec.ofNat 64 e) level

/-- The four-level walk from TRBASE.ROOT. -/
def walk (sys : MemSys) (root va : Nat) : Walk := walkFrom sys va 4 root 0

/-- The entries that the walk of an address reads, in order (07 R103, R104). -/
def walkReads (sys : MemSys) (va : Nat) : Nat → Nat → Nat → List Nat
  | 0, _, _ => []
  | fuel + 1, base, level =>
    let ea := base + 8 * tableIndex va level
    match physKind ea with
    | .hbm _ _ | .scratch _ _ =>
      let e := readNat sys.mem ea 8
      ea :: (if bitOf e 0 && !entryMalformed e level && bitOf e 1 then walkReads sys va fuel (field e 51 8 * 256) (level + 1)
        else [])
    | _ => []

/-- FINJ as an injection of this kind that is still pending: the physical address of the unit struck (23 R375). -/
def finjUnit (s : State) (kind : Nat) : Option Nat :=
  let x := s.proctor.finj.toNat
  if bitOf x 63 && field x 62 59 == kind then some (field x 47 0 * 16) else none

/-- Memory as a walk meets it: the unit of a pending KIND 3 is poisoned before the access acts (23 R375). -/
def walkView (s : State) : MemSys :=
  match finjUnit s 3 with
  | some unit => poisonUnit s.sys unit
  | none => s.sys

/-- A TLB holds the leaf of a page for a context (07 R104). -/
def tlbFind (es : List TlbEntry) (tr : TrCtx) (va : Nat) : Option TlbEntry :=
  es.find? (fun e => e.dom == tr.dom && e.asid == tr.asid && va / 2 ^ pageBits e.level == e.page)

/-- The leaf of a page that a TLB holds: the core's, or its die's (07 R104). -/
def tlbHit (s : State) (a : Accessor) (va : Nat) : Option TlbEntry :=
  (tlbFind ((tableGet a.core s.sys.tlb1).getD []) a.tr va).or (tlbFind ((tableGet (a.core / 48) s.sys.tlb2).getD []) a.tr va)

/-- The leaf of a page: from a TLB, or by a walk (07 R104). -/
def leafOf (s : State) (a : Accessor) (va : Nat) : Walk :=
  match tlbHit s a va with
  | some e => .leaf e.leaf e.level
  | none => walk (walkView s) a.tr.root va

/-- A leaf's page that no access may use: a hole, a protected region, a frame another domain owns, a host node or the
module's own node (07 R103; 25 R377, R385, R404). -/
def pageBlocked (s : State) (dom base bits : Nat) : Bool :=
  let last := base + 2 ^ bits - 1
  match physKind base, physKind last with
  | .hbm d p, .hbm d' p' =>
    d != d' || p || p' ||
      ((List.range (last / 0x200000 - base / 0x200000 + 1)).any
        (fun i => frameOwner s.proctor (base + i * 0x200000) != some dom))
  | .scratch c _, .scratch c' _ => c != c'
  | .device _, .device _ => false
  | .window n o, .window n' o' =>
    n != n' || 1024 ≤ n || n == s.host.node.toNat
      || (match physKind o, physKind o' with
          | .hbm d p, .hbm d' p' => d != d' || p || p'
          | _, _ => true)
  | _, _ => true

/-- The permission causes of 07 R103 and R106, the lowest-numbered that applies. Device memory is the device registers, and
what a page of the global window names with MT device (07 R98; log 24). -/
def permCause (leaf : Nat) (a : Accessor) (k : Access) (pa : Nat) : Option Nat :=
  let device := match physKind pa with | .device _ => true | _ => false
  let anyType := match physKind pa with | .window _ _ => true | _ => false
  let mt := field leaf 7 6
  let isDev := device || (anyType && mt == 1)
  let needs := match k with
    | .read => bitOf leaf 2
    | .write => bitOf leaf 3
    | .atomic ro => bitOf leaf 2 && (ro || bitOf leaf 3)
    | .fetch => bitOf leaf 4
  if !needs then some 4
  else if bitOf leaf 5 && !a.priv then some 5
  else if isDev && a.strip then some 6
  else if !anyType && ((mt == 1) != device) then some 8
  else if isDev && k == .fetch then some 9
  else if isDev && (match k with | .atomic _ => true | _ => false) then some 10
  else none

/-- The scratchpad window (07 R97). -/
def windowBase : Nat := 0x00FFFFFFFF000000

/-- An address in the scratchpad window; one that is not canonical lies outside it. -/
def inWindow (va : Nat) : Bool := windowBase ≤ va && va < 2 ^ 56

/-- The outcome of translating one access: a physical address, a cause with its level, or a poisoned table entry. -/
inductive Translated where
  | ok (pa : Nat)
  | bad (cause level : Nat)
  | poison (entry : Nat)
  deriving DecidableEq, Repr

/-- Translates and checks one access at a 64-bit address (07 R97, R103; 25 R376 for a privileged core, which reaches the memory of
its group's host from the bridge only, R406). -/
def translate (s : State) (a : Accessor) (va : Nat) (k : Access) : Translated :=
  if a.priv then
    if 2 ^ 52 ≤ va then .bad 2 0
    else match physKind va with
      | .hole => .bad 1 0
      | .device _ => (match k with
        | .atomic _ => .bad 10 0
        | .fetch => .bad 9 0
        | _ => .ok va)
      | .window n o =>
        if 1024 ≤ n then (if s.host.bridge && n == 1024 + s.host.node.toNat then .ok va else .bad 1 0)
        else (match physKind o with
          | .hbm _ false => .ok va
          | _ => .bad 1 0)
      | _ => .ok va
  else if 2 ^ 56 ≤ va then .bad 2 0
  else if windowBase ≤ va then
    let off := va - windowBase
    if off < a.tr.spLo || a.tr.spHi ≤ off then .bad 7 0
    else if k == .fetch then .bad 9 0
    else .ok (aperture a.cluster off)
  else
    match leafOf s a va with
    | .poison ea => .poison ea
    | .stop c l => .bad c l
    | .leaf e level =>
      let bits := pageBits level
      let base := field e.toNat 51 8 * 256
      if pageBlocked s a.tr.dom base bits then .bad 1 level
      else
        let pa := base + va % 2 ^ bits
        match permCause e.toNat a k pa with
        | some c => .bad c level
        | none => .ok pa

/-- A page word of 07 R106. -/
def pageWord (cause level : Nat) (k : Access) (va : Nat) : Nat :=
  cause * 2 ^ 60 + level * 2 ^ 58 + k.code * 2 ^ 56 + va % 2 ^ 56 / 65536 * 65536

/-- The kind of a translation fault: causes 0 to 3 not present, 4 to 10 permission (07 R106). -/
def trKind (cause : Nat) : Nat := if cause ≤ 3 then 4 else 5

/-- The fault of one failing access (07 R106): its address, element index and page. -/
def trFault (cause level : Nat) (k : Access) (va idx : Nat) : FaultInfo :=
  faultOf (trKind cause) [va % 2 ^ 56, idx * 2 ^ 32 + 1 * 2 ^ 28, pageWord cause level k va]

/-- The poison fault of 23 R348: first poisoned byte's virtual address, element, unit. -/
def poisonFault (va idx unit : Nat) : FaultInfo := faultOf 6 [va, idx, unit]

/-- The poison fault of an access whose walk met a poisoned table entry (07 R104). -/
def walkFault (va idx entry : Nat) : FaultInfo := { poisonFault va idx 5 with walked := some entry }

/-- Translates a scalar access or raises its fault (11 R168). -/
def translateScalar (s : State) (a : Accessor) (va : Nat) (k : Access) : Except Stop Nat :=
  match translate s a va k with
  | .ok pa => .ok pa
  | .bad c l => .error (.fault (trFault c l k va 0))
  | .poison ea => .error (.fault (walkFault va 0 ea))

end Sys2Proof.Machine
end

