-- ==== Sys2Proof/Machine/Agents.lean ====
section
/-! DEFINITION. Who acts: numbers of dies, cores and slots (01 R17), the registers of the acting agent, and the accessor of each agent. -/

namespace Sys2Proof.Machine

abbrev Out := Host.Outcome State Fault Refusal

/-- A control-thread slot's number: (48d + 8c + k) × 8 + slot (01 R17). -/
def tidOf (die clu core slot : Nat) : Nat := ((48 * die + 8 * clu + core) * 8) + slot

def tidDie (tid : Nat) : Nat := tid / 384
def tidClu (tid : Nat) : Nat := tid / 64 % 6
def tidCore (tid : Nat) : Nat := tid / 8 % 8
def tidSlot (tid : Nat) : Nat := tid % 8

/-- The package number of a slot's core, and of its cluster (6d + c). -/
def coreOf (tid : Nat) : Nat := tid / 8
def clusterOf (tid : Nat) : Nat := tid / 64

/-- DIE, CLU, CORE and SLOT as word 0 of a record places them (23 R347). -/
def coordBits (tid : Nat) : Nat :=
  tidDie tid * 2 ^ 48 + tidClu tid * 2 ^ 45 + tidCore tid * 2 ^ 42 + tidSlot tid * 2 ^ 39

def State.thread (s : State) (tid : Nat) : Option Thread := tableGet tid s.threads

def State.putThread (s : State) (tid : Nat) (t : Thread) : State := { s with threads := tablePut tid t s.threads }

def State.modThread (s : State) (tid : Nat) (f : Thread → Thread) : State :=
  { s with threads := tableMod tid f s.threads }

def State.group (s : State) (tid : Nat) : Option Group := (s.thread tid).bind Thread.group

def State.putGroup (s : State) (tid : Nat) (g : Group) : State := s.modThread tid (fun t => { t with group := some g })

def State.modGroup (s : State) (tid : Nat) (f : Group → Group) : State :=
  s.modThread tid (fun t => { t with group := t.group.map f })

def State.core (s : State) (c : Nat) : Core := (tableGet c s.cores).getD .reset

def State.putCore (s : State) (c : Nat) (x : Core) : State :=
  { s with cores := if x = .reset then tableDel c s.cores else tablePut c x s.cores }

def State.kernel (s : State) (lnum : Nat) : Option Kernel := tableGet lnum s.sched.kernels

def State.modKernel (s : State) (lnum : Nat) (f : Kernel → Kernel) : State :=
  { s with sched := { s.sched with kernels := tableMod lnum f s.sched.kernels } }

def State.hole (s : State) (n : Nat) : Hole := (tableGet n s.fabric.holes).getD .reset

def State.putHole (s : State) (n : Nat) (h : Hole) : State :=
  { s with fabric := { s.fabric with holes := tablePut n h s.fabric.holes } }

def State.image (s : State) (h : Nat) : Option Image := tableGet h s.proctor.images

/-- CYCLE of a die, 4 for the hub (11 R196). -/
def State.cycle (s : State) (die : Nat) : Word := if h : die < 5 then s.cycles[die] else 0

/-- A Proctor core's number in range. -/
def State.pcore (s : State) (k : Nat) : Option ProctorCore := if h : k < 16 then some (s.proctor.cores[k]'h) else none

def State.putPcore (s : State) (k : Nat) (c : ProctorCore) : State :=
  if h : k < 16 then { s with proctor := { s.proctor with cores := s.proctor.cores.set k c h } } else s

/-- A g register; g0 reads zero (00 R8). -/
def ScalarCtx.rd (c : ScalarCtx) (r : BitVec 5) : Word := if r = 0 then 0 else c.g[r.toNat]'r.isLt

/-- A g register written; a write to g0 is discarded (00 R8). -/
def ScalarCtx.wr (c : ScalarCtx) (r : BitVec 5) (v : Word) : ScalarCtx :=
  if r = 0 then c else { c with g := c.g.set r.toNat v r.isLt }

/-- PC + 4 (11 R165). -/
def ScalarCtx.step (c : ScalarCtx) : ScalarCtx := { c with pc := c.pc + 4 }

/-- The registers of the acting control thread or Proctor core. -/
def State.ctx (s : State) : Option ScalarCtx :=
  match s.actor with
  | .thread tid => (s.thread tid).map Thread.ctx
  | .proctor k => (s.pcore k).map ProctorCore.ctx
  | _ => none

/-- Its registers replaced. -/
def State.setCtx (s : State) (c : ScalarCtx) : State :=
  match s.actor with
  | .thread tid => s.modThread tid (fun t => { t with ctx := c })
  | .proctor k => match s.pcore k with
    | some p => s.putPcore k { p with ctx := c }
    | none => s
  | _ => s

/-- The acting scalar agent waits before the instruction (11 R167). -/
def State.setWaiting (s : State) (i : Option Instr) : State :=
  match s.actor with
  | .thread tid => s.modThread tid (fun t => { t with waiting := i })
  | .proctor k => match s.pcore k with
    | some p => s.putPcore k { p with waiting := i }
    | none => s
  | .sequencer tid => s.modGroup tid (fun g => { g with waiting := i })
  | .engine => s

/-- The translation context of a thread: TRBASE and its form's scratchpad range (07 R99, 21 R329). -/
def trCtx (s : State) (t : Thread) : TrCtx :=
  let b := t.trbase.toNat
  let (lo, hi) := match s.kernel t.lnum with
    | some k => (k.card.spoff * 65536, (k.card.spoff + k.card.splen) * 65536)
    | none => (0, 0)
  { dom := field b 63 58, asid := field b 11 0, root := field b 51 16 * 65536, spLo := lo, spHi := hi }

/-- The accessor of a control thread. -/
def threadAccessor (s : State) (tid : Nat) (t : Thread) : Accessor :=
  { tr := trCtx s t, core := coreOf tid, cluster := clusterOf tid, strip := false, priv := false }

/-- The accessor of a Proctor core: not translated (25 R376). -/
def proctorAccessor : Accessor :=
  { tr := { dom := 0, asid := 0, root := 0, spLo := 0, spHi := 0 }, core := 0, cluster := 0, strip := false, priv := true }

/-- The acting scalar agent: its registers, its accessor, its slot if it is on a compute die. -/
structure Agent where
  ctx : ScalarCtx
  acc : Accessor
  tid : Option Nat
  thread : Option Thread
  deriving DecidableEq, Repr

def agentOf (s : State) : Option Agent :=
  match s.actor with
  | .thread tid => (s.thread tid).map (fun t => ⟨t.ctx, threadAccessor s tid t, some tid, some t⟩)
  | .proctor k => (s.pcore k).map (fun p => ⟨p.ctx, proctorAccessor, none, none⟩)
  | _ => none

/-- The die whose clock and units the agent uses, 4 for the hub. -/
def Agent.die (a : Agent) : Nat := match a.tid with
  | some t => tidDie t
  | none => 4

/-- The run of blocks that a slot owns in CUR: its first block and their number; where the blocks are not contiguous, the
first contiguous run (03 R37; log 17). -/
def chartRun (chart : BitVec 32) (slot : Nat) : Nat × Nat :=
  match chartBlocks chart slot with
  | [] => (0, 0)
  | b :: bs => (b, ((b :: bs).zipIdx.takeWhile (fun e => e.1 == b + e.2)).length)

/-- One part of a group: its die, core, slot, first lane and lane count (03 R55, R56). -/
structure Part where
  die : Nat
  core : Nat
  slot : Nat
  base : Nat
  lanes : Nat
  deriving DecidableEq, Repr

/-- The part that a run of blocks of a core forms. -/
def partAt (core slot block0 nblk : Nat) : Part := ⟨core / 48, core, slot, 32 * block0, 32 * nblk⟩

/-- The part on the thread's own die. -/
def homePart (tid : Nat) (t : Thread) : Part :=
  match t.group with
  | some g => partAt (coreOf tid) (tidSlot tid) g.block0 g.nblk
  | none => partAt (coreOf tid) (tidSlot tid) 0 0

/-- The parts of a thread's group in ascending die order (03 R56). -/
def partsOf (tid : Nat) (t : Thread) : List Part :=
  (List.range 4).filterMap (fun d =>
    if !bitOf t.att.toNat d then none
    else if d = tidDie tid then some (homePart tid t)
    else (t.partners.find? (fun p => p.die == d)).map (fun p => partAt p.core p.slot p.block0 p.nblk))

/-- The thread of a slot as an owner. -/
def Thread.owner (t : Thread) (tid : Nat) : Owner := { tid := tid, lnum := t.lnum, form := t.form }

/-- Lanes of each part. -/
def Thread.lanes (t : Thread) : Nat := match t.group with
  | some g => 32 * g.nblk
  | none => 0

end Sys2Proof.Machine
end

