-- ==== Sys2Proof/Machine/Ops.lean ====
section
/-! DEFINITION. The shared operations: records, logs and machine checks, rollback, ending a kernel, taking a fault and returning from a Proctor handler, and the scalar accesses to memory (23 R343 to R352, R371 to R375, R426; 21 R323; 11 R165 to R173; 25 R378 to R380). -/

namespace Sys2Proof.Machine

/-- A value as a 64-bit word. -/
def w64 (n : Nat) : Word := BitVec.ofNat 64 n

/-! Records, the log ring, machine checks. -/

/-- VCP of a group (03 R44): while a strip is open, its checkpoint's PC; of a paired member, the oldest closed strip's. DESIGN CHOICE
(log 43): with no block running or posted it holds the group's PC, the address after the last VEND; the spec names no uncommitted
instruction there. -/
def vcpOf (g : Group) : Word :=
  let addr : Word := match g.closed with
    | c :: _ => c.strip.ckpt.core.pc
    | [] => match g.strip with
      | some st => st.ckpt.core.pc
      | none => if g.running then g.core.pc else match g.vblk with
        | b :: _ => b.addr
        | [] => g.core.pc
  let busy := g.running || !g.vblk.isEmpty
  w64 (field addr.toNat 55 2 * 4 + (if busy then 2 else 0) + (if g.strip.isSome then 1 else 0))

/-- The sixteen words of a record (23 R347). -/
def recordWords (kind : Nat) (vec ends shd : Bool) (coords edie : Nat) (pc vcp ssn : Word) (lnum : Nat) (cyc : Word)
    (d : List Word) : List Word :=
  let w0 := kind * 2 ^ 56 + (if vec then 2 ^ 55 else 0) + (if ends then 2 ^ 54 else 0) + (if shd then 2 ^ 53 else 0)
    + coords + edie * 2 ^ 37
  [w64 w0, pc, vcp, ssn, w64 lnum, cyc] ++ (d ++ List.replicate 10 0#64).take 10

/-- The module serves its own host port: as its group's bridge, or alone, with a bring-up step that failed (01 R27; 25 R382). -/
def HostSys.serves (h : HostSys) : Bool := h.bridge || h.fail != 0

/-- An MSI-X vector is signalled; a module that does not serve its host port leaves it unused (25 R393, 01 R27). -/
def State.signal (s : State) (v : Nat) : State :=
  { s with host := { s.host with msix := if s.host.serves then s.host.msix ++ [v] else s.host.msix } }

/-- Writes a record into the log ring of 65,536, overwriting the oldest when it is full (23 R373). -/
def State.logRecord (s : State) (typ : Nat) (inj : Bool) (paddr unit die clu core : Nat) (tag : Word) : State :=
  let r : LogRecord :=
    { w0 := w64 (typ * 2 ^ 56 + (if inj then 2 ^ 55 else 0) + paddr % 2 ^ 52),
      w1 := w64 (unit * 2 ^ 56 + die * 2 ^ 53 + clu * 2 ^ 50 + core * 2 ^ 44),
      cyc := s.cycle die, tag := tag }
  let p := s.proctor
  let p := if p.log.length < 65536 then { p with log := p.log ++ [r], logNext := p.logNext + 1 }
    else { p with log := p.log.drop 1 ++ [r], logNext := p.logNext + 1, overwritten := p.overwritten + 1 }
  { s with proctor := p }

/-- Raises a machine check: its record, its log record of TYPE 4, MSI-X vector 1 (23 R371, R373, R426; 25 R393). -/
def State.machineCheck (s : State) (kind : Nat) (ends shd : Bool) (tid : Option Nat) (pc vcp ssn : Word) (lnum : Nat)
    (d : List Word) (inj : Bool) : State :=
  let coords := (tid.map coordBits).getD 0
  let die := (tid.map tidDie).getD 0
  let cyc := match tid with
    | some t => s.cycle (tidDie t)
    | none => s.cycle 4
  let words := recordWords kind false ends shd coords die pc vcp ssn lnum cyc d
  let s := { s with proctor := { s.proctor with checks := s.proctor.checks ++ [words] } }
  (s.logRecord 4 inj 0 11 4 0 0 (w64 lnum)).signal 1

/-- Where a physical address lies, for a log record: unit, die, cluster, core. -/
def paPlace (pa : Nat) : Nat × Nat × Nat × Nat :=
  match physKind pa with
  | .hbm d _ => (0, d, 0, 0)
  | .scratch c off => (3, c / 6, c % 6, field off 13 11)
  | _ => (11, 4, 0, 0)

/-- The pending injection has taken place (23 R375). -/
def State.disarm (s : State) : State :=
  { s with proctor := { s.proctor with finj := w64 (s.proctor.finj.toNat % 2 ^ 63) } }

/-- An injection on this unit takes place before the access acts (23 R375): kind 2 is corrected, kind 3 poisons the unit;
each is logged with INJ 1. -/
def touchUnits (s : State) (pa n lnum : Nat) : State :=
  let met := fun (unit : Nat) => unit < pa + n && pa < unit + 16
  match (finjUnit s 2).filter met, (finjUnit s 3).filter met with
  | some unit, _ =>
    let (u, d, c, k) := paPlace unit
    s.disarm.logRecord 1 true unit u d c k (w64 lnum)
  | none, some unit =>
    let (u, d, c, k) := paPlace unit
    { s.disarm with sys := poisonUnit s.sys unit }.logRecord 2 true unit u d c k (w64 lnum)
  | none, none => s

/-- The same for the entries that the walk of an access reads where no TLB holds its leaf; a KIND 3 stops the walk itself
(`walkView`) and is made as the poison fault is taken (23 R375, 07 R104). -/
def touchWalk (s : State) (a : Accessor) (va lnum : Nat) : State :=
  if (finjUnit s 2).isSome && !a.priv && va < windowBase && (tlbHit s a va).isNone then
    (walkReads s.sys va 4 a.tr.root 0).foldl (fun s ea => touchUnits s ea 8 lnum) s
  else s

/-- An access of n bytes at a virtual address that translation has taken to a physical one: the units that it and its walk
meet (23 R375). -/
def touchAccess (s : State) (a : Accessor) (va pa n lnum : Nat) : State := touchUnits (touchWalk s a va lnum) pa n lnum

/-- The record of a poisoned line that an access could not use (07 R104, R131). -/
def logPoison (s : State) (pa lnum : Nat) : State :=
  let (u, d, c, k) := paPlace pa
  s.logRecord 2 false pa u d c k (w64 lnum)

/-- The injection that the access of a fault met stays made (23 R375); a poisoned table entry is logged (07 R104). -/
def touchHit (s : State) (f : FaultInfo) (lnum : Nat) : State :=
  let s := match f.hit with
    | some (pa, n) => touchUnits s pa n lnum
    | none => s
  match f.walked with
  | some ea => if (finjUnit s 3).any (fun u => u < ea + 8 && ea < u + 16) then touchUnits s ea 8 lnum else logPoison s ea lnum
  | none => s

/-- A walk outside an instruction's own fault met a poisoned table entry (07 R104; 23 R375). -/
def logWalk (s : State) (ea lnum : Nat) : State := touchHit s { faultOf 6 [] with walked := some ea } lnum

/-! Lane cells, rollback. -/

/-- A lane of a core belongs to one of these parts. -/
def ownsLane (parts : List Part) (core lane : Nat) : Bool :=
  parts.any (fun p => p.core == core && p.base ≤ lane && lane < p.base + p.lanes)

/-- The registers and masks of a group's own lanes. -/
def laneCells (l : LaneSys) (parts : List Part) : LaneCells :=
  { vregs := cellsWhere l.vregs (fun k => ownsLane parts (k / 16384) (k % 256)),
    masks := cellsWhere l.masks (fun k => ownsLane parts (k / 2048) (k % 256)) }

/-- The same lanes with other contents. -/
def putLaneCells (l : LaneSys) (parts : List Part) (c : LaneCells) : LaneSys :=
  { l with
    vregs := cellsJoin (cellsWhere l.vregs (fun k => !ownsLane parts (k / 16384) (k % 256))) c.vregs,
    masks := cellsJoin (cellsWhere l.masks (fun k => !ownsLane parts (k / 2048) (k % 256))) c.masks }

/-- Lane slices of a group's own lanes, and the same lanes with other contents. -/
def sliceCells (l : LaneSys) (parts : List Part) : Sparse 64 :=
  cellsWhere l.slices (fun k => ownsLane parts (k / 131072) (k / 512 % 256))

def putSliceCells (l : LaneSys) (parts : List Part) (c : Sparse 64) : LaneSys :=
  { l with slices := cellsJoin (cellsWhere l.slices (fun k => !ownsLane parts (k / 131072) (k / 512 % 256))) c }

/-- Registers, masks and slices of these lanes read zero, poisoned slice words too (03 R39, R55; 07 R108; 21 R331). -/
def zeroLanes (s : State) (parts : List Part) : State :=
  let l := putSliceCells (putLaneCells s.lanes parts { vregs := [], masks := [] }) parts []
  { s with lanes := l, sys := { s.sys with
      slicePoison := s.sys.slicePoison.filter (fun k => !ownsLane parts (k / 131072) (k / 512 % 256)) } }

/-- An array operation was issued before a checkpoint: outside any strip, no later than the strip that the checkpoint opens. -/
def ArrayOp.before (op : ArrayOp) (c : Checkpoint) : Bool := op.outside && decide (op.ssn.toNat ≤ c.core.vssn.toNat)

/-- The group's state is the checkpoint's again; its buffered effects, flags, array operations and data read ahead are
gone (03 R50, R51; 17 R273). Operations issued before the checkpoint stay, and those that have started complete before
another starts (17 R285). -/
def restoreCheckpoint (s : State) (tid : Nat) (c : Checkpoint) : State :=
  match s.thread tid with
  | none => s
  | some t =>
    let s := { s with lanes := putLaneCells s.lanes (partsOf tid t) c.cells }
    let unconsume := fun (es : List LinkEntry) => es.map (fun e => { e with consumed := false })
    s.modGroup tid (fun g =>
      let kept := g.queue.filter (fun op => op.before c)
      { g with core := c.core, queue := kept, quiesce := !kept.isEmpty, held := [], waiting := none,
               buffers := g.buffers.map (fun b => (b.1, unconsume b.2)), outgoing := [] })

/-- Rolls the open strip back (03 R50): a strip that SETVL opened replays at the SETVL with its grant; one that VAMO or
VTBLLD opened is open again from its checkpoint. -/
def rollback (s : State) (tid : Nat) : State :=
  match (s.group tid).bind Group.strip with
  | none => s.modGroup tid (fun g => { g with waiting := none })
  | some st =>
    let s := restoreCheckpoint s tid st.ckpt
    s.modGroup tid (fun g =>
      if st.setvl then { g with strip := none, replay := some st.grant }
      else { g with strip := some { st with effects := [], written := [], flags := 0, k := 0 } })

/-- A paired member goes back to its oldest closed strip, with the blocks taken since, or to its open one (23 R370). -/
def rollbackPair (s : State) (tid : Nat) : State :=
  match (s.group tid).map Group.closed with
  | some (c :: _) =>
    let s := restoreCheckpoint s tid c.strip.ckpt
    s.modGroup tid (fun g =>
      let g := { g with closed := [], running := true, block := c.block, vblk := g.redo.drop c.blocks ++ g.vblk, redo := [],
                        committing := false }
      if c.strip.setvl then { g with strip := none, replay := some c.strip.grant }
      else { g with strip := some { c.strip with effects := [], written := [], flags := 0, k := 0 } })
  | _ => rollback s tid

/-- CYCLE of the home die at a thread's stop (23 R359). -/
def State.stampStop (s : State) (tid : Nat) : State := s.modThread tid (fun t => { t with stopCyc := s.cycle (tidDie tid) })

/-! Freeing threads, ending kernels. -/

/-- The pair's other member. -/
def partnerOf (t : Thread) : Option Nat :=
  match t.role with
  | .solo => none
  | .lead x => some x
  | .shadow x => some x

def PairRole.isShadow : PairRole → Bool
  | .shadow _ => true
  | .solo | .lead _ => false

def Thread.isShadow (t : Thread) : Bool := t.role.isShadow

def Thread.isPaired (t : Thread) : Bool := match t.role with
  | .solo => false
  | _ => true

/-- The blocks a slot owned are unassigned, in NEXT too, and moves of other blocks that name it are cancelled (21 R340). -/
def freeBlocks (s : State) (core slot : Nat) : State :=
  let c := s.core core
  let c := (List.range 8).foldl (fun (c : Core) b =>
    let cu := chartOwner c.cur b
    let nx := chartOwner c.nxt b
    if cu = slot then { c with cur := chartSet c.cur b 15, nxt := chartSet c.nxt b 15 }
    else if nx = slot then { c with nxt := chartSet c.nxt b cu }
    else c) c
  s.putCore core c

/-- Pigeonholes that a thread owns become unconfigured, with their entries discarded (11 R197). -/
def unconfigureHoles (s : State) (o : Owner) : State :=
  let drop := fun (h : Hole) => if h.owner = some o then { Hole.reset with gen := h.gen } else h
  { s with fabric := { s.fabric with holes := s.fabric.holes.map (fun e => (e.1, drop e.2)) } }

/-- The node of a global-window address to which the module has no route, or whose home refuses the request (25 R386, R388). -/
def lostNode (s : State) (pa : Nat) : Option Nat :=
  match physKind pa with
  | .window n _ =>
    if n < 1024 && (!s.host.keyed.contains n || s.host.lost.contains n || Config.remoteRefuses s.tick (pa / 0x200000)) then some n
    else none
  | _ => none

/-- Performs one committed notify write: a relaxed atomic addition to its progress word, not performed on a poisoned
unit (13 R212, 07 R131). -/
def performNotify (s : State) (n : PendingNotify) (lnum : Nat) : State :=
  if (lostNode s n.pa).isSome then s
  else match poisonAt s.sys n.pa 8 with
  | some (p, _) => logPoison s p lnum
  | none => s.store n.pa (leBytes 8 (s.numAt n.pa 8 + n.count)) false

/-- Performs the reads of a background gather that no thread will take (21 R322, R323): all that is left of them is what they
meet (23 R375). -/
def performGather (s : State) (g : Gather) (lnum : Nat) : State :=
  if g.delivered.isSome then s
  else g.addrs.foldl (fun s a => match a with
    | some (pa, _) => touchUnits s pa (max 1 (storedBits g.mfmt g.ty g.sg / 8)) lnum
    | none => s) s

/-- A thread is gone: its slot, blocks, partners and pigeonholes are free; its memory-graph runs go on, its committed
notify writes and background gathers complete at once, and posts of its committed strips stay to be posted (21 R322, R323,
R340; log 38). -/
def removeThread (s : State) (tid : Nat) : State :=
  match s.thread tid with
  | none => s
  | some t =>
    let s := match t.group with
      | none => s
      | some g =>
        let s := g.notifies.foldl (fun s n => performNotify s n t.lnum) s
        let s := g.gathers.foldl (fun s x => performGather s x t.lnum) s
        let tr := trCtx s t
        let runs := g.slots.filterMap (fun e =>
          if e.2.run.isSome then
            some { tid := tid, lnum := t.lnum, shadow := t.isShadow, tr := tr, cluster := clusterOf tid, slot := e.1, data := e.2 : Orphan }
          else none)
        { s with fabric := { s.fabric with
            orphans := s.fabric.orphans ++ runs, latePosts := s.fabric.latePosts ++ g.posts.map (fun p => (t.lnum, p)) } }
    let s := unconfigureHoles s (t.owner tid)
    let s := freeBlocks s (coreOf tid) (tidSlot tid)
    let s := t.partners.foldl (fun s p => freeBlocks s p.core p.slot) s
    { s with threads := tableDel tid s.threads, sched := { s.sched with rescan := true },
             proctor := { s.proctor with faults := s.proctor.faults.filter (fun r => r.tid != tid) } }

/-- A form is discarded, wherever it is in its life (21 R323): a preloading form gives back its blocks, a stopped one its
pigeonholes. -/
def discardForm (s : State) (lnum : Nat) (f : Form) : State :=
  (f.place.seats ++ f.place.shadowSeats).foldl (fun s seat =>
    match f.status with
    | .stopped => unconfigureHoles s { tid := seat.tid, lnum := lnum, form := f.no }
    | .preloading =>
      seat.partners.foldl (fun s p => freeBlocks s p.core p.slot) (freeBlocks s (coreOf seat.tid) (tidSlot seat.tid))
    | _ => removeThread s seat.tid) s

/-- A kernel that has not ended. -/
def State.lives (s : State) (lnum : Nat) : Bool := (s.kernel lnum).any (fun k => k.ended.isNone && k.done.isNone)

/-- One kernel ends as 21 R323 sets out: its forms are discarded, it admits no more, and it is done once its outstanding work
is. -/
def endOne (s : State) (lnum cause det : Nat) : State :=
  match s.kernel lnum with
  | none => s
  | some k =>
    if k.ended.isSome || k.done.isSome then s
    else
      let s := k.forms.foldl (fun s e => discardForm s lnum e.2) s
      let s := s.modKernel lnum (fun k => { k with ended := some (cause, det), forms := [], reserved := none })
      { s with sched := { s.sched with rescan := true } }

/-- A kernel ends, and with it the consumers of its stream edges, with CAUSE 4, and theirs in turn (21 R323, R326). The fuel
is the number of kernels. -/
def endKernels : Nat → State → Nat → Nat → Nat → State
  | 0, s, _, _, _ => s
  | fuel + 1, s, lnum, cause, det =>
    let consumers := if s.lives lnum then
        s.sched.kernels.filterMap (fun e => if e.2.streams.any (fun x => x.1 == lnum) then some e.1 else none)
      else []
    consumers.foldl (fun s n => endKernels fuel s n 4 0) (endOne s lnum cause det)

/-- Ends a kernel with ERR (21 R323, R326). -/
def endKernel (s : State) (lnum cause det : Nat) : State := endKernels (s.sched.kernels.length + 1) s lnum cause det

/-- Kernels end together with a cause, and then the consumers that they leave, with CAUSE 4 (21 R323, R326). -/
def endTogether (s : State) (ns : List Nat) (cause : Nat) : State :=
  let ns := ns.filter s.lives
  let s := ns.foldl (fun s n => endOne s n cause 0) s
  (s.sched.kernels.filter (fun e => e.2.streams.any (fun x => ns.contains x.1))).foldl (fun s e => endKernel s e.1 4 0) s

/-! Taking a fault. -/

/-- The LAZY region of a domain that holds a page (25 R402). -/
def lazyRegion (s : State) (dom va : Nat) : Option Region :=
  s.proctor.regions.find? (fun r => r.dom == dom && r.lazy && r.base ≤ va && va < r.base + r.len)

/-- A not-present fault that the Proctor resolves: every page listed has CAUSE 0 and lies in a LAZY region (25 R402). -/
def lazyResolvable (s : State) (dom : Nat) (d : List Word) : Bool :=
  let npg := match d with
    | _ :: w1 :: _ => field w1.toNat 31 28
    | _ => 0
  let pages := (d.drop 2).take npg
  npg != 0 && pages.all (fun p => field p.toNat 63 60 == 0 && (lazyRegion s dom (field p.toNat 55 0)).isSome)

/-- The loader trap is open to a group (19 R309): the kernel has a loader, the group is not in it, and the instruction did
not already meet an empty slot in a replay of the held strip. -/
def loaderOpen (s : State) (t : Thread) (iaddr : Word) : Bool :=
  match s.kernel t.lnum with
  | none => false
  | some k =>
    let sldr := match s.image k.image with
      | some im => (im.kernels[k.kidx]?).map KernelEntry.sldr
      | none => none
    sldr.isSome && sldr != some 0xFFFFFFFFFFFFFFFF && t.loader.isNone
      && !(match t.group with
        | some g => g.emptyAgain.contains (iaddr, g.core.vssn)
        | none => true)

/-- A die's microcode provides a feature (25 R420, R421). -/
def Microcode.provides (m : Microcode) : Feature → Bool
  | .opcode i => m.emask.getLsbD i
  | .vldz v => m.vldz.contains v
  | .graph v => m.graphs.contains v
  | .table t v => (m.tables.getD t []).contains v || (v == 0 && !(m.tables.getD t []).isEmpty)

/-- FLEVEL of the image that a kernel runs (25 R416). -/
def kernelLevel (s : State) (lnum : Nat) : Nat :=
  (((s.kernel lnum).bind (fun k => s.image k.image)).map Image.level).getD 0

/-- The lowest-numbered die that provides a feature, reaches the image's FLEVEL and is not being updated (21 R339; 25 R416,
R422). -/
def providingDie (s : State) (level : Nat) (x : Feature) : Option Nat :=
  (List.range 4).find? (fun d => if h : d < 4 then
      (s.proctor.micro[d]).provides x && level ≤ (s.proctor.micro[d]).level.toNat && !(s.proctor.micro[d]).upd
    else false)

/-- A feature-level fault is not fatal when the form can be saved and some die provides the feature (21 R339). -/
def featureMovable (s : State) (t : Thread) (x : Option Feature) : Bool :=
  field t.satb.toNat 15 0 != 0 && (x.bind (providingDie s (kernelLevel s t.lnum))).isSome

/-- Whether a fault of a compute-die agent ends its kernel (23 R343). -/
def faultEnds (s : State) (t : Thread) (f : FaultInfo) : Bool :=
  match f.kind with
  | 4 => !lazyResolvable s (trCtx s t).dom f.d
  | 8 => !loaderOpen s t (f.d.getD 1 0)
  | 9 => !featureMovable s t f.feature
  | 11 => false
  | _ => true

/-- A lost route met by an access raises machine check 0x87, once for a node without a route, and a kernel that wrote there
ends with CAUSE 5 (25 R388); END says whether one does (23 R426). A request that its home refuses is handled in the same way, its
node keeping its route (25 R386). -/
def lostRoute (s : State) (node lnum : Nat) (wrote : Bool) : State :=
  let s' := if s.host.keyed.contains node then s else { s with host := { s.host with lost := setAdd node s.host.lost } }
  let s' := if s.host.lost.contains node then s
    else s'.machineCheck 0x87 (wrote && s.lives lnum) false none 0 0 0 0 [w64 node] false
  if wrote then endKernel s' lnum 5 0 else s'

/-- The group takes the loader trap (19 R309). The thread is taken at once, at the boundary before its next
instruction. -/
def takeLoaderTrap (s : State) (tid : Nat) (ssn : Word) (f : FaultInfo) : State :=
  match s.thread tid with
  | none => s
  | some t =>
    match t.group with
    | none => s
    | some g =>
      match s.kernel t.lnum with
      | none => s
      | some k =>
        let sldr := match s.image k.image with
          | some im => ((im.kernels[k.kidx]?).map KernelEntry.sldr).getD 0
          | none => 0
        let base := match s.image k.image with
          | some im => im.base
          | none => 0
        let parts := partsOf tid t
        let ckpt : Checkpoint := { core := g.core, cells := laneCells s.lanes parts }
        let hold : LoaderHold :=
          { ctx := t.ctx, ckpt := ckpt, replay := g.replay, strip := g.strip,
            vblk := g.vblk, block := g.block, leaving := false }
        let c := { t.ctx with pc := sldr + w64 base }
        let c := ((c.wr 1 0x00FFFFFFFEFF0000).wr 4 (f.d.getD 0 0)).wr 5 (f.d.getD 1 0)
        let c := c.wr 6 (f.d.getD 2 0)
        let core := { g.core with vl := 0, frag := BitVec.allOnes 65536, pending := [] }
        let g := { g with core := core, running := false, block := none, vblk := [], strip := none, replay := none,
                          waiting := none, emptyAgain := (f.d.getD 1 0, ssn) :: g.emptyAgain }
        s.putThread tid { t with ctx := c, waiting := none, loader := some hold, group := some g }

/-- Delivers the record of a fault of a compute-die agent and acts on it (23 R343 to R347, R350): the strip of a vector
fault rolls back, in both members of a pair (R370); the kernel ends, the loader trap is taken, or the agent is held until
the Proctor resolves the fault. -/
def deliverFault (s : State) (tid : Nat) (vec : Bool) (f : FaultInfo) : State :=
  match s.thread tid with
  | none => s
  | some t =>
    let s := touchHit s f t.lnum
    let ends := faultEnds s t f
    let vcp := if vec then (t.group.map vcpOf).getD 0 else 0
    let ssn := if vec then (t.group.map (fun g => g.core.vssn)).getD 0 else 0
    let words := recordWords f.kind vec ends t.isShadow (coordBits tid) (f.edie.getD (tidDie tid)) t.ctx.pc vcp ssn t.lnum
      (s.cycle (tidDie tid)) f.d
    let s := match f.node with
      | some n => lostRoute s n t.lnum false
      | none => s
    let s := if vec then
        (match partnerOf t with
         | some q => rollbackPair (rollbackPair s tid) q
         | none => rollback s tid)
      else s
    if ends then
      let s := { s with proctor := { s.proctor with checks := s.proctor.checks ++ [words] } }
      endKernel s t.lnum 2 f.kind
    else match f.kind with
      | 4 =>
        let s := { s with proctor := { s.proctor with faults := s.proctor.faults ++ [({ words := words, tid := tid, vec := vec, kind := f.kind, feature := f.feature } : Delivered)] } }
        if vec then s.modGroup tid (fun g => { g with faulted := true })
        else s.modThread tid (fun t => { t with faulted := true })
      | 8 => takeLoaderTrap { s with proctor := { s.proctor with checks := s.proctor.checks ++ [words] } } tid ssn f
      | 9 =>
        let s := { s with proctor := { s.proctor with faults := s.proctor.faults ++ [({ words := words, tid := tid, vec := vec, kind := f.kind, feature := f.feature } : Delivered)] } }
        s.modGroup tid (fun g => { g with faulted := true })
      | _ =>
        let s := { s with proctor := { s.proctor with checks := s.proctor.checks ++ [words] } }
        s.logRecord 2 f.inj 0 11 (tidDie tid) (tidClu tid) (tidCore tid) (w64 t.lnum)

/-- A Proctor core enters its handler (23 R352, 25 R378): the frame holds the interrupted PC, the code and the record; the
core continues at PXHAND. An entry in the handler, or with PXHAND 0, halts the core with machine check 0x85. -/
def enterHandler (s : State) (k : Nat) (code : Nat) (words : List Word) : State :=
  match s.pcore k with
  | none => s
  | some p =>
    if p.inHandler || p.pxhand = 0 then
      (s.putPcore k { p with halted := true }).machineCheck 0x85 false false none 0 0 0 0 [w64 k, p.ctx.pc] false
    else
      let frame := [p.ctx.pc, w64 code] ++ (words ++ List.replicate 16 0#64).take 16
      let bytes := frame.flatMap (fun w => leBytes 8 w.toNat)
      let s := s.store (field p.pxframe.toNat 51 4 * 16) bytes false
      s.putPcore k { p with inHandler := true, waiting := none,
                            ctx := { p.ctx with pc := w64 (field p.pxhand.toNat 51 4 * 16) } }

/-- TRET on a Proctor core: PC from word 0 of the frame, and the handler has ended (23 R352). -/
def leaveHandler (s : State) (k : Nat) : State :=
  match s.pcore k with
  | none => s
  | some p =>
    let pc := w64 (readNat s.sys.mem (field p.pxframe.toNat 51 4 * 16) 8)
    s.putPcore k { p with inHandler := false, ctx := { p.ctx with pc := pc } }

/-- The acting scalar agent takes a fault, precise at its instruction (11 R168): a compute-die thread delivers its
record, a Proctor core enters its handler with 0x100 plus the code (23 R352). -/
def takeScalarFault (s : State) (f : FaultInfo) : State :=
  match s.actor with
  | .thread tid => deliverFault s tid false f
  | .proctor k => match s.pcore k with
    | some p =>
      let s := touchHit s f 0
      let s := match f.node with
        | some n => lostRoute s n 0 false
        | none => s
      let words := recordWords f.kind false false false 0 0 p.ctx.pc 0 0 0 (s.cycle 4) f.d
      enterHandler s k (0x100 + f.kind) words
    | none => s
  | _ => s

/-- Runs a scalar instruction for the acting agent: its effect, its fault, or a wait before every effect (11 R165, R167,
R168). -/
def runScalar (i : Instr) (s : State) (body : Agent → Except Stop State) : Out :=
  match agentOf s with
  | none => .fault .noActor
  | some a => match body a with
    | .ok s' => .next s'
    | .error .wait => .next (s.setWaiting (some i))
    | .error (.fault f) => .next (takeScalarFault s f)
    | .error (.refuse op) => .refused (.microcodeDefined op)

/-- Runs a scalar instruction that only changes registers and PC. -/
def runRegs (s : State) (f : ScalarCtx → ScalarCtx) : Out :=
  match s.ctx with
  | none => .fault .noActor
  | some c => .next (s.setCtx (f c))

/-! FINJ and device registers. -/

/-- A counter of a slice, in the order of 07 R120. -/
def sliceCounter (sl : CacheSlice) : Nat → Option Word
  | 0 => some (w64 sl.tags.length)
  | 1 => some (w64 sl.entries.length)
  | 2 => some (w64 (sl.tags.filter (fun t => t.2.zero)).length)
  | 3 => some sl.shares
  | 4 => some sl.coll
  | 5 => some sl.satur
  | 6 => some sl.unshr
  | 7 => some sl.poisn
  | _ => none

/-- FLVL of a die (25 R380). -/
def flvlOf (s : State) (die : Nat) : Word :=
  if h : die < 4 then
    let m := s.proctor.micro[die]
    w64 ((if m.upd then 2 ^ 63 else 0) + m.emask.toNat * 2 ^ 32 + m.level.toNat)
  else 0

/-- BSTAT (25 R392). -/
def bstatOf (s : State) : Word :=
  let b := fun (c : Bool) (n : Nat) => if c then 2 ^ n else 0
  w64 (s.host.fail.toNat * 2 ^ 24 + b s.host.degr 3 + b s.host.hotBit 2 + b s.host.bridge 1 + b s.host.ready 0)

/-- NODEID (25 R380). -/
def nodeidOf (s : State) : Word := w64 (s.host.brn.toNat * 2 ^ 16 + s.host.node.toNat)

/-- LSTAT of a port (25 R380). -/
def lstatOf (p : LinkPort) : Word :=
  w64 (p.peer.toNat * 2 ^ 32 + p.retry.toNat * 2 ^ 16 + (if p.sw then 2 else 0) + (if p.up then 1 else 0))

/-- The device register at an offset (25 R379); none where the offset holds no register. -/
def readDevice (s : State) (off : Nat) : Option Word :=
  if off < 0x40000000 then
    let die := off / 0x10000000
    let o := off % 0x10000000
    if h : die < 4 then
      if o = 0 then some (w64 (s.sched.pdl[die]).toNat)
      else if o = 8 then some (flvlOf s die)
      else if 0x10 ≤ o && o < 0x50 && o % 8 == 0 then
        some (w64 ((tableGet (die * 8 + (o - 0x10) / 8) s.proctor.sensors).getD 0).toNat)
      else if 0x100000 ≤ o && o < 0x103000 && o % 8 == 0 then
        sliceCounter ((tableGet (die * 48 + (o - 0x100000) / 0x100) s.sys.cache).getD .reset) ((o - 0x100000) % 0x100 / 8)
      else if 0x200000 ≤ o && o < 0x200180 && o % 8 == 0 then
        some (if (s.core (die * 48 + (o - 0x200000) / 8)).retired then 1 else 0)
      else none
    else none
  else if 0x40000000 ≤ off && off < 0x40000100 && off % 8 == 0 then
    (s.pcore ((off - 0x40000000) / 16)).map (fun p => if off % 16 = 0 then p.pxframe else p.pxhand)
  else if 0x40100000 ≤ off && off < 0x401000C0 && off % 8 == 0 then
    (s.host.ports[(off - 0x40100000) / 8]?).map lstatOf
  else if off = 0x40200000 then some (nodeidOf s)
  else if off = 0x40200008 then some (bstatOf s)
  else if 0x40200010 ≤ off && off < 0x40200050 && off % 8 == 0 then
    some (w64 ((tableGet (32 + (off - 0x40200010) / 8) s.proctor.sensors).getD 0).toNat)
  else none

/-- A store to a device register sets its RW fields (25 R379; 23 R353; 25 R378); none where there is no register. -/
def writeDevice (s : State) (off : Nat) (v : Word) : Option State :=
  let die := off / 0x10000000
  if h : off % 0x10000000 = 0 ∧ die < 4 then
    some { s with sched := { s.sched with pdl := s.sched.pdl.set die (BitVec.ofNat 32 v.toNat) h.2 } }
  else if 0x40000000 ≤ off && off < 0x40000100 && off % 8 == 0 then
    let k := (off - 0x40000000) / 16
    let x := w64 (field v.toNat 51 4 * 16)
    match s.pcore k with
    | some p => some (s.putPcore k (if off % 16 = 0 then { p with pxframe := x } else { p with pxhand := x }))
    | none => none
  else if (readDevice s off).isSome then some s
  else none

/-- PXFRAME and PXHAND are privileged (25 R378); the fault of another thread's access to them (log 24). -/
def deviceDenied (a : Accessor) (off va : Nat) (k : Access) : Option FaultInfo :=
  if !a.priv && 0x40000000 ≤ off && off < 0x40000100 then some (trFault 5 0 k va 0) else none

/-! Scalar accesses. -/

/-- The bytes with those that a paired thread's unperformed external events will write, the latest event first
(23 R368). -/
def overlayEvents (es : List ExtEvent) (pa : Nat) (bs : List Byte) : List Byte :=
  es.foldl (fun (bs : List Byte) (e : ExtEvent) =>
    let data := e.data.flatMap (fun w => leBytes 8 w.toNat)
    bs.mapIdx (fun i b => if e.kind = 0 && e.addr ≤ pa + i && pa + i < e.addr + e.size
      then data.getD (pa + i - e.addr) b else b)) bs

/-- A scalar read of n bytes at an aligned virtual address (07 R107, R131; 11 R172). -/
def loadScalar (s : State) (a : Agent) (va : Nat) (n : Nat) (k : Access) : Except Stop (State × Nat × Nat) :=
  if va % n ≠ 0 then raise 3 [0, va, 0]
  else do
    let pa ← translateScalar s a.acc va k
    match physKind pa with
    | .device off =>
      if n ≠ 8 then raise 3 [0, va, 0]
      else match deviceDenied a.acc off va k, readDevice s off with
        | some f, _ => .error (.fault f)
        | none, some w => pure (s, pa, w.toNat)
        | none, none => .error (.fault (trFault 1 0 k va 0))
    | _ =>
      match lostNode s pa with
      | some node => .error (.fault { poisonFault va 0 0 with node := some node })
      | none =>
        let s := touchAccess s a.acc va pa n ((a.thread.map Thread.lnum).getD 0)
        match poisonAt s.sys pa n with
        | some (p, unit) => .error (.fault { poisonFault (va + (p - pa)) 0 unit with hit := some (pa, n) })
        | none =>
          let bs := overlayEvents ((a.thread.map Thread.events).getD []) pa (s.bytesAt pa n)
          pure (s, pa, leValue bs)

/-- The thread or group that FINJ names for KIND 1 and 6 (23 R375). -/
def finjThread (x : Nat) : Nat := tidOf (field x 58 57) (field x 56 54) (field x 53 51) (field x 50 48)

/-- The address leaves the scratchpad range of a paired member, so the effect is an external event (23 R368). -/
def external (a : Agent) (va : Nat) : Bool :=
  match a.thread with
  | some t => t.isPaired && va < windowBase
  | none => false

/-- Adds an external event to a paired thread's list; a member holds at most 16 unmatched events (23 R368). -/
def pushEvent (s : State) (a : Agent) (kind addr size : Nat) (data : List Word) (i : Instr) : Except Stop State :=
  match a.tid, a.thread with
  | some tid, some t =>
    if 16 ≤ t.events.length then .error .wait
    else
      let x := s.proctor.finj.toNat
      let hit := bitOf x 63 && field x 62 59 == 6 && finjThread x == tid
      let (s, data) := if hit then (s.disarm, match data with | w :: ws => (w ^^^ 1) :: ws | [] => []) else (s, data)
      let e : ExtEvent :=
        { no := t.eventNo, kind := kind, iaddr := a.ctx.pc, addr := addr, size := size, data := data, instr := i, inj := hit }
      pure (s.modThread tid (fun t => { t with events := t.events ++ [e], eventNo := t.eventNo + 1 }))
  | _, _ => pure s

/-- A scalar write of the low n bytes of a value (07 R107, R111; 11 R172); `fill` for filling stores. -/
def storeScalar (s : State) (a : Agent) (i : Instr) (va n v : Nat) (fill : Bool) : Except Stop State :=
  if va % n ≠ 0 then raise 3 [0, va, 0]
  else do
    let pa ← translateScalar s a.acc va .write
    let bs := leBytes n v
    match physKind pa with
    | .device off =>
      if n ≠ 8 then raise 3 [0, va, 0]
      else match deviceDenied a.acc off va .write, writeDevice s off (w64 v) with
        | some f, _ => .error (.fault f)
        | none, some s => pure s
        | none, none => .error (.fault (trFault 1 0 .write va 0))
    | _ =>
      match lostNode s pa with
      | some node => pure (lostRoute s node ((a.thread.map Thread.lnum).getD 0) true)
      | none =>
        if external a va then pushEvent s a 0 pa n [w64 v, w64 (v / 2 ^ 64)] i
        else
          let s := touchAccess s a.acc va pa n ((a.thread.map Thread.lnum).getD 0)
          pure (s.store pa bs fill)

end Sys2Proof.Machine
end

