-- ==== Sys2Proof/Machine/Seats.lean ====
section
/-! DEFINITION. Seating and spans at boundaries: how blocks move between groups and what a change of lane count or of attached dies does to a group (03 R36 to R39, R55; 11 R193, R194; 19 R311, R312; 17 R282). -/

namespace Sys2Proof.Machine

/-- Registers, masks and slices of blocks of a core read zero (03 R39). -/
def clearBlocks (s : State) (core : Nat) (bs : List Nat) : State :=
  zeroLanes s (bs.map (fun b => { die := core / 48, core := core, slot := 15, base := 32 * b, lanes := 32 : Part }))

/-- A group is at a boundary: no running block, nothing queued, no closed strip (11 R193). -/
def Group.idle (g : Group) : Bool := !g.running && g.vblk.isEmpty && g.closed.isEmpty && g.issues.isEmpty

/-- No memory-graph run of the group is unfinished (19 R311). -/
def Group.noRuns (g : Group) : Bool := g.slots.all (fun e => e.2.run.isNone)

/-- What a change of lane count leaves of a group (03 R39; 19 R311; 23 R358): no tables, window, bindings, gathers,
graphs; every register's tags at VB 0 and DT 1. -/
def Group.relaned (g : Group) (block0 nblk : Nat) (dies : List Nat) : Group :=
  let tags : Table (Nat × Bool) := dies.flatMap (fun d => (List.range 64).map (fun r => (d * 64 + r, (0, true))))
  let core := { g.core with tables := [], window := none, streams := [], gread := [], gmark := [], live := [], tags := tags }
  { g with core := core, gathers := [], held := [], runData := [], slots := [], block0 := block0, nblk := nblk }

/-- The chart after a boundary of a slot: blocks it gives up go to their NEXT owner, unowned blocks whose NEXT names it
join it (03 R39). -/
def boundaryChart (c : Core) (slot : Nat) : BitVec 32 :=
  (List.range 8).foldl (fun cur b =>
    let o := chartOwner cur b
    let n := chartOwner c.nxt b
    if (o == slot && n != slot) || (o == 15 && n == slot) then chartSet cur b n else cur) c.cur

/-- A group takes the run that CUR gives its slot (03 R39). -/
def takeRun (s : State) (tid : Nat) : State :=
  match s.thread tid with
  | none => s
  | some t => match t.group with
    | none => s
    | some g =>
      let (b0, n) := chartRun (s.core (coreOf tid)).cur (tidSlot tid)
      if n = g.nblk then s.putGroup tid { g with block0 := b0 }
      else
        let s := s.putGroup tid (g.relaned b0 n (positions 4 (bitOf t.att.toNat)))
        zeroLanes s [partAt (coreOf tid) (tidSlot tid) b0 n]

/-- Blocks move as a boundary of a slot moves them, and read zero; the timetable unit scans again (03 R39, 21 R336). -/
def moveBlocks (s : State) (core slot : Nat) : State :=
  let c := s.core core
  let cur := boundaryChart c slot
  let moved := positions 8 (fun b => chartOwner cur b != chartOwner c.cur b)
  if moved.isEmpty then s
  else
    let s := clearBlocks (s.putCore core { c with cur := cur }) core moved
    { s with sched := { s.sched with rescan := true } }

/-- Idle groups of a core give up at once the blocks that leave them, and then take those that have come to them
(03 R39, 11 R193). -/
def settleIdle (s : State) (core : Nat) : State :=
  let idle := (List.range 8).filter (fun k => match s.group (core * 8 + k) with
    | some g => g.idle && g.noRuns
    | none => false)
  let s := idle.foldl (fun s k => moveBlocks s core k) s
  idle.foldl (fun s k => takeRun s (core * 8 + k)) s

/-- A seating change reaches a group at its committed boundary (03 R39). -/
def reseat (s : State) (tid : Nat) : State :=
  settleIdle (takeRun (moveBlocks s (coreOf tid) (tidSlot tid)) tid) (coreOf tid)

/-- Whether a boundary of the group would change its lane count while a run is unfinished, so that it waits (19 R311). -/
def boundaryWaits (s : State) (tid : Nat) : Bool :=
  match s.group tid with
  | none => false
  | some g =>
    let cur := boundaryChart (s.core (coreOf tid)) (tidSlot tid)
    !g.noRuns && (chartRun cur (tidSlot tid)).2 != g.nblk

/-- No link names a member (17 R282, 03 R55). -/
def unlink (m : Member) (l : Links) : Links :=
  { up := if l.up = some m then none else l.up, down := if l.down = some m then none else l.down }

/-- Every link that names a part is cleared. -/
def clearLinksTo (s : State) (m : Member) : State :=
  let fix := fun (t : Thread) =>
    { t with group := t.group.map (fun g =>
        { g with core := { g.core with links := g.core.links.map (fun e => (e.1, unlink m e.2)) } }) }
  { s with threads := s.threads.map (fun e => (e.1, fix e.2)) }

/-- A pending attachment or release takes effect at a committed boundary (03 R55, 19 R312, 17 R282). -/
def spanChange (s : State) (tid : Nat) : State :=
  match s.thread tid with
  | none => s
  | some t =>
    match t.group with
    | none => s
    | some g =>
      if t.pend = 0 then s
      else
        let att := t.att ^^^ t.pend
        let old := positions 4 (bitOf t.att.toNat)
        let new := positions 4 (bitOf att.toNat)
        let joins := new.filter (fun d => !old.contains d)
        let leaves := old.filter (fun d => !new.contains d)
        let relive := fun (l : List (List Word)) => new.map (fun d =>
          match old.findIdx? (fun e => e == d) with
          | some i => l.getD i []
          | none => [])
        let tags := joins.foldl (fun tg d => (List.range 64).foldl (fun tg r => tablePut (d * 64 + r) (0, true) tg) tg) g.core.tags
        let tags := tags.filter (fun e => !leaves.contains (e.1 / 64))
        let core := { g.core with
          tables := [], window := none, tags := tags, live := g.core.live.map (fun e => (e.1, relive e.2)),
          links := g.core.links.filter (fun e => !leaves.contains e.1) }
        let g := { g with core := core, buffers := g.buffers.filter (fun e => !leaves.contains e.1),
                          outgoing := g.outgoing.filter (fun e => !leaves.contains e.1),
                          leaving := g.leaving.filter (fun e => !leaves.contains e.1) }
        let s := s.putThread tid { t with att := att, pend := 0, group := some g }
        let parts := t.partners.filterMap (fun p =>
          if joins.contains p.die then some (partAt p.core p.slot p.block0 p.nblk) else none)
        let s := zeroLanes s parts
        (t.partners.filter (fun p => leaves.contains p.die)).foldl
          (fun s p => clearLinksTo s { die := p.die, clu := p.core % 48 / 8, core := p.core % 8, slot := p.slot }) s

end Sys2Proof.Machine
end

