-- ==== Sys2Proof/Machine/Operands.lean ====
section
/-! DEFINITION. Operands of vector instructions: where an element lies, active elements, second sources, registers read and written, interlocks, pops of bound registers, deliveries of gathers, and the common entry of every vector instruction (03 R38, R56, R59; 05 R81; 09 R144; 13 R201, R202, R216, R218; 15 R230 to R234; 17 R272). -/

namespace Sys2Proof.Machine

/-- What a vector instruction works on: the sequencer's thread and group, the group's parts in die order, and the address
of the instruction. -/
structure VCtx where
  tid : Nat
  t : Thread
  g : Group
  parts : List Part
  iaddr : Word
  deriving DecidableEq, Repr

def vctx (s : State) (tid : Nat) : Option VCtx :=
  match s.thread tid with
  | none => none
  | some t => match t.group with
    | none => none
    | some g => some { tid := tid, t := t, g := g, parts := partsOf tid t, iaddr := g.core.pc }

/-- Lanes of each part, all equal (03 R55). -/
def VCtx.lanes (v : VCtx) : Nat := match v.parts with
  | p :: _ => p.lanes
  | [] => 0

/-- VLMAX_die (03 R56). -/
def VCtx.vmax (v : VCtx) (w : Nat) : Nat := v.lanes * 256 / w

/-- avail of 03 R52. -/
def VCtx.avail (v : VCtx) (w : Nat) : Nat := v.vmax w * v.parts.length

def VCtx.vl (v : VCtx) : Nat := v.g.core.vl

/-- Where element e lies at width w: its part, its lane in the core, its position in the lane (03 R38, R56). -/
def VCtx.place (v : VCtx) (w e : Nat) : Option (Part × Nat × Nat) :=
  (v.parts[e / v.vmax w]?).map (fun p =>
    let i := e % v.vmax w
    (p, p.base + i % v.lanes, i / v.lanes))

/-- The die of an element (23 R347). -/
def VCtx.dieOf (v : VCtx) (w e : Nat) : Option Nat := (v.place w e).map (fun x => x.1.die)

/-- Element e of a register at width w (03 R38). -/
def VCtx.get (v : VCtx) (s : State) (reg w e : Nat) : Nat :=
  match v.place w e with
  | none => 0
  | some (p, lane, pos) => field (cellGet s.lanes.vregs (vregKey p.core reg lane)).toNat (pos * w + w - 1) (pos * w)

/-- A cell with w bits at a position replaced. -/
def putBits {n : Nat} (x : BitVec n) (pos w v : Nat) : BitVec n :=
  let keepMask := ~~~ (BitVec.ofNat n (2 ^ w - 1) <<< (pos * w))
  (x &&& keepMask) ||| (BitVec.ofNat n (v % 2 ^ w) <<< (pos * w))

/-- One element written in the lane cells. -/
def VCtx.putLane (v : VCtx) (l : LaneSys) (reg w e x : Nat) : LaneSys :=
  match v.place w e with
  | none => l
  | some (p, lane, pos) =>
    let key := vregKey p.core reg lane
    { l with vregs := cellSet l.vregs key (putBits (cellGet l.vregs key) pos w x) }

/-- The tags after a write of an element: VB covers its 8-byte word, DT is set (23 R358). -/
def VCtx.tagged (v : VCtx) (tags : Table (Nat × Bool)) (reg w e : Nat) : Table (Nat × Bool) :=
  match v.place w e with
  | none => tags
  | some (p, _, pos) =>
    let key := p.die * 64 + reg
    let old := ((tableGet key tags).getD (0, false)).1
    tablePut key (max old ((pos * w + w - 1) / 64 + 1), true) tags

/-- Elements of a register written at width w, with its tags; an element written carries no mark any more. -/
def VCtx.putElems (v : VCtx) (s : State) (reg w : Nat) (es : List (Nat × Nat)) : State :=
  let s := { s with lanes := es.foldl (fun (l : LaneSys) (e : Nat × Nat) => v.putLane l reg w e.1 e.2) s.lanes }
  s.modGroup v.tid (fun g =>
    { g with core := { g.core with
        tags := es.foldl (fun (t : Table (Nat × Bool)) (e : Nat × Nat) => v.tagged t reg w e.1) g.core.tags,
        gmark := g.core.gmark.filter (fun m => !(m.1 == reg && es.any (fun e => e.1 == m.2.1))) } })

/-- The strip's account of registers written, and the fault of a seventeenth (03 R49). A paired member waits where no spare
is free (23 R366). -/
def VCtx.touch (v : VCtx) (s : State) (regs : List Nat) : Except Stop State :=
  match (s.group v.tid).bind Group.strip with
  | none => .ok s
  | some st =>
    let written := regs.foldl (fun ws r => setAdd r ws) st.written
    let held := ((s.group v.tid).map (fun g => g.closed.foldl (fun n c => n + c.strip.written.length) 0)).getD 0
    if 16 < written.length then raise 7 [43, 16, written.length]
    else if held ≠ 0 && 16 < held + written.length then .error .wait
    else .ok (s.modGroup v.tid (fun g => { g with strip := some { st with written := written } }))

/-- Elements of a register written by an instruction: no element, no write (13 R201; 03 R49). -/
def VCtx.write (v : VCtx) (s : State) (reg w : Nat) (es : List (Nat × Nat)) : Except Stop State :=
  if es.isEmpty then .ok s
  else do
    let s ← v.touch s [reg]
    pure (v.putElems s reg w es)

/-- Where the mask bit of element e lies: its core, its lane, its bit (03 R38). In a group on one die the place does not depend
on a width; across dies R56 splits the elements at the width of the instruction (log 12). A bit past the 64 of a lane has no
place. -/
def VCtx.maskPlace (v : VCtx) (w e : Nat) : Option (Nat × Nat × Nat) :=
  match v.parts with
  | [p] => if e / v.lanes < 64 then some (p.core, p.base + e % v.lanes, e / v.lanes) else none
  | _ => (v.place w e).map (fun x => (x.1.core, x.2.1, x.2.2))

/-- The bit of mask m for element e of an instruction of width w; m0 reads true (00 R8, 03 R38). A bit that has no place is a
free value (log 12). -/
def VCtx.mask (v : VCtx) (s : State) (w m e : Nat) : Bool :=
  if m = 0 then true
  else match v.maskPlace w e with
    | none => Config.absentMaskBit s.tick m e
    | some (core, lane, pos) => (cellGet s.lanes.masks (maskKey core m lane)).getLsbD pos

/-- Mask bits written; writes to m0 are discarded (00 R8). -/
def VCtx.putMask (v : VCtx) (s : State) (w m : Nat) (es : List (Nat × Bool)) : State :=
  if m = 0 then s
  else
    let masks := es.foldl (fun (ms : Sparse 64) e => match v.maskPlace w e.1 with
      | none => ms
      | some (core, lane, pos) =>
        let key := maskKey core m lane
        cellSet ms key (putBits (cellGet ms key) pos 1 (if e.2 then 1 else 0))) s.lanes.masks
    { s with lanes := { s.lanes with masks := masks } }

/-- The fragment mask at an element (03 R59). -/
def VCtx.frag (v : VCtx) (e : Nat) : Bool := v.g.core.frag.getLsbD e

/-- The effective mask of an instruction of width w at element e (09 R144, 03 R59). -/
def VCtx.effective (v : VCtx) (s : State) (f : VFields) (w e : Nat) : Bool :=
  let own := if f.me then v.mask s w f.msk.toNat e
    else if f.msk = 0 then true
    else !v.mask s w f.msk.toNat e
  own && v.frag e

/-- The active elements in increasing order (13 R201). -/
def VCtx.active (v : VCtx) (s : State) (f : VFields) (w : Nat) : List Nat := positions v.vl (v.effective s f w)

/-- An illegal-encoding fault of a vector instruction, with its detail code (23 R348, R349). -/
def VCtx.illegal {α : Type} (v : VCtx) (code d2 : Nat) : Except Stop α := raise 1 [code, v.iaddr.toNat, d2]

/-- 13 R202: VL fits every operand at its own width. -/
def VCtx.widths (v : VCtx) (ws : List Nat) : Except Stop Unit :=
  if ws.any (fun w => decide (v.avail w < v.vl)) then v.illegal 5 0 else .ok ()

/-- The width of the instruction's type (03 R38, 05 R69). -/
def typeWidth (f : VFields) : Nat := ((elemType f.ty.toNat (fnField f 23 23)).map ElemType.width).getD 32

/-- The width of the type that SETVL last named, which untyped mask instructions use (log 12). -/
def VCtx.vtypeWidth (v : VCtx) : Nat := ((elemType v.g.core.ty.toNat v.g.core.sg.toNat).map ElemType.width).getD 32

/-- A w register, and the group with one written (03 R41). -/
def VCtx.w (v : VCtx) (r : BitVec 6) : Word := v.g.core.w[r.toNat]?.getD 0

def VCtx.setW (v : VCtx) (s : State) (r : BitVec 6) (x : Word) : State :=
  s.modGroup v.tid (fun g => { g with core := { g.core with w := g.core.w.setIfInBounds r.toNat x } })

/-- The instruction is done: the sequencer goes on at the address after it. -/
def VCtx.next (v : VCtx) (s : State) (bytes : Nat) : State :=
  s.modGroup v.tid (fun g => { g with core := { g.core with pc := v.iaddr + w64 bytes } })

/-- A branch of a vector instruction (09 R145). -/
def VCtx.jump (v : VCtx) (s : State) (parcels : Int) : State :=
  s.modGroup v.tid (fun g => { g with core := { g.core with pc := v.iaddr + BitVec.ofInt 64 (4 * parcels) } })

/-- Flags raised in a strip wait for its commit; outside a strip they reach FFLAGS at once (03 R48). -/
def VCtx.flags (v : VCtx) (s : State) (f : Flags) : State :=
  s.modThread v.tid (fun t =>
    match t.group with
    | none => t
    | some g => match g.strip with
      | some st => { t with group := some { g with strip := some { st with flags := st.flags ||| f } } }
      | none => { t with ctx := { t.ctx with fflags := t.ctx.fflags ||| f } })

/-! Rounding. -/

/-- FMODE and SEED of the block (05 R84). -/
def VCtx.fmode (v : VCtx) : BitVec 3 := (v.g.block.map VBlock.fmode).getD 0
def VCtx.seed (v : VCtx) : Word := (v.g.block.map VBlock.seed).getD 0

/-- The rounding mode in effect: RMO, or the block's FMODE (15 R232). -/
def VCtx.mode (v : VCtx) (rmo : Nat) : RoundMode :=
  ((if rmo = 0 then roundModeOf v.fmode.toNat else roundModeOf (rmo - 1))).getD .rne

/-- k of 05 R81: the rsr instructions that the strip has executed. -/
def VCtx.count (v : VCtx) : Nat := (v.g.strip.map Strip.k).getD 0

/-- A mode with the random bits of element e and rounding j (05 R81). -/
def VCtx.rounding (v : VCtx) (m : RoundMode) (e j : Nat) : Rounding :=
  ⟨m, if m = .rsr then randBits v.seed v.g.core.vssn v.count e j else 0⟩

/-- An instruction that honours rsr counts once (05 R81; log 11). -/
def VCtx.counted (v : VCtx) (s : State) (m : RoundMode) : State :=
  if m = .rsr then s.modGroup v.tid (fun g => { g with strip := g.strip.map (fun st => { st with k := st.k + 1 }) }) else s

/-! Second sources (15 R234). -/

/-- The immediate of layouts E, C and P at width w. -/
def immElem (f : VFields) (w : Nat) : Nat :=
  if fnField f 23 23 = 1 then keep (sext (fnField f 15 0) 16) w else fnField f 15 0 % 2 ^ w

/-- The second source at an element: a vector register, a w register's low bits, or the immediate. -/
def VCtx.src (v : VCtx) (s : State) (f : VFields) (w e : Nat) : Nat :=
  match fnField f 22 21 with
  | 0 => v.get s f.vs2.toNat w e
  | 1 => (v.w f.vs2).toNat % 2 ^ w
  | _ => immElem f w

/-! Registers that an instruction reads and writes. -/

/-- The eight registers of a tile or group (09 R143). -/
def tileRegs (x : BitVec 6) : List Nat := (List.range 8).map (fun k => x.toNat / 8 * 8 + k)

/-- MX codes take a scale register (17 R269). -/
def mxRegs (f : VFields) (x : BitVec 6) : List Nat := if 12 ≤ f.ty.toNat then [x.toNat] else []

/-- Result registers of MWB.Q (17 R278). -/
def quantRegs (f : VFields) : List Nat :=
  if f.ty = 7 || f.ty = 14 then [f.vd.toNat] else [f.vd.toNat, f.vd.toNat + 1]

/-- Result registers of MLDT: the operand's and the scales' (17 R280). -/
def mldtRegs (f : VFields) : List Nat :=
  (List.range (fnField f 15 13 + 1)).map (fun h => f.vd.toNat + h)
    ++ (if 12 ≤ f.ty.toNat then [fnField f 23 18] else [])

/-- The vector registers that an instruction reads. -/
def vreads (i : Instr) : List Nat :=
  match i with
  | .moxa f => [f.vs1.toNat, f.vs2.toNat] ++ mxRegs f f.vs3 ++ (if fnField f 0 0 = 0 then tileRegs f.vd else [])
  | .moxs f => [f.vs1.toNat, f.vs2.toNat] ++ mxRegs f f.vs3 ++ (if fnField f 0 0 = 0 then tileRegs f.vd else [])
  | .mldw f => tileRegs f.vs1
  | .mpass f => [f.vs1.toNat] ++ tileRegs f.vs2 ++ mxRegs f f.vs3 ++ (if fnField f 0 0 = 1 then [f.vd.toNat] else [])
  | .mwb f => tileRegs f.vs1
  | .mwbQ f => tileRegs f.vs1
  | .vtrn8 f => tileRegs f.vd
  | .vamo f => [f.vd.toNat, f.vs2.toNat, f.vs3.toNat]
  | .xop f => [f.vs1.toNat, f.vs2.toNat, f.vs3.toNat]
  | i => match vrowOf i with
    | none => []
    | some (r, f) =>
      let one := fun (k : OperandKind) (x : BitVec 6) =>
        if k = .vreg || (k = .src && fnField f 22 21 == 0) then [x.toNat] else []
      one r.k1 f.vs1 ++ one r.k2 f.vs2 ++ one r.k3 f.vs3

/-- The vector registers that an instruction writes. VBIND and VUNBIND name a register without writing it. -/
def vwrites (i : Instr) : List Nat :=
  match i with
  | .moxa f => tileRegs f.vd
  | .moxs f => tileRegs f.vd
  | .mldw f => tileRegs f.vd
  | .mpass f => [f.vd.toNat]
  | .mwb f => tileRegs f.vd ++ (if fnField f 0 0 = 1 then tileRegs f.vs1 else [])
  | .mwbQ f => quantRegs f ++ [f.vs2.toNat] ++ (if fnField f 0 0 = 1 then tileRegs f.vs1 else [])
  | .mldt f => mldtRegs f
  | .vtrn8 f => tileRegs f.vd
  | .vrowstat f => (List.range 4).map (fun k => f.vd.toNat + k)
  | .vbind _ => []
  | .vunbind _ => []
  | i => match vrowOf i with
    | none => []
    | some (r, f) => if r.kd = .vreg then [f.vd.toNat] else []

/-- The array operations (17 R271). -/
def isArrayOp : Instr → Bool
  | .moxa _ | .moxs _ | .mldw _ | .mpass _ | .mwb _ | .mwbQ _ => true
  | _ => false

/-- Two sets of registers meet. -/
def meets (xs ys : List Nat) : Bool := xs.any (fun x => ys.contains x)

/-- The bound registers that an instruction pops, which writes them (13 R216). -/
def pops (g : Group) (i : Instr) : List Nat := (vreads i).filter (fun r => (tableGet r g.core.streams).isSome)

/-- An outstanding array operation holds a register that the instruction needs (17 R272); an array operation waits at issue
only for a full queue, or to pop a register that another holds; the slab multipliers wait for recess (15 R233). -/
def interlocked (g : Group) (i : Instr) : Bool :=
  let held := fun (q : ArrayOp) => vwrites q.instr ++ vreads q.instr
  if g.queue.any (fun q => meets (pops g i) (held q)) then true
  else if isArrayOp i then decide (8 ≤ g.queue.length)
  else
    let rs := vreads i
    let ws := vwrites i
    g.queue.any (fun q => meets (rs ++ ws) (vwrites q.instr) || meets ws (vreads q.instr))
      || (chainClass i == some 1 && (!g.queue.isEmpty || g.quiesce))

/-! Marked elements, gathers and streams. -/

/-- The fault of a marked element; a translation fault lists the pages of every marked element in the list (13 R216,
07 R106). -/
def markFault (v : VCtx) (w e : Nat) (m : Mark) (all : List (Nat × Mark)) : FaultInfo :=
  let f := if m.kind = 6 then poisonFault m.va e m.info
    else if m.kind = 3 then faultOf 3 [0, m.va, e]
    else if m.kind = 1 then faultOf 1 [27, v.iaddr.toNat, 0]
    else
      let pages := (all.filter (fun x => x.2.kind == 4 || x.2.kind == 5)).map
        (fun x => pageWord (x.2.info / 4) (x.2.info % 4) .read x.2.va)
      let pages := pages.eraseDups
      faultOf m.kind ([m.va % 2 ^ 56, e * 2 ^ 32 + min 8 pages.length * 2 ^ 28 + (if 8 < pages.length then 2 ^ 27 else 0)]
        ++ pages.take 8)
  { f with edie := if m.kind = 1 then none else v.dieOf w e }

/-- Every lane of a register is written zero, which sets its DT (23 R358). -/
def VCtx.clearReg (v : VCtx) (s : State) (reg : Nat) : State :=
  let mine := fun (k : Nat) => v.parts.any (fun p => k / 16384 == p.core && k / 256 % 64 == reg
    && p.base ≤ k % 256 && k % 256 < p.base + p.lanes)
  let dirty := fun (t : Table (Nat × Bool)) (p : Part) =>
    tablePut (p.die * 64 + reg) (((tableGet (p.die * 64 + reg) t).getD (0, false)).1, true) t
  { s with lanes := { s.lanes with vregs := s.lanes.vregs.filter (fun e => !mine e.1) } }.modGroup v.tid (fun g =>
    { g with core := { g.core with tags := v.parts.foldl dirty g.core.tags } })

/-- Delivered elements converted, with their flags: `rand` gives the random bits of element e (13 R208). -/
def convertAll (mfmt : Word) (ty sg : Nat) (m : RoundMode) (rand : Nat → Nat) (vals : List (Nat × Option Mark)) :
    List (Nat × Nat) × Flags :=
  let rs := vals.zipIdx.map (fun y => (y.2, convLoad mfmt ty sg ⟨m, rand y.2⟩ y.1.1))
  (rs.map (fun r => (r.1, r.2.1)), rs.foldl (fun g r => g ||| r.2.2) 0#7)

/-- The marked elements of a delivery. -/
def marksOf (vals : List (Nat × Option Mark)) : List (Nat × Mark) :=
  (vals.zipIdx).filterMap (fun y => y.1.2.map (fun m => (y.2, m)))

/-- A pending gather's delivery is written to its register by the first instruction of a later strip that names it, which
waits for it; it counts as one register write, and its flags are that strip's (13 R218). -/
def takeGather (s : State) (v : VCtx) (reg : Nat) : Except Stop State :=
  match v.g.gathers.find? (fun x => x.reg == reg && !v.g.core.gread.contains reg) with
  | none => .ok s
  | some x => match x.delivered with
    | none => .error .wait
    | some vals =>
      let w := (typeOf x.ty x.sg).width
      let (es, fl) := convertAll x.mfmt x.ty x.sg ((roundModeOf x.fmode.toNat).getD .rne) (fun e => x.rand.getD e 0) vals
      do
        let s ← v.write s reg w es
        pure ((v.flags s fl).modGroup v.tid (fun g => { g with core := { g.core with
          gread := setAdd reg g.core.gread, gmark := g.core.gmark ++ (marksOf vals).map (fun m => (reg, m.1, m.2)) } }))

/-- Elements of the sequence of a stream (13 R215). -/
def Stream.extent (st : Stream) : Nat := st.exts.foldl (fun n x => n * x) 1

/-- What a pop of n elements from a position delivers, none while it must wait: each value with its mark (13 R216,
19 R302). -/
def popValues (g : Group) (reg n : Nat) (st : Stream) : Option (List (Nat × Option Mark)) :=
  match st.slot with
  | none =>
    let need := min n (st.extent - st.pos)
    let h := (tableGet reg g.held).getD []
    if h.length < need then none else some (h.take need ++ List.replicate (n - need) (0, none))
  | some _ =>
    match tableGet reg g.runData with
    | none => some (List.replicate n (0, none))
    | some d =>
      let got := ((d.values.drop st.pos).take n).map (fun w => (w.toNat, none))
      if got.length < n && !d.ended then none
      else some (got ++ List.replicate (n - got.length) (0, d.mark))

/-- A pop of a bound register: its elements below VL become the sequence's next ones, converted, its other elements zero
(log 21); the position rises by VL (13 R216). A pop does not count among the registers of 03 R49 (DEDUCED, log 42). The result
gives the marked elements that the pop meets. -/
def popStream (s : State) (v : VCtx) (reg : Nat) : Except Stop (State × List (Nat × Mark)) :=
  match tableGet reg v.g.core.streams with
  | none => .ok (s, [])
  | some st =>
    if v.vl = 0 then .ok (s, [])
    else
      let w := (typeOf st.ty st.sg).width
      match popValues v.g reg v.vl st with
      | none => .error .wait
      | some vals =>
        do
          v.widths [w]
          let mode := v.mode 0
          let (es, fl) := convertAll st.mfmt st.ty st.sg mode (fun e => (v.rounding mode e 0).rand) vals
          let s := v.putElems (v.clearReg s reg) reg w es
          let s := (v.flags s fl).modGroup v.tid (fun g => { g with
            held := tableMod reg (fun h => h.drop v.vl) g.held,
            core := { g.core with streams := tablePut reg { st with pos := st.pos + v.vl } g.core.streams } })
          pure (s, marksOf vals)

/-- A pop by the instruction performs a rounding conversion under rsr, so that the instruction counts in k (05 R81). -/
def popCounts (v : VCtx) (i : Instr) : Bool :=
  v.mode 0 == .rsr && (vreads i).any (fun r => match tableGet r v.g.core.streams with
    | some st => convRounds st.mfmt st.ty st.sg
    | none => false)

/-- Instructions that do nothing at VL 0: no access and no fault (13 R229). -/
def idleAtZero : Instr → Bool
  | .vld _ | .vst _ | .vlds _ | .vsts _ | .vldx _ | .vstx _ | .vacc _ | .vredm _ | .vldl _ | .vstl _ => true
  | _ => false

/-- A marked element placed among others in increasing order of elements, before those of its own element. -/
def insertMark (m : Nat × Mark) : List (Nat × Mark) → List (Nat × Mark)
  | [] => [m]
  | x :: rest => if m.1 ≤ x.1 then m :: x :: rest else x :: insertMark m rest

/-- The width at which an instruction's elements are placed. -/
def instrWidth (i : Instr) : Nat := match vrowOf i with
  | some (_, f) => typeWidth f
  | none => 32

/-- The lowest faulting element of an instruction decides between a marked operand element and what the instruction itself
came to; a fault that belongs to no element comes first (23 R346). -/
def operandFault (v : VCtx) (i : Instr) (marks : List (Nat × Mark)) (own : Option Stop) : Option Stop :=
  match marks.foldr insertMark [] with
  | [] => own
  | (e, m) :: rest =>
    match own with
    | some (.fault f) =>
      if (match f.element with
        | none => true
        | some k => decide (k < e)) then own
      else some (.fault (markFault v (instrWidth i) e m ((e, m) :: rest)))
    | _ => some (.fault (markFault v (instrWidth i) e m ((e, m) :: rest)))

/-- What comes before a vector instruction's own effect: the interlocks, the array-mode check, a bound register named as a
destination, deliveries and pops; the marked elements that it reads come with the result (15 R233, 13 R216, R218, 17 R272). An
array operation reads whole registers, any other instruction the elements below VL. -/
def prepare (s : State) (v : VCtx) (i : Instr) : Except Stop (State × List (Nat × Mark)) :=
  if interlocked v.g i then .error .wait
  else if chainClass i == some 1 && v.g.core.am != 0 then v.illegal 14 0
  else if (vwrites i).any (fun r => (tableGet r v.g.core.streams).isSome) then v.illegal 7 0
  else do
    let names := (vreads i ++ vwrites i).eraseDups
    let s ← names.foldlM (fun s r => takeGather s v r) s
    let marks := ((s.group v.tid).map (fun g => g.core.gmark)).getD []
    let bad := marks.filter (fun m => (vreads i).contains m.1 && (isArrayOp i || decide (m.2.1 < v.vl)))
    (vreads i).eraseDups.foldlM (fun (acc : State × List (Nat × Mark)) r => do
      let (s, ms) ← popStream acc.1 v r
      pure (s, acc.2 ++ ms)) (s, bad.map (fun m => m.2))

/-- An instruction's own effect after its operands are ready, or the fault of its lowest faulting element (23 R346). -/
def withOperands (s : State) (v : VCtx) (i : Instr) (body : State → VCtx → Except Stop State) : Except Stop State := do
  let (s', marks) ← prepare s v i
  let own := match vctx s' v.tid with
    | none => .ok s'
    | some v' => body s' v'
  match operandFault v i marks (match own with
    | .error e => some e
    | .ok _ => none) with
  | some e => .error e
  | none => own

/-- Runs a vector instruction for the acting sequencer: its effect, a wait before every effect, or its fault, which rolls the
strip back (03 R50; 09 R151; 11 R167; 23 R350). -/
def runVector (i : Instr) (s : State) (body : State → VCtx → Except Stop State) : Out :=
  match s.actor with
  | .sequencer tid =>
    match vctx s tid with
    | none => .fault .noActor
    | some v =>
      match if v.vl = 0 && idleAtZero i then body s v else withOperands s v i body with
      | .ok s' =>
        if popCounts v i then
          .next (s'.modGroup tid (fun g => { g with strip := g.strip.map (fun st => { st with k := v.count + 1 }) }))
        else .next s'
      | .error .wait => .next (s.setWaiting (some i))
      | .error (.fault f) => .next (deliverFault s tid true f)
      | .error (.refuse op) => .refused (.microcodeDefined op)
  | _ => .fault .noActor

/-- A vector instruction whose result is elementwise: each active element's value and flags, written to VD at width w
(13 R201, 15 R230, R236). `mode` is the rounding mode that counts towards k, rne for an instruction that does not round. -/
def elementwise (i : Instr) (f : VFields) (s : State) (w : Nat) (others : List Nat) (mode : VCtx → RoundMode)
    (result : State → VCtx → Nat → Nat × Flags) : Out :=
  runVector i s (fun s v => do
    v.widths (w :: others)
    let rs := (v.active s f w).map (fun e => (e, result s v e))
    let s' ← v.write s f.vd.toNat w (rs.map (fun r => (r.1, r.2.1)))
    let s' := v.flags s' (rs.foldl (fun g r => g ||| r.2.2) 0#7)
    pure (v.next (v.counted s' (mode v)) 8))

end Sys2Proof.Machine
end

