-- ==== Sys2Proof/Machine/Integer.lean ====
section
/-! DEFINITION. The integer instructions, branches and jumps (11 R169 to R171, R174, R175; 19 R310). -/

namespace Sys2Proof.Machine

/-- One result into rd, PC + 4 (11 R165). -/
def intoReg (s : State) (rd : BitVec 5) (f : ScalarCtx → Word) : Out := runRegs s (fun c => (c.wr rd (f c)).step)

/-- A truth value as a register holds it. -/
def boolWord (b : Bool) : Word := if b then 1 else 0

/-- Sext(imm16, 16) and Zext(imm16, 16) (11 R170). -/
def simm (i : BitVec 16) : Word := i.signExtend 64
def zimm (i : BitVec 16) : Word := i.zeroExtend 64

/-- The loader return address (19 R309). -/
def loaderReturn : Word := 0x00FFFFFFFEFF0000

/-- The acting thread runs its loader and jumps to the loader return address (19 R310). -/
def endsLoader (s : State) (t : Word) : Bool :=
  match s.actor with
  | .thread tid => t == loaderReturn && ((s.thread tid).bind Thread.loader).isSome
  | _ => false

/-- PC becomes a target; a jump to the loader return address ends the loader (11 R165, 19 R310). -/
def jumpTo (s : State) (c : ScalarCtx) (t : Word) : State :=
  let s' := s.setCtx { c with pc := t }
  if endsLoader s t then
    match s.actor with
    | .thread tid => s'.modThread tid (fun t => { t with loader := t.loader.map (fun h => { h with leaving := true }) })
    | _ => s'
  else s'

/-- A conditional branch by a signed count of parcels (11 R174). -/
def branchIf (s : State) (cond : ScalarCtx → Bool) (off : BitVec 16) : Out :=
  match s.ctx with
  | none => .fault .noActor
  | some c => if cond c then .next (jumpTo s c (c.pc + 4 * off.signExtend 64)) else .next (s.setCtx c.step)

/-- ADD (11 R169). -/
def execAdd (rd rs1 rs2 : BitVec 5) (s : State) : Out :=
  intoReg s rd (fun c => let a := c.rd rs1; let b := c.rd rs2; a + b)

/-- SUB (11 R169). -/
def execSub (rd rs1 rs2 : BitVec 5) (s : State) : Out :=
  intoReg s rd (fun c => let a := c.rd rs1; let b := c.rd rs2; a - b)

/-- AND (11 R169). -/
def execAnd (rd rs1 rs2 : BitVec 5) (s : State) : Out :=
  intoReg s rd (fun c => let a := c.rd rs1; let b := c.rd rs2; a &&& b)

/-- OR (11 R169). -/
def execOr (rd rs1 rs2 : BitVec 5) (s : State) : Out :=
  intoReg s rd (fun c => let a := c.rd rs1; let b := c.rd rs2; a ||| b)

/-- XOR (11 R169). -/
def execXor (rd rs1 rs2 : BitVec 5) (s : State) : Out :=
  intoReg s rd (fun c => let a := c.rd rs1; let b := c.rd rs2; a ^^^ b)

/-- SLL (11 R169). -/
def execSll (rd rs1 rs2 : BitVec 5) (s : State) : Out :=
  intoReg s rd (fun c => let a := c.rd rs1; let b := c.rd rs2; a <<< (b.toNat % 64))

/-- SRL (11 R169). -/
def execSrl (rd rs1 rs2 : BitVec 5) (s : State) : Out :=
  intoReg s rd (fun c => let a := c.rd rs1; let b := c.rd rs2; a >>> (b.toNat % 64))

/-- SRA (11 R169). -/
def execSra (rd rs1 rs2 : BitVec 5) (s : State) : Out :=
  intoReg s rd (fun c => let a := c.rd rs1; let b := c.rd rs2; a.sshiftRight (b.toNat % 64))

/-- SLT (11 R169). -/
def execSlt (rd rs1 rs2 : BitVec 5) (s : State) : Out :=
  intoReg s rd (fun c => let a := c.rd rs1; let b := c.rd rs2; boolWord (a.slt b))

/-- SLTU (11 R169). -/
def execSltu (rd rs1 rs2 : BitVec 5) (s : State) : Out :=
  intoReg s rd (fun c => let a := c.rd rs1; let b := c.rd rs2; boolWord (a.ult b))

/-- MUL (11 R169). -/
def execMul (rd rs1 rs2 : BitVec 5) (s : State) : Out :=
  intoReg s rd (fun c => let a := c.rd rs1; let b := c.rd rs2; a * b)

/-- MULH (11 R169). -/
def execMulh (rd rs1 rs2 : BitVec 5) (s : State) : Out :=
  intoReg s rd (fun c => let a := c.rd rs1; let b := c.rd rs2; BitVec.ofInt 64 (a.toInt * b.toInt / 2 ^ 64))

/-- MULHU (11 R169). -/
def execMulhu (rd rs1 rs2 : BitVec 5) (s : State) : Out :=
  intoReg s rd (fun c => let a := c.rd rs1; let b := c.rd rs2; w64 (a.toNat * b.toNat / 2 ^ 64))

/-- DIV (11 R169). -/
def execDiv (rd rs1 rs2 : BitVec 5) (s : State) : Out :=
  intoReg s rd (fun c => let a := c.rd rs1; let b := c.rd rs2; divSigned a b)

/-- DIVU (11 R169). -/
def execDivu (rd rs1 rs2 : BitVec 5) (s : State) : Out :=
  intoReg s rd (fun c => let a := c.rd rs1; let b := c.rd rs2; divUnsigned a b)

/-- REM (11 R169). -/
def execRem (rd rs1 rs2 : BitVec 5) (s : State) : Out :=
  intoReg s rd (fun c => let a := c.rd rs1; let b := c.rd rs2; remSigned a b)

/-- REMU (11 R169). -/
def execRemu (rd rs1 rs2 : BitVec 5) (s : State) : Out :=
  intoReg s rd (fun c => let a := c.rd rs1; let b := c.rd rs2; remUnsigned a b)

/-- MIN (11 R169). -/
def execMin (rd rs1 rs2 : BitVec 5) (s : State) : Out :=
  intoReg s rd (fun c => let a := c.rd rs1; let b := c.rd rs2; if b.slt a then b else a)

/-- MAX (11 R169). -/
def execMax (rd rs1 rs2 : BitVec 5) (s : State) : Out :=
  intoReg s rd (fun c => let a := c.rd rs1; let b := c.rd rs2; if a.slt b then b else a)

/-- MINU (11 R169). -/
def execMinu (rd rs1 rs2 : BitVec 5) (s : State) : Out :=
  intoReg s rd (fun c => let a := c.rd rs1; let b := c.rd rs2; if b.ult a then b else a)

/-- MAXU (11 R169). -/
def execMaxu (rd rs1 rs2 : BitVec 5) (s : State) : Out :=
  intoReg s rd (fun c => let a := c.rd rs1; let b := c.rd rs2; if a.ult b then b else a)

/-- CLZ (11 R169). -/
def execClz (rd rs1 : BitVec 5) (s : State) : Out :=
  intoReg s rd (fun c => w64 (clzN 64 (c.rd rs1).toNat))

/-- CTZ (11 R169). -/
def execCtz (rd rs1 : BitVec 5) (s : State) : Out :=
  intoReg s rd (fun c => w64 (ctzN 64 (c.rd rs1).toNat))

/-- POPC (11 R169). -/
def execPopc (rd rs1 : BitVec 5) (s : State) : Out :=
  intoReg s rd (fun c => w64 (popcount 64 (c.rd rs1).toNat))

/-- ADDI (11 R170). -/
def execAddi (rd rs1 : BitVec 5) (imm : BitVec 16) (s : State) : Out :=
  intoReg s rd (fun c => c.rd rs1 + simm imm)

/-- ANDI (11 R170). -/
def execAndi (rd rs1 : BitVec 5) (imm : BitVec 16) (s : State) : Out :=
  intoReg s rd (fun c => c.rd rs1 &&& zimm imm)

/-- ORI (11 R170). -/
def execOri (rd rs1 : BitVec 5) (imm : BitVec 16) (s : State) : Out :=
  intoReg s rd (fun c => c.rd rs1 ||| zimm imm)

/-- XORI (11 R170). -/
def execXori (rd rs1 : BitVec 5) (imm : BitVec 16) (s : State) : Out :=
  intoReg s rd (fun c => c.rd rs1 ^^^ zimm imm)

/-- SLTI (11 R170). -/
def execSlti (rd rs1 : BitVec 5) (imm : BitVec 16) (s : State) : Out :=
  intoReg s rd (fun c => boolWord ((c.rd rs1).slt (simm imm)))

/-- SLTIU (11 R170). -/
def execSltiu (rd rs1 : BitVec 5) (imm : BitVec 16) (s : State) : Out :=
  intoReg s rd (fun c => boolWord ((c.rd rs1).ult (simm imm)))

/-- SLLI (11 R170). -/
def execSlli (rd rs1 : BitVec 5) (sh : BitVec 6) (s : State) : Out :=
  intoReg s rd (fun c => c.rd rs1 <<< sh.toNat)

/-- SRLI (11 R170). -/
def execSrli (rd rs1 : BitVec 5) (sh : BitVec 6) (s : State) : Out :=
  intoReg s rd (fun c => c.rd rs1 >>> sh.toNat)

/-- SRAI (11 R170). -/
def execSrai (rd rs1 : BitVec 5) (sh : BitVec 6) (s : State) : Out :=
  intoReg s rd (fun c => (c.rd rs1).sshiftRight sh.toNat)

/-- LUI (11 R171). -/
def execLui (rd : BitVec 5) (imm : BitVec 21) (s : State) : Out :=
  intoReg s rd (fun _ => imm.signExtend 64 <<< 16)

/-- AUIPC (11 R171). -/
def execAuipc (rd : BitVec 5) (imm : BitVec 21) (s : State) : Out :=
  intoReg s rd (fun c => c.pc + (imm.signExtend 64 <<< 16))

/-- ORMI (11 R170). -/
def execOrmi (rd rs1 : BitVec 5) (imm : BitVec 16) (s : State) : Out :=
  intoReg s rd (fun c => c.rd rs1 ||| (zimm imm <<< 32))

/-- ORHI (11 R170). -/
def execOrhi (rd rs1 : BitVec 5) (imm : BitVec 16) (s : State) : Out :=
  intoReg s rd (fun c => c.rd rs1 ||| (zimm imm <<< 48))

/-- BEQ (11 R174). -/
def execBeq (rs1 rs2 : BitVec 5) (off : BitVec 16) (s : State) : Out :=
  branchIf s (fun c => c.rd rs1 == c.rd rs2) off

/-- BNE (11 R174). -/
def execBne (rs1 rs2 : BitVec 5) (off : BitVec 16) (s : State) : Out :=
  branchIf s (fun c => c.rd rs1 != c.rd rs2) off

/-- BLT (11 R174). -/
def execBlt (rs1 rs2 : BitVec 5) (off : BitVec 16) (s : State) : Out :=
  branchIf s (fun c => (c.rd rs1).slt (c.rd rs2)) off

/-- BGE (11 R174). -/
def execBge (rs1 rs2 : BitVec 5) (off : BitVec 16) (s : State) : Out :=
  branchIf s (fun c => !(c.rd rs1).slt (c.rd rs2)) off

/-- BLTU (11 R174). -/
def execBltu (rs1 rs2 : BitVec 5) (off : BitVec 16) (s : State) : Out :=
  branchIf s (fun c => (c.rd rs1).ult (c.rd rs2)) off

/-- BGEU (11 R174). -/
def execBgeu (rs1 rs2 : BitVec 5) (off : BitVec 16) (s : State) : Out :=
  branchIf s (fun c => !(c.rd rs1).ult (c.rd rs2)) off

/-- JAL: the link goes to g1 (11 R175). -/
def execJal (off : BitVec 26) (s : State) : Out :=
  match s.ctx with
  | none => .fault .noActor
  | some c => .next (jumpTo s (c.wr 1 (c.pc + 4)) (c.pc + 4 * off.signExtend 64))

/-- J (11 R175). -/
def execJ (off : BitVec 26) (s : State) : Out :=
  match s.ctx with
  | none => .fault .noActor
  | some c => .next (jumpTo s c (c.pc + 4 * off.signExtend 64))

/-- JALR: the target is read before rd is written; a misaligned one faults (11 R175). -/
def execJalr (rd rs1 : BitVec 5) (imm : BitVec 16) (s : State) : Out :=
  runScalar (.jalr rd rs1 imm) s (fun a =>
    let t := a.ctx.rd rs1 + simm imm
    if t.toNat % 4 ≠ 0 then raise 3 [0, t.toNat, 0]
    else pure (jumpTo s (a.ctx.wr rd (a.ctx.pc + 4)) t))

end Sys2Proof.Machine
end

