-- ==== Sys2Proof/Machine/LoadStore.lean ====
section
/-! DEFINITION. Scalar loads and stores, consuming loads and filling stores (11 R172, R173; 07 R107, R111, R112, R128; 23 R369). -/

namespace Sys2Proof.Machine

/-- Sext or Zext of the low n bytes of a loaded value (11 R172). -/
def extend (signed : Bool) (n v : Nat) : Word := if signed then BitVec.ofInt 64 (sext v (8 * n)) else w64 (v % 2 ^ (8 * n))

/-- The register after rt, of a pair. -/
def pairHigh (rt : BitVec 5) : BitVec 5 := rt + 1

/-- A loaded value goes to rt, or for 16 bytes to rt and rt + 1 (11 R172). -/
def writeLoaded (c : ScalarCtx) (rt : BitVec 5) (signed : Bool) (n v : Nat) : ScalarCtx :=
  if n = 16 then (c.wr rt (w64 v)).wr (pairHigh rt) (w64 (v / 2 ^ 64)) else c.wr rt (extend signed n v)

/-- The value that a store of n bytes writes. -/
def storedValue (c : ScalarCtx) (rt : BitVec 5) (n : Nat) : Nat :=
  if n = 16 then (c.rd (pairHigh rt)).toNat * 2 ^ 64 + (c.rd rt).toNat else (c.rd rt).toNat % 2 ^ (8 * n)

/-- A plain load of n bytes (11 R172). -/
def plainLoad (i : Instr) (s : State) (rt rs1 : BitVec 5) (imm : BitVec 16) (n : Nat) (signed : Bool) : Out :=
  runScalar i s (fun a => do
    let (s', _, v) ← loadScalar s a (a.ctx.rd rs1 + simm imm).toNat n .read
    pure (s'.setCtx (writeLoaded a.ctx rt signed n v).step))

/-- A plain store of n bytes (11 R172). -/
def plainStore (i : Instr) (s : State) (rt rs1 : BitVec 5) (imm : BitVec 16) (n : Nat) : Out :=
  runScalar i s (fun a => do
    let s' ← storeScalar s a i (a.ctx.rd rs1 + simm imm).toNat n (storedValue a.ctx rt n) false
    pure (s'.setCtx a.ctx.step))

/-- The address lies in the scratchpad window, or a permission fault with CAUSE 7 (11 R173, R182). -/
def needWindow (va : Nat) (k : Access) : Except Stop Unit :=
  if inWindow va then .ok () else .error (.fault (trFault 7 0 k va 0))

/-- A paired member has every earlier external event and closed strip performed (23 R369). -/
def pairSettled (a : Agent) : Bool :=
  match a.thread with
  | some t => !t.isPaired || (t.events.isEmpty && (match t.group with
      | some g => g.closed.isEmpty
      | none => true))
  | none => true

/-- A consuming load of n bytes: it waits until every granule it touches is full or one is poisoned, then reads, and for .WC
clears them (11 R173, 07 R111, R112). -/
def consumingLoad (i : Instr) (s : State) (rt rs1 : BitVec 5) (imm : BitVec 11) (n : Nat) (signed clear : Bool) : Out :=
  runScalar i s (fun a => do
    let va := (a.ctx.rd rs1 + imm.signExtend 64).toNat
    if va % n ≠ 0 then raise 3 [0, va, 0]
    else do
      needWindow va .read
      let pa ← translateScalar s a.acc va .read
      let states := (unitsOf 16 pa n).map (fun u => cellGet s.sys.granules u)
      if !pairSettled a || (states.all (fun g => g != gPoison) && !states.all (fun g => g == gFull)) then .error .wait
      else do
        let (s', _, v) ← loadScalar s a va n .read
        let s' := if clear then { s' with sys := clearGranules s'.sys pa n } else s'
        pure (s'.setCtx (writeLoaded a.ctx rt signed n v).step))

/-- A filling store of n bytes (11 R173, 07 R111). -/
def fillingStore (i : Instr) (s : State) (rt rs1 : BitVec 5) (imm : BitVec 11) (n : Nat) : Out :=
  runScalar i s (fun a => do
    let va := (a.ctx.rd rs1 + imm.signExtend 64).toNat
    if va % n ≠ 0 then raise 3 [0, va, 0]
    else do
      needWindow va .write
      let s' ← storeScalar s a i va n (storedValue a.ctx rt n) true
      pure (s'.setCtx a.ctx.step))

/-- A waiting scalar instruction executes again from its start when what it waits for may have come (11 R167): `redo` gives
its meaning, none where it is not one that this event wakes. A thread that is stopped or held stays as it is. A number from
1536 on names a Proctor core. -/
def wakeThread (s : State) (tid : Nat) (redo : Instr → Option (State → Out)) : Out :=
  if 1536 ≤ tid then
    match s.pcore (tid - 1536) with
    | none => .next s
    | some p => match p.waiting.bind redo with
      | none => .next s
      | some run => run ({ s with actor := .proctor (tid - 1536) }.setWaiting none)
  else match s.thread tid with
  | none => .next s
  | some t =>
    match t.waiting with
    | none => .next s
    | some i =>
      if t.stopped || t.faulted then .next s
      else match redo i with
        | none => .next s
        | some run => run ({ s with actor := .thread tid }.setWaiting none)

/-- LB (11 R172). -/
def execLb (rt rs1 : BitVec 5) (imm : BitVec 16) (s : State) : Out :=
  plainLoad (.lb rt rs1 imm) s rt rs1 imm 1 true

/-- LBU (11 R172). -/
def execLbu (rt rs1 : BitVec 5) (imm : BitVec 16) (s : State) : Out :=
  plainLoad (.lbu rt rs1 imm) s rt rs1 imm 1 false

/-- LH (11 R172). -/
def execLh (rt rs1 : BitVec 5) (imm : BitVec 16) (s : State) : Out :=
  plainLoad (.lh rt rs1 imm) s rt rs1 imm 2 true

/-- LHU (11 R172). -/
def execLhu (rt rs1 : BitVec 5) (imm : BitVec 16) (s : State) : Out :=
  plainLoad (.lhu rt rs1 imm) s rt rs1 imm 2 false

/-- LW (11 R172). -/
def execLw (rt rs1 : BitVec 5) (imm : BitVec 16) (s : State) : Out :=
  plainLoad (.lw rt rs1 imm) s rt rs1 imm 4 true

/-- LWU (11 R172). -/
def execLwu (rt rs1 : BitVec 5) (imm : BitVec 16) (s : State) : Out :=
  plainLoad (.lwu rt rs1 imm) s rt rs1 imm 4 false

/-- LD (11 R172). -/
def execLd (rt rs1 : BitVec 5) (imm : BitVec 16) (s : State) : Out :=
  plainLoad (.ld rt rs1 imm) s rt rs1 imm 8 false

/-- LQ (11 R172). -/
def execLq (rt rs1 : BitVec 5) (imm : BitVec 16) (s : State) : Out :=
  plainLoad (.lq rt rs1 imm) s rt rs1 imm 16 false

/-- SB (11 R172). -/
def execSb (rt rs1 : BitVec 5) (imm : BitVec 16) (s : State) : Out :=
  plainStore (.sb rt rs1 imm) s rt rs1 imm 1

/-- SH (11 R172). -/
def execSh (rt rs1 : BitVec 5) (imm : BitVec 16) (s : State) : Out :=
  plainStore (.sh rt rs1 imm) s rt rs1 imm 2

/-- SW (11 R172). -/
def execSw (rt rs1 : BitVec 5) (imm : BitVec 16) (s : State) : Out :=
  plainStore (.sw rt rs1 imm) s rt rs1 imm 4

/-- SD (11 R172). -/
def execSd (rt rs1 : BitVec 5) (imm : BitVec 16) (s : State) : Out :=
  plainStore (.sd rt rs1 imm) s rt rs1 imm 8

/-- SQ (11 R172). -/
def execSq (rt rs1 : BitVec 5) (imm : BitVec 16) (s : State) : Out :=
  plainStore (.sq rt rs1 imm) s rt rs1 imm 16

/-- LB.W (11 R173). -/
def execLbW (rt rs1 : BitVec 5) (imm : BitVec 11) (s : State) : Out :=
  consumingLoad (.lbW rt rs1 imm) s rt rs1 imm 1 true false

/-- LB.WC (11 R173). -/
def execLbWc (rt rs1 : BitVec 5) (imm : BitVec 11) (s : State) : Out :=
  consumingLoad (.lbWc rt rs1 imm) s rt rs1 imm 1 true true

/-- LBU.W (11 R173). -/
def execLbuW (rt rs1 : BitVec 5) (imm : BitVec 11) (s : State) : Out :=
  consumingLoad (.lbuW rt rs1 imm) s rt rs1 imm 1 false false

/-- LBU.WC (11 R173). -/
def execLbuWc (rt rs1 : BitVec 5) (imm : BitVec 11) (s : State) : Out :=
  consumingLoad (.lbuWc rt rs1 imm) s rt rs1 imm 1 false true

/-- LH.W (11 R173). -/
def execLhW (rt rs1 : BitVec 5) (imm : BitVec 11) (s : State) : Out :=
  consumingLoad (.lhW rt rs1 imm) s rt rs1 imm 2 true false

/-- LH.WC (11 R173). -/
def execLhWc (rt rs1 : BitVec 5) (imm : BitVec 11) (s : State) : Out :=
  consumingLoad (.lhWc rt rs1 imm) s rt rs1 imm 2 true true

/-- LHU.W (11 R173). -/
def execLhuW (rt rs1 : BitVec 5) (imm : BitVec 11) (s : State) : Out :=
  consumingLoad (.lhuW rt rs1 imm) s rt rs1 imm 2 false false

/-- LHU.WC (11 R173). -/
def execLhuWc (rt rs1 : BitVec 5) (imm : BitVec 11) (s : State) : Out :=
  consumingLoad (.lhuWc rt rs1 imm) s rt rs1 imm 2 false true

/-- LW.W (11 R173). -/
def execLwW (rt rs1 : BitVec 5) (imm : BitVec 11) (s : State) : Out :=
  consumingLoad (.lwW rt rs1 imm) s rt rs1 imm 4 true false

/-- LW.WC (11 R173). -/
def execLwWc (rt rs1 : BitVec 5) (imm : BitVec 11) (s : State) : Out :=
  consumingLoad (.lwWc rt rs1 imm) s rt rs1 imm 4 true true

/-- LWU.W (11 R173). -/
def execLwuW (rt rs1 : BitVec 5) (imm : BitVec 11) (s : State) : Out :=
  consumingLoad (.lwuW rt rs1 imm) s rt rs1 imm 4 false false

/-- LWU.WC (11 R173). -/
def execLwuWc (rt rs1 : BitVec 5) (imm : BitVec 11) (s : State) : Out :=
  consumingLoad (.lwuWc rt rs1 imm) s rt rs1 imm 4 false true

/-- LD.W (11 R173). -/
def execLdW (rt rs1 : BitVec 5) (imm : BitVec 11) (s : State) : Out :=
  consumingLoad (.ldW rt rs1 imm) s rt rs1 imm 8 false false

/-- LD.WC (11 R173). -/
def execLdWc (rt rs1 : BitVec 5) (imm : BitVec 11) (s : State) : Out :=
  consumingLoad (.ldWc rt rs1 imm) s rt rs1 imm 8 false true

/-- LQ.W (11 R173). -/
def execLqW (rt rs1 : BitVec 5) (imm : BitVec 11) (s : State) : Out :=
  consumingLoad (.lqW rt rs1 imm) s rt rs1 imm 16 false false

/-- LQ.WC (11 R173). -/
def execLqWc (rt rs1 : BitVec 5) (imm : BitVec 11) (s : State) : Out :=
  consumingLoad (.lqWc rt rs1 imm) s rt rs1 imm 16 false true

/-- SB.FL (11 R173). -/
def execSbFl (rt rs1 : BitVec 5) (imm : BitVec 11) (s : State) : Out :=
  fillingStore (.sbFl rt rs1 imm) s rt rs1 imm 1

/-- SH.FL (11 R173). -/
def execShFl (rt rs1 : BitVec 5) (imm : BitVec 11) (s : State) : Out :=
  fillingStore (.shFl rt rs1 imm) s rt rs1 imm 2

/-- SW.FL (11 R173). -/
def execSwFl (rt rs1 : BitVec 5) (imm : BitVec 11) (s : State) : Out :=
  fillingStore (.swFl rt rs1 imm) s rt rs1 imm 4

/-- SD.FL (11 R173). -/
def execSdFl (rt rs1 : BitVec 5) (imm : BitVec 11) (s : State) : Out :=
  fillingStore (.sdFl rt rs1 imm) s rt rs1 imm 8

/-- SQ.FL (11 R173). -/
def execSqFl (rt rs1 : BitVec 5) (imm : BitVec 11) (s : State) : Out :=
  fillingStore (.sqFl rt rs1 imm) s rt rs1 imm 16

/-- The consuming loads, each with its meaning. -/
def consumingOf : Instr → Option (State → Out)
  | .lbW rt rs1 imm => some (execLbW rt rs1 imm)
  | .lbWc rt rs1 imm => some (execLbWc rt rs1 imm)
  | .lbuW rt rs1 imm => some (execLbuW rt rs1 imm)
  | .lbuWc rt rs1 imm => some (execLbuWc rt rs1 imm)
  | .lhW rt rs1 imm => some (execLhW rt rs1 imm)
  | .lhWc rt rs1 imm => some (execLhWc rt rs1 imm)
  | .lhuW rt rs1 imm => some (execLhuW rt rs1 imm)
  | .lhuWc rt rs1 imm => some (execLhuWc rt rs1 imm)
  | .lwW rt rs1 imm => some (execLwW rt rs1 imm)
  | .lwWc rt rs1 imm => some (execLwWc rt rs1 imm)
  | .lwuW rt rs1 imm => some (execLwuW rt rs1 imm)
  | .lwuWc rt rs1 imm => some (execLwuWc rt rs1 imm)
  | .ldW rt rs1 imm => some (execLdW rt rs1 imm)
  | .ldWc rt rs1 imm => some (execLdWc rt rs1 imm)
  | .lqW rt rs1 imm => some (execLqW rt rs1 imm)
  | .lqWc rt rs1 imm => some (execLqWc rt rs1 imm)
  | _ => none

/-- CONSUMING_LOAD_WAKE: a waiting consuming load executes again (07 R112). -/
def execConsumingLoadWake (tid : Nat) (s : State) : Out := wakeThread s tid consumingOf

end Sys2Proof.Machine
end

