-- ==== Sys2Proof/Machine/Atomics.lean ====
section
/-! DEFINITION. Scalar atomics, fences, barriers and phase end, and the events that end their waits (11 R180 to R185; 07 R123, R124, R128; 23 R368, R369). -/

namespace Sys2Proof.Machine

/-- Every block that the thread posted has ended and committed its last strip (07 R123); a loader's thread still has the
blocks behind its trap (19 R309). -/
def blocksDone (t : Thread) : Bool :=
  match t.group with
  | none => true
  | some g => !g.running && g.vblk.isEmpty && g.strip.isNone && g.closed.isEmpty && g.issues.isEmpty && t.loader.isNone

/-- Every access of the vector stream made for those blocks is performed: their notify writes and posts too (07 R121, R123). -/
def vectorDone (t : Thread) : Bool :=
  blocksDone t && (match t.group with
    | none => true
    | some g => g.notifies.isEmpty && g.posts.isEmpty)

/-- What a release waits for, and what an acquire of a paired member waits for (07 R124, 23 R369); ORD bit 1 releases, bit 0
acquires. -/
def orderWaits (a : Agent) (ord : BitVec 2) : Bool :=
  (bitOf ord.toNat 1 && (match a.thread with
    | some t => !vectorDone t
    | none => false)) || (ord != 0 && !pairSettled a)

/-- The new value of an atomic, none for no write: its operation as the encoding numbers it (11 R180). -/
def amoNew (op n old v cmp : Nat) : Option Nat :=
  let m := 2 ^ (8 * n)
  let s := fun x => sext x (8 * n)
  match op with
  | 0 => some v
  | 1 => some ((old + v) % m)
  | 2 => some (old &&& v)
  | 3 => some (old ||| v)
  | 4 => some (old ^^^ v)
  | 5 => some (if s v < s old then v else old)
  | 6 => some (if s old < s v then v else old)
  | 7 => some (if v < old then v else old)
  | 8 => some (if old < v then v else old)
  | 9 => if old = cmp then some v else none
  | 10 => none
  | _ => some v

/-- The event of an external atomic of the acting thread is already in its list, waiting for its match. -/
def eventPending (a : Agent) (i : Instr) : Bool :=
  match a.thread with
  | some t => t.events.any (fun e => e.kind != 0 && e.kind != 2 && e.instr == i && e.iaddr == a.ctx.pc)
  | none => false

/-- One atomic of n bytes at an address: read and write form one access (11 R180, 07 R111, R124, R131). The result is the old
value. -/
def amoAccess (s : State) (a : Agent) (op va n v cmp : Nat) : Except Stop (State × Nat) := do
  let (s', pa, old) ← loadScalar s a va n (.atomic (op == 10))
  match amoNew op n old v cmp with
  | some x => pure (s'.store pa (leBytes n x) false, old)
  | none => pure (s', old)

/-- An atomic: rd takes the old value, sign-extended, but for AMOST (11 R180). -/
def atomic (i : Instr) (s : State) (op : Nat) (rd rs1 rs2 : BitVec 5) (ord asz : BitVec 2) : Out :=
  runScalar i s (fun a => do
    let va := (a.ctx.rd rs1).toNat
    let n := if asz = 2 then 4 else 8
    let v := (a.ctx.rd rs2).toNat % 2 ^ (8 * n)
    let cmp := (a.ctx.rd rd).toNat % 2 ^ (8 * n)
    if va % n ≠ 0 then raise 3 [0, va, 0]
    else do
      let pa ← translateScalar s a.acc va (.atomic (op == 10))
      if eventPending a i || orderWaits a ord then .error .wait
      else if external a va then
        match poisonAt s.sys pa n, lostNode s pa with
        | some (p, unit), _ => .error (.fault { poisonFault (va + (p - pa)) 0 unit with hit := some (pa, n) })
        | none, some node => .error (.fault { poisonFault va 0 0 with node := some node })
        | none, none => do
          let s' ← pushEvent s a 1 pa n [w64 v, w64 cmp] i
          pure (s'.setWaiting (some i))
      else do
        let (s', old) ← amoAccess s a op va n v cmp
        let c := if op = 11 then a.ctx else a.ctx.wr rd (BitVec.ofInt 64 (sext old (8 * n)))
        pure (s'.setCtx c.step))

/-- AMOSWAP (11 R180). -/
def execAmoswap (rd rs1 rs2 : BitVec 5) (sc : BitVec 3) (ord asz : BitVec 2) (s : State) : Out :=
  atomic (.amoswap rd rs1 rs2 sc ord asz) s 0 rd rs1 rs2 ord asz

/-- AMOADD (11 R180). -/
def execAmoadd (rd rs1 rs2 : BitVec 5) (sc : BitVec 3) (ord asz : BitVec 2) (s : State) : Out :=
  atomic (.amoadd rd rs1 rs2 sc ord asz) s 1 rd rs1 rs2 ord asz

/-- AMOAND (11 R180). -/
def execAmoand (rd rs1 rs2 : BitVec 5) (sc : BitVec 3) (ord asz : BitVec 2) (s : State) : Out :=
  atomic (.amoand rd rs1 rs2 sc ord asz) s 2 rd rs1 rs2 ord asz

/-- AMOOR (11 R180). -/
def execAmoor (rd rs1 rs2 : BitVec 5) (sc : BitVec 3) (ord asz : BitVec 2) (s : State) : Out :=
  atomic (.amoor rd rs1 rs2 sc ord asz) s 3 rd rs1 rs2 ord asz

/-- AMOXOR (11 R180). -/
def execAmoxor (rd rs1 rs2 : BitVec 5) (sc : BitVec 3) (ord asz : BitVec 2) (s : State) : Out :=
  atomic (.amoxor rd rs1 rs2 sc ord asz) s 4 rd rs1 rs2 ord asz

/-- AMOMIN (11 R180). -/
def execAmomin (rd rs1 rs2 : BitVec 5) (sc : BitVec 3) (ord asz : BitVec 2) (s : State) : Out :=
  atomic (.amomin rd rs1 rs2 sc ord asz) s 5 rd rs1 rs2 ord asz

/-- AMOMAX (11 R180). -/
def execAmomax (rd rs1 rs2 : BitVec 5) (sc : BitVec 3) (ord asz : BitVec 2) (s : State) : Out :=
  atomic (.amomax rd rs1 rs2 sc ord asz) s 6 rd rs1 rs2 ord asz

/-- AMOMINU (11 R180). -/
def execAmominu (rd rs1 rs2 : BitVec 5) (sc : BitVec 3) (ord asz : BitVec 2) (s : State) : Out :=
  atomic (.amominu rd rs1 rs2 sc ord asz) s 7 rd rs1 rs2 ord asz

/-- AMOMAXU (11 R180). -/
def execAmomaxu (rd rs1 rs2 : BitVec 5) (sc : BitVec 3) (ord asz : BitVec 2) (s : State) : Out :=
  atomic (.amomaxu rd rs1 rs2 sc ord asz) s 8 rd rs1 rs2 ord asz

/-- AMOCAS (11 R180). -/
def execAmocas (rd rs1 rs2 : BitVec 5) (sc : BitVec 3) (ord asz : BitVec 2) (s : State) : Out :=
  atomic (.amocas rd rs1 rs2 sc ord asz) s 9 rd rs1 rs2 ord asz

/-- AMOLD (11 R180). -/
def execAmold (rd rs1 : BitVec 5) (sc : BitVec 3) (ord asz : BitVec 2) (s : State) : Out :=
  atomic (.amold rd rs1 sc ord asz) s 10 rd rs1 0 ord asz

/-- AMOST (11 R180). -/
def execAmost (rs1 rs2 : BitVec 5) (sc : BitVec 3) (ord asz : BitVec 2) (s : State) : Out :=
  atomic (.amost rs1 rs2 sc ord asz) s 11 0 rs1 rs2 ord asz

/-- The atomics, each with its meaning. -/
def atomicOf : Instr → Option (State → Out)
  | .amoswap rd rs1 rs2 sc ord asz => some (execAmoswap rd rs1 rs2 sc ord asz)
  | .amoadd rd rs1 rs2 sc ord asz => some (execAmoadd rd rs1 rs2 sc ord asz)
  | .amoand rd rs1 rs2 sc ord asz => some (execAmoand rd rs1 rs2 sc ord asz)
  | .amoor rd rs1 rs2 sc ord asz => some (execAmoor rd rs1 rs2 sc ord asz)
  | .amoxor rd rs1 rs2 sc ord asz => some (execAmoxor rd rs1 rs2 sc ord asz)
  | .amomin rd rs1 rs2 sc ord asz => some (execAmomin rd rs1 rs2 sc ord asz)
  | .amomax rd rs1 rs2 sc ord asz => some (execAmomax rd rs1 rs2 sc ord asz)
  | .amominu rd rs1 rs2 sc ord asz => some (execAmominu rd rs1 rs2 sc ord asz)
  | .amomaxu rd rs1 rs2 sc ord asz => some (execAmomaxu rd rs1 rs2 sc ord asz)
  | .amocas rd rs1 rs2 sc ord asz => some (execAmocas rd rs1 rs2 sc ord asz)
  | .amold rd rs1 sc ord asz => some (execAmold rd rs1 sc ord asz)
  | .amost rs1 rs2 sc ord asz => some (execAmost rs1 rs2 sc ord asz)
  | _ => none

/-- RELEASE_ATOMIC_RESUME: a waiting atomic executes again (07 R124). -/
def execReleaseAtomicResume (tid : Nat) (s : State) : Out := wakeThread s tid atomicOf

/-! Fences. Accesses of this model are performed when they execute or when their strip commits, in one order, so that a
fence orders what already lies in order (log 8). -/

/-- FENCE.SV: no wait (07 R123); a paired member's earlier events come first (23 R369). -/
def execFenceSv (s : State) : Out :=
  runScalar .fenceSv s (fun a => if pairSettled a then pure (s.setCtx a.ctx.step) else .error .wait)

/-- FENCE.VS: it waits until every block posted before it has ended and committed (07 R123). -/
def execFenceVs (s : State) : Out :=
  runScalar .fenceVs s (fun a =>
    let done := match a.thread with
      | some t => vectorDone t
      | none => true
    if done && pairSettled a then pure (s.setCtx a.ctx.step) else .error .wait)

/-- FENCE.VV: no wait; the next block posted starts only once the accesses of earlier ones are performed (07 R123). -/
def execFenceVv (s : State) : Out :=
  runScalar .fenceVv s (fun a =>
    if pairSettled a then
      let s' := match a.tid with
        | some tid => s.modGroup tid (fun g => { g with fenced := true })
        | none => s
      pure (s'.setCtx a.ctx.step)
    else .error .wait)

/-- FENCE_VS_COMPLETE: a waiting fence executes again. -/
def execFenceVsComplete (tid : Nat) (s : State) : Out :=
  wakeThread s tid (fun i => match i with
    | .fenceSv => some execFenceSv
    | .fenceVs => some execFenceVs
    | .fenceVv => some execFenceVv
    | _ => none)

/-! Barriers. -/

/-- A barrier object (11 R182). -/
structure Barrier where
  arrv : BitVec 64
  phase : BitVec 16
  pend : BitVec 8
  exp : BitVec 8
  deriving DecidableEq, Repr

/-- The fields of sixteen bytes, and whether they are well formed (11 R182). -/
def barrierOf (v : Nat) : Barrier :=
  { arrv := BitVec.ofNat 64 v, phase := BitVec.ofNat 16 (v / 2 ^ 112), pend := BitVec.ofNat 8 (v / 2 ^ 96),
    exp := BitVec.ofNat 8 (v / 2 ^ 64) }

def barrierGood (v : Nat) : Bool :=
  let b := barrierOf v
  let arrived := popcount 64 b.arrv.toNat
  field v 111 104 == 0 && field v 95 72 == 0 && b.exp.toNat ≤ 64 && b.pend.toNat ≤ arrived && arrived ≤ b.exp.toNat

/-- The sixteen bytes of an object. -/
def Barrier.value (b : Barrier) : Nat :=
  b.arrv.toNat + b.exp.toNat * 2 ^ 64 + b.pend.toNat * 2 ^ 96 + b.phase.toNat * 2 ^ 112

/-- The over-arrival fault (11 R183, 23 R348). -/
def overArrival {α : Type} (va f phase cause : Nat) : Except Stop α := raise 10 [va, f, phase, cause]

/-- The form index of the acting thread (21 R331). -/
def Agent.f (a : Agent) : Nat := (a.thread.map Thread.f).getD 0

/-- Reads a barrier object as one atomic access at the bank (11 R182). -/
def readBarrier (s : State) (a : Agent) (va : Nat) : Except Stop (State × Nat × Nat) := do
  if va % 16 ≠ 0 then raise 3 [0, va, 0]
  else do
    needWindow va (.atomic false)
    loadScalar s a va 16 (.atomic false)

/-- An arrival on a well-formed object: the object after it, or its fault (11 R183). -/
def arriveAt (b : Barrier) (va f : Nat) (drop : Bool) : Except Stop Barrier :=
  if b.exp = 0 then overArrival va f b.phase.toNat 1
  else if b.arrv.getLsbD f then overArrival va f b.phase.toNat 0
  else
    let arrv := b.arrv ||| BitVec.ofNat 64 (2 ^ f)
    let pend := if drop then b.pend + 1 else b.pend
    .ok (if popcount 64 arrv.toNat = b.exp.toNat then { arrv := 0, pend := 0, exp := b.exp - pend, phase := b.phase + 1 }
      else { b with arrv := arrv, pend := pend })

/-- ARRIVE and ARRIVE.DROP: rd takes the phase token (11 R183). -/
def arrival (i : Instr) (s : State) (rd rs1 : BitVec 5) (drop : Bool) : Out :=
  runScalar i s (fun a => do
    let va := (a.ctx.rd rs1).toNat
    let (s', pa, v) ← readBarrier s a va
    let b := barrierOf v
    if !barrierGood v then overArrival va a.f b.phase.toNat 2
    else if !pairSettled a then .error .wait
    else do
      let b' ← arriveAt b va a.f drop
      pure ((s'.store pa (leBytes 16 b'.value) false).setCtx (a.ctx.wr rd (w64 b.phase.toNat)).step))

/-- BINIT: one write of the whole granule, which never faults for poison (11 R183). -/
def execBinit (rs1 rs2 : BitVec 5) (s : State) : Out :=
  runScalar (.binit rs1 rs2) s (fun a => do
    let va := (a.ctx.rd rs1).toNat
    let n := (a.ctx.rd rs2).toNat
    if n = 0 || 64 < n then overArrival va a.f 0 3
    else if va % 16 ≠ 0 then raise 3 [0, va, 0]
    else do
      needWindow va .write
      let s' ← storeScalar s a (.binit rs1 rs2) va 16 (n * 2 ^ 64) false
      pure (s'.setCtx a.ctx.step))

/-- ARRIVE (11 R183). -/
def execArrive (rd rs1 : BitVec 5) (s : State) : Out := arrival (.arrive rd rs1) s rd rs1 false

/-- ARRIVE.DROP (11 R183). -/
def execArriveDrop (rd rs1 : BitVec 5) (s : State) : Out := arrival (.arriveDrop rd rs1) s rd rs1 true

/-- BWAIT (11 R184). -/
def execBwait (rd rs1 rs2 : BitVec 5) (s : State) : Out :=
  runScalar (.bwait rd rs1 rs2) s (fun a => do
    let va := (a.ctx.rd rs1).toNat
    let (s', _, v) ← readBarrier s a va
    let b := barrierOf v
    let d := (b.phase - BitVec.ofNat 16 (a.ctx.rd rs2).toNat).toNat
    if !barrierGood v then overArrival va a.f b.phase.toNat 2
    else if !pairSettled a then .error .wait
    else if 1 ≤ d && d ≤ 32767 then pure (s'.setCtx (a.ctx.wr rd (w64 (min d 255))).step)
    else .error .wait)

/-- BWAIT_WAKE: a waiting BWAIT rereads the object (11 R184). An arrival of a paired member waits likewise for its pair. -/
def execBwaitWake (tid : Nat) (s : State) : Out :=
  wakeThread s tid (fun i => match i with
    | .bwait rd rs1 rs2 => some (execBwait rd rs1 rs2)
    | .arrive rd rs1 => some (execArrive rd rs1)
    | .arriveDrop rd rs1 => some (execArriveDrop rd rs1)
    | _ => none)

/-- PHEND: it waits until every block posted before it has committed and no lane of the group, partners included, has an
unacknowledged write element (11 R185). -/
def execPhend (s : State) : Out :=
  runScalar .phend s (fun a =>
    let done := match a.thread with
      | some t => blocksDone t && (match t.group with
        | some g => g.acks.all (fun e => e.2 == 0)
        | none => true)
      | none => true
    if done && pairSettled a then pure (s.setCtx a.ctx.step) else .error .wait)

/-- PHEND_COMPLETE: a waiting PHEND executes again. -/
def execPhendComplete (tid : Nat) (s : State) : Out :=
  wakeThread s tid (fun i => match i with
    | .phend => some execPhend
    | _ => none)

/-- WRITE_ACKNOWLEDGE: a home acknowledges one committed write element of a lane (11 R185). -/
def execWriteAcknowledge (tid lane : Nat) (s : State) : Out :=
  .next (s.modGroup tid (fun g => match tableGet lane g.acks with
    | some n => { g with acks := if n ≤ 1 then tableDel lane g.acks else tablePut lane (n - 1) g.acks }
    | none => g))

end Sys2Proof.Machine
end

