-- ==== Sys2Proof/Machine/Pigeon.lean ====
section
/-! DEFINITION. Pigeonholes: handles, configuration, posts, takes, free-slot returns, freezing and recovery (07 R114 to R116; 11 R186, R187; 23 R344, R375). -/

namespace Sys2Proof.Machine

/-- The number of a pigeonhole: its cluster times 64 plus NUM. -/
def holeNo (cluster num : Nat) : Nat := cluster * 64 + num

/-- The handle of a pigeonhole's number (11 R186). -/
def handleOf (n : Nat) : Nat := n / 64 / 6 * 512 + n / 64 % 6 * 64 + n % 64

/-- A handle of the shadow names the lead's cluster as its own (23 R364). -/
def mapCluster (a : Agent) (cluster : Nat) : Nat :=
  match a.tid, a.thread with
  | some tid, some t => (match t.role with
    | .shadow l => if cluster = clusterOf l then clusterOf tid else cluster
    | _ => cluster)
  | _, _ => cluster

/-- The pigeonhole that a handle names, none for a handle that breaks 11 R186. -/
def readHandle (a : Agent) (h : Word) : Option Nat :=
  let x := h.toNat
  if x / 2048 ≠ 0 || 6 ≤ field x 8 6 then none
  else some (holeNo (mapCluster a (field x 10 9 * 6 + field x 8 6)) (field x 5 0))

/-- A configuration word (11 R186): the remote producer's slot, the base, the depth. -/
structure HoleConfig where
  remote : Option Nat
  base : Nat
  depth : Nat
  deriving DecidableEq, Repr

/-- The configuration of a word for a pigeonhole, none where it breaks 11 R186. -/
def readConfig (n : Nat) (w : Word) : Option HoleConfig :=
  let x := w.toNat
  let rem := bitOf x 63
  let clu := field x 52 51 * 6 + field x 50 48
  if field x 62 53 ≠ 0 || field x 41 32 ≠ 0 || field x 31 8 % 64 ≠ 0 then none
  else if rem && (6 ≤ field x 50 48 || clu == n / 64) then none
  else if !rem && field x 52 42 ≠ 0 then none
  else some { remote := if rem then some (tidOf (field x 52 51) (field x 50 48) (field x 47 45) (field x 44 42)) else none,
              base := field x 31 8, depth := field x 7 0 + 1 }

/-- An illegal-encoding fault of the acting agent's instruction, with its detail code (23 R348, R349). -/
def illegal {α : Type} (a : Agent) (code d2 : Nat) : Except Stop α := raise 1 [code, a.ctx.pc.toNat, d2]

/-- A privilege fault of the acting agent's instruction. -/
def privilege {α : Type} (a : Agent) (code : Nat) : Except Stop α := raise 2 [code, a.ctx.pc.toNat]

/-- The permission fault with CAUSE 7 at a scratchpad offset (11 R187). -/
def entryFault {α : Type} (off : Nat) (k : Access) : Except Stop α := .error (.fault (trFault 7 0 k (windowBase + off) 0))

/-- The scratchpad offset of a slot of a pigeonhole; 0 for one not configured, as 11 R187 has it. -/
def Hole.slotOff (h : Hole) (i : Nat) : Nat := if h.owner.isNone then 0 else h.base + 64 * i

/-- The aperture address of a slot. -/
def slotPa (n : Nat) (h : Hole) (i : Nat) : Nat := aperture (n / 64) (h.base + 64 * i)

/-- A thread of the owner's form on the pigeonhole's cluster (11 R187). -/
def ofForm (n : Nat) (h : Hole) (tid : Nat) (t : Thread) : Bool :=
  match h.owner with
  | some o => o.lnum == t.lnum && o.form == t.form && clusterOf tid == n / 64
  | none => false

/-- Who may post: only the remote producer where one is configured (07 R115). -/
def mayPost (n : Nat) (h : Hole) (tid : Nat) (t : Thread) : Bool :=
  match h.remote with
  | some r => h.owner.isSome && r == tid
  | none => ofForm n h tid t

/-- CNT and its parity bit together are even (07 R116). -/
def parityGood (c : FreeCounter) : Bool := (popcount 9 c.cnt + (if c.parity then 1 else 0)) % 2 == 0

/-- A counter with a new count and its parity. -/
def FreeCounter.withCnt (c : FreeCounter) (n : Nat) : FreeCounter := { c with cnt := n, parity := popcount 9 n % 2 == 1 }

/-- FINJ names this pigeonhole with this KIND, armed (23 R375). -/
def finjHole (s : State) (kind n : Nat) : Bool :=
  let x := s.proctor.finj.toNat
  bitOf x 63 && field x 62 59 == kind && field x 10 0 == handleOf n

/-- The pending injection takes place: ARM clears. -/
def finjDone (s : State) : State :=
  { s with proctor := { s.proctor with finj := w64 (s.proctor.finj.toNat % 2 ^ 63) } }

/-- An injected parity error strikes the counter at its next update (23 R375). -/
def injectParity (s : State) (n : Nat) : State :=
  if finjHole s 5 n then
    let h := s.hole n
    (finjDone s).putHole n { h with inj := true, counter := h.counter.map (fun c => { c with parity := !c.parity }) }
  else s

/-- The pigeonhole freezes: cause 0 gap, 1 parity, with ESEQ and s; one already frozen stays as it is, so that its owner faults
once (07 R116, 23 R344). -/
def freeze (s : State) (n cause eseq sq : Nat) : State :=
  let h := s.hole n
  if h.frz then s else s.putHole n { h with frz := true, cause := some (cause, eseq, sq) }

/-- A post of 64 bytes at TAIL as an engine write, with its counts (07 R115). -/
def performPost (s : State) (n : Nat) (bs : List Byte) : State :=
  let h := s.hole n
  let s := s.store (slotPa n h h.tail) bs true
  s.putHole n { h with tail := (h.tail + 1) % h.depth, count := h.count + 1, ps := h.ps + 1, notify := h.notify + 1 }

/-- What a post comes to now: done, or it waits; a remote producer's counter is decremented, and a parity error found there
freezes the pigeonhole (07 R115, R116). -/
def tryPost (s : State) (n : Nat) (bs : List Byte) : State × Bool :=
  let h := s.hole n
  match h.remote, h.counter with
  | some _, some c =>
    if h.frz || c.cnt = 0 then (s, false)
    else
      let s := injectParity s n
      let h := s.hole n
      (match h.counter with
      | some c =>
        if !parityGood c then (freeze s n 1 c.eseq 0, false)
        else (performPost (s.putHole n { h with counter := some (c.withCnt (c.cnt - 1)) }) n bs, true)
      | none => (s, false))
  | _, _ => if h.count < h.depth then (performPost s n bs, true) else (s, false)

/-- Granules of the entries that a pigeonhole holds become empty (11 R187). -/
def emptyEntries (s : State) (n : Nat) (h : Hole) : State :=
  (List.range h.count).foldl (fun s i =>
    { s with sys := clearGranules s.sys (slotPa n h ((h.head + i) % h.depth)) 64 }) s

/-- The configuration of a pigeonhole by its new owner (11 R187). -/
def configureHole (s : State) (n : Nat) (o : Owner) (c : HoleConfig) : State :=
  let h := s.hole n
  let s := emptyEntries s n h
  let gen := h.gen + 1
  s.putHole n { owner := some o, base := c.base, depth := c.depth, head := 0, tail := 0, count := 0, ps := 0, tk := 0,
                notify := 0, gen := gen, frz := false, remote := c.remote, cause := none, inj := false,
                counter := c.remote.map (fun _ => ({ cnt := 0, parity := false, eseq := 0, gen := gen.toNat } : FreeCounter).withCnt c.depth) }

/-- Sixteen-byte scalar loads of 64 bytes (11 R187). -/
def load64 (s : State) (a : Agent) (va : Nat) : Except Stop (State × List Byte) :=
  (List.range 4).foldlM (fun (acc : State × List Byte) i => do
    let (s', _, v) ← loadScalar acc.1 a (va + 16 * i) 16 .read
    pure (s', acc.2 ++ leBytes 16 v)) (s, [])

/-- Sixteen-byte scalar stores of 64 bytes (11 R187). -/
def store64 (s : State) (a : Agent) (i : Instr) (va : Nat) (bs : List Byte) : Except Stop State :=
  (List.range 4).foldlM (fun (s : State) k => storeScalar s a i (va + 16 * k) 16 (leValue ((bs.drop (16 * k)).take 16)) false) s

/-- The acting thread with its slot; a Proctor core is no thread of any form. -/
def Agent.slot (a : Agent) : Option (Nat × Thread) :=
  match a.tid, a.thread with
  | some tid, some t => some (tid, t)
  | _, _ => none

/-- The instruction is one of a thread that the pigeonhole allows, or a permission fault with CAUSE 7 at the entry it would
reach (11 R187). -/
def needHole (s : State) (a : Agent) (n : Nat) (allow : Nat → Hole → Nat → Thread → Bool) (slot : Hole → Nat) (k : Access) :
    Except Stop Unit :=
  let h := s.hole n
  if (match a.slot with
      | some (tid, t) => allow n h tid t
      | none => false) then .ok ()
  else entryFault (h.slotOff (slot h)) k

/-- QCFG: its checks, the pigeonhole's own state last (11 R425), its wait for a remote producer's core, then everything in one step (11 R167, R187; log 18). -/
def execQcfg (rs1 rs2 : BitVec 5) (s : State) : Out :=
  runScalar (.qcfg rs1 rs2) s (fun a =>
    match readHandle a (a.ctx.rd rs1) with
    | none => illegal a 2 0
    | some n => match readConfig n (a.ctx.rd rs2) with
      | none => illegal a 2 0
      | some c => match a.slot with
        | none => privilege a 32
        | some (tid, t) =>
          let h := s.hole n
          let bad := (List.range c.depth).find? (fun i => c.base + 64 * i < a.acc.tr.spLo || a.acc.tr.spHi < c.base + 64 * i + 64)
          if clusterOf tid ≠ n / 64 then privilege a 32
          else if c.remote.isSome && t.isPaired then privilege a 39
          else match bad with
            | some i => entryFault (c.base + 64 * i) .write
            | none =>
              if h.owner.isSome && h.owner != some (t.owner tid) then privilege a 32
              else if c.remote.isSome && !t.acked then .error .wait
              else
                let s' := configureHole s n (t.owner tid) c
                pure ((s'.setCtx a.ctx.step).modThread tid (fun t => { t with acked := false })))

/-- QCFG_ACK: the remote producer's core acknowledges, and the waiting QCFG completes (11 R187). -/
def execQcfgAck (tid : Nat) (s : State) : Out :=
  match (s.thread tid).bind Thread.waiting with
  | some (.qcfg rs1 rs2) =>
    wakeThread (s.modThread tid (fun t => { t with acked := true })) tid (fun _ => some (execQcfg rs1 rs2))
  | _ => .next s

/-- QPOST (11 R187, 07 R115). A post that finds the counter's parity wrong freezes the pigeonhole and waits. -/
def execQpost (rs1 rs2 : BitVec 5) (s : State) : Out :=
  runScalar (.qpost rs1 rs2) s (fun a =>
    match readHandle a (a.ctx.rd rs1) with
    | none => illegal a 2 0
    | some n => do
      let va := (a.ctx.rd rs2).toNat
      if va % 64 ≠ 0 then raise 3 [0, va, 0]
      else do
        needHole s a n mayPost Hole.tail .write
        let (s', bs) ← load64 s a va
        match tryPost s' n bs with
        | (s', true) => pure (s'.setCtx a.ctx.step)
        | (s', false) => pure (s'.setWaiting (some (.qpost rs1 rs2))))

/-- A take's free slot goes back to the remote producer (07 R115, R116). -/
def returnSlot (s : State) (n : Nat) (h : Hole) : State :=
  if h.remote.isSome then
    let r : SlotReturn := { hole := n, gen := h.gen, seq := h.tk }
    { s with fabric := { s.fabric with returns := s.fabric.returns ++ [r] } }
  else s

/-- QTAKE (11 R187, 07 R115). -/
def execQtake (rd rs1 rs2 : BitVec 5) (s : State) : Out :=
  runScalar (.qtake rd rs1 rs2) s (fun a =>
    match readHandle a (a.ctx.rd rs1) with
    | none => illegal a 2 0
    | some n => do
      let va := (a.ctx.rd rs2).toNat
      if va % 64 ≠ 0 then raise 3 [0, va, 0]
      else do
        needHole s a n ofForm Hole.head .read
        let _ ← translateScalar s a.acc va .write
        let h := s.hole n
        let pa := slotPa n h h.head
        if h.count = 0 then .error .wait
        else
          let s := touchUnits s pa 64 ((a.thread.map Thread.lnum).getD 0)
          match poisonAt s.sys pa 64 with
          | some (p, unit) => .error (.fault { poisonFault (windowBase + h.slotOff h.head + (p - pa)) 0 unit with hit := some (pa, 64) })
          | none => do
            let bs := readBytes s.sys.mem pa 64
            let s' ← store64 { s with sys := clearGranules s.sys pa 64 } a (.qtake rd rs1 rs2) va bs
            let s' := returnSlot s' n h
            let s' := s'.putHole n { h with head := (h.head + 1) % h.depth, count := h.count - 1, tk := h.tk + 1 }
            pure (s'.setCtx (a.ctx.wr rd (w64 (h.tk + 1).toNat)).step))

/-- QTAKE_WAKE: a waiting take executes again (07 R115). -/
def execQtakeWake (tid : Nat) (s : State) : Out :=
  wakeThread s tid (fun i => match i with
    | .qtake rd rs1 rs2 => some (execQtake rd rs1 rs2)
    | _ => none)

/-- QWAITN (11 R187). -/
def execQwaitn (rd rs1 rs2 : BitVec 5) (s : State) : Out :=
  runScalar (.qwaitn rd rs1 rs2) s (fun a =>
    match readHandle a (a.ctx.rd rs1) with
    | none => illegal a 2 0
    | some n => do
      needHole s a n ofForm (fun _ => 0) .read
      let v := (s.hole n).notify
      if v = a.ctx.rd rs2 then .error .wait else pure (s.setCtx (a.ctx.wr rd v).step))

/-- QWAITN_WAKE: a waiting QWAITN executes again (11 R187). -/
def execQwaitnWake (tid : Nat) (s : State) : Out :=
  wakeThread s tid (fun i => match i with
    | .qwaitn rd rs1 rs2 => some (execQwaitn rd rs1 rs2)
    | _ => none)

/-- The status word (07 R114). -/
def holeStatus (h : Hole) : Word :=
  w64 ((if h.frz then 2 ^ 63 else 0) + h.gen.toNat * 2 ^ 41 + h.count * 2 ^ 32 + h.head * 2 ^ 16 + h.tail * 2 ^ 8 + (h.depth - 1))

/-- QSTAT (11 R187). -/
def execQstat (rd rs1 : BitVec 5) (s : State) : Out :=
  runScalar (.qstat rd rs1) s (fun a =>
    match readHandle a (a.ctx.rd rs1) with
    | none => illegal a 2 0
    | some n => do
      needHole s a n ofForm (fun _ => 0) .read
      pure (s.setCtx (a.ctx.wr rd (holeStatus (s.hole n))).step))

/-- The recovery of 07 R116. -/
def resync (h : Hole) : Hole :=
  { h with frz := false, cause := none, inj := false,
           counter := h.counter.map (fun c => { c.withCnt (h.depth - (h.ps - h.tk).toNat) with eseq := h.tk.toNat }) }

/-- QRESYNC, by the owner (11 R187, 07 R116). -/
def execQresync (rs1 : BitVec 5) (s : State) : Out :=
  runScalar (.qresync rs1) s (fun a =>
    match readHandle a (a.ctx.rd rs1) with
    | none => illegal a 2 0
    | some n =>
      let h := s.hole n
      match a.slot with
      | none => privilege a 32
      | some (tid, t) =>
        if h.owner = some (t.owner tid) then pure ((s.putHole n (resync h)).setCtx a.ctx.step) else privilege a 32)

/-- FREE_SLOT_RETURN: a return in flight reaches the remote producer's counter (07 R116); an injected discard loses it (23
R375). -/
def execFreeSlotReturn (index : Nat) (s : State) : Out :=
  match s.fabric.returns[index]? with
  | none => .next s
  | some r =>
    let s := { s with fabric := { s.fabric with returns := s.fabric.returns.eraseIdx index } }
    if finjHole s 4 r.hole then .next ((finjDone s).putHole r.hole { (s.hole r.hole) with inj := true })
    else match (s.hole r.hole).counter with
      | none => .next s
      | some c =>
        let sq := r.seq.toNat
        if r.gen.toNat ≠ c.gen then .next s
        else if sq = c.eseq then
          let s := injectParity s r.hole
          let h := s.hole r.hole
          match h.counter with
          | none => .next s
          | some c =>
            if !parityGood c then .next (freeze s r.hole 1 c.eseq 0)
            else .next (s.putHole r.hole { h with counter := some { c.withCnt (c.cnt + 1) with eseq := (c.eseq + 1) % 65536 } })
        else if (c.eseq + 65536 - sq) % 65536 ≤ 32768 then .next s
        else .next (freeze s r.hole 0 c.eseq sq)

/-- PIGEONHOLE_DESYNC_FAULT: the owner takes the fault of a freeze before its next scalar instruction, once; the fault is
logged and the thread resumes (23 R343, R344; 11 R187). -/
def execPigeonholeDesyncFault (tid : Nat) (s : State) : Out :=
  match s.thread tid with
  | none => .next s
  | some t =>
    match s.fabric.holes.find? (fun e => e.2.owner == some (t.owner tid) && e.2.cause.isSome) with
    | none => .next s
    | some (n, h) =>
      let (cause, eseq, sq) := h.cause.getD (0, 0, 0)
      let s := s.putHole n { h with cause := none }
      let f := { faultOf 11 [handleOf n, cause, eseq, sq] with inj := h.inj }
      .next (deliverFault { s with actor := .thread tid } tid false f)

end Sys2Proof.Machine
end

