-- ==== Sys2Proof/Machine/Satchel.lean ====
section
/-! DEFINITION. The satchel: its shape, its header, the words of its sections and what a resume reads back from them (23 R357 to R363; 21 R332). -/

namespace Sys2Proof.Machine

/-- The accessor of an engine that works in a kernel's context, with no TLB of its own. -/
def engineAccessor (dom asid root : Nat) : Accessor :=
  { tr := { dom := dom, asid := asid, root := root, spLo := 0, spHi := 0 }, core := 192, cluster := 0, strip := false, priv := false }

/-- The thread word (21 R332). -/
def threadWord (form res tid f : Nat) : Nat :=
  form * 2 ^ 40 + res * 2 ^ 24 + tidDie tid * 2 ^ 14 + tidClu tid * 2 ^ 11 + tidCore tid * 2 ^ 8 + f

/-- SPAN (03 R55). -/
def spanWord (tid : Nat) (t : Thread) : Word := w64 (t.pend.toNat * 256 + tidDie tid * 16 + t.att.toNat)

/-- What a satchel's layout depends on: lanes of a part, dies, pending gathers, whether a chain link is set. -/
structure SatchelShape where
  lanes : Nat
  dies : Nat
  gathers : Nat
  chain : Bool
  deriving DecidableEq, Repr

def satchelShape (t : Thread) : SatchelShape :=
  match t.group with
  | none => { lanes := 0, dies := popcount 4 t.att.toNat, gathers := 0, chain := false }
  | some g => { lanes := t.lanes, dies := popcount 4 t.att.toNat, gathers := g.gathers.length,
                chain := g.core.links.any (fun l => l.2.up.isSome || l.2.down.isSome) }

/-- Lengths of sections 0 to 10 (23 R360). -/
def sectionLengths (x : SatchelShape) (hasGroup : Bool) : List Nat :=
  if !hasGroup then 512 :: List.replicate 10 0
  else [512, 512, 4224, 320, 768, 3072 * x.dies, 56 * x.lanes * x.dies, 2048 * x.lanes * x.dies, 4096 * x.lanes * x.dies,
    2048 + 32 * x.lanes * x.dies * x.gathers, if x.chain then 33024 else 0]

/-- Offsets of the sections, in order, and the end of the last, NEED. -/
def sectionOffsets (ls : List Nat) : List Nat × Nat :=
  ls.foldl (fun (acc : List Nat × Nat) n => (acc.1 ++ [acc.2], acc.2 + n)) ([], 256)

/-- The offset of a section of a thread's satchel. -/
def sectionAt (t : Thread) (i : Nat) : Nat := (sectionOffsets (sectionLengths (satchelShape t) t.group.isSome)).1.getD i 0

/-- The satchel's base, and the bytes that SATB gives it (23 R357). -/
def Thread.satchelBase (t : Thread) : Nat := field t.satb.toNat 55 16 * 65536

def Thread.satchelLen (t : Thread) : Nat := field t.satb.toNat 15 0 * 65536

/-- The header's words (23 R359). -/
def headerWords (tid : Nat) (t : Thread) (paired complete : Bool) (written : Nat) : List Nat :=
  let x := satchelShape t
  let ls := sectionLengths x t.group.isSome
  let (os, need) := sectionOffsets ls
  let b := fun (c : Bool) (n : Nat) => if c then 2 ^ n else 0
  let stop := t.group.bind Group.stop
  let flags := b t.isShadow 5 + b paired 4 + b t.loader.isSome 3 + b (stop == some false) 2 + b (stop == some true) 1 + b complete 0
  let lead := match t.role with
    | .shadow l => l
    | _ => tid
  let nrep := ((t.group.map (fun g => g.vreply.length)).getD 0)
  let nblk := ((t.group.map (fun g => g.vblk.length)).getD 0)
  let dirs := ((os.zip ls).map (fun o => o.1 * 2 ^ 32 + o.2)) ++ List.replicate 5 (need * 2 ^ 32)
  [0x53415443 + 1 * 2 ^ 32 + flags * 2 ^ 48, written, need, t.lnum, t.stopCyc.toNat,
    threadWord t.form t.res lead t.f, x.lanes + (x.dies * 2 ^ 16 + nrep * 256 + nblk) * 2 ^ 32, t.satb.toNat]
    ++ dirs ++ List.replicate 8 0

/-! Sections as words: each holds the items of 23 R360 in the order in which that rule lists them, a word each unless said
otherwise, and zero after the last (DESIGN CHOICE, log 13). -/

/-- PC, g1 to g31, FFLAGS, FMODE, SEED. -/
def ctxWords (c : ScalarCtx) : List Nat :=
  [c.pc.toNat] ++ (List.range 31).map (fun i => (c.rd (BitVec.ofNat 5 (i + 1))).toNat)
    ++ [c.fflags.toNat, c.fmode.toNat, c.seed.toNat]

def readCtx (r : Nat → Nat) : ScalarCtx :=
  { pc := w64 (r 0), g := Vector.ofFn (fun i => if i.val = 0 then 0 else w64 (r i.val)), fflags := BitVec.ofNat 7 (r 32),
    fmode := BitVec.ofNat 3 (r 33), seed := w64 (r 34) }

/-- A chain word of a part (17 R282). -/
def memberBits (m : Member) : Nat := m.die * 512 + m.clu * 64 + m.core * 8 + m.slot

def chainWord (p : Nat) (l : Links) : Nat :=
  (if l.up.isSome || l.down.isSome then 2 ^ 63 else 0)
    + (match l.up with | some m => 2 ^ 57 + memberBits m * 2 ^ 46 | none => 0)
    + (match l.down with | some m => 2 ^ 45 + memberBits m * 2 ^ 34 | none => 0) + p * 2 ^ 32

def readMember (x : Nat) : Member := { die := field x 10 9, clu := field x 8 6, core := field x 5 3, slot := field x 2 0 }

def readLinks (x : Nat) : Links :=
  { up := if bitOf x 57 then some (readMember (field x 56 46)) else none,
    down := if bitOf x 45 then some (readMember (field x 44 34)) else none }

/-- Sequencer state: PC, w, lc, VL, VTYPE, MFMT, VSSN, VCP, the grant, the window in three words, tables 16 to 23, the chain word
of each part. -/
def coreWords (c : GroupCore) (vcp : Word) (grant : Nat) (dies : List Nat) : List Nat :=
  [c.pc.toNat] ++ c.w.toList.map BitVec.toNat ++ c.lc.toList.map BitVec.toNat
    ++ [c.vl, c.ty.toNat + c.sg.toNat * 16 + c.am.toNat * 32, c.mfmt.toNat, c.vssn.toNat, vcp.toNat, grant]
    ++ (match c.window with
        | some w => [2 ^ 63 + w.off, w.bins, w.ty + w.sg * 16 + w.op * 256]
        | none => [0, 0, 0])
    ++ (List.range 8).map (fun i => match tableGet (16 + i) c.tables with
        | some (off, size) => 2 ^ 63 + off * 2 ^ 32 + size
        | none => 0)
    ++ (List.range 4).map (fun p => match dies[p]? with
        | some d => ((tableGet d c.links).map (chainWord p)).getD 0
        | none => 0)

/-- The sequencer state that these words give, the rest as the save engine kept it. -/
def readCore (r : Nat → Nat) (dies : List Nat) (c : GroupCore) : GroupCore :=
  { c with
    pc := w64 (r 0), w := Vector.ofFn (fun i => w64 (r (1 + i.val))), lc := Vector.ofFn (fun i => BitVec.ofNat 32 (r (17 + i.val))),
    vl := r 23, ty := BitVec.ofNat 4 (r 24), sg := BitVec.ofNat 1 (r 24 / 16), am := BitVec.ofNat 2 (r 24 / 32), mfmt := w64 (r 25),
    vssn := w64 (r 26),
    window := if bitOf (r 29) 63 then
        some { off := r 29 % 2 ^ 63, bins := r 30, ty := r 31 % 16, sg := r 31 / 16 % 2, op := r 31 / 256 } else none,
    tables := (List.range 8).filterMap (fun i =>
      if bitOf (r (32 + i)) 63 then some (16 + i, (field (r (32 + i)) 62 32, field (r (32 + i)) 31 0)) else none),
    links := (dies.zipIdx.filterMap (fun d =>
      if bitOf (r (40 + d.2)) 63 then some (d.1, readLinks (r (40 + d.2))) else none)) }

/-- The queues: VBLK, eight words an entry, and VREPLY. -/
def queueWords (g : Group) : List Nat :=
  let block := fun (b : VBlock) =>
    [b.addr.toNat] ++ b.ops.toList.map BitVec.toNat ++ [b.fmode.toNat + (if b.fence then 2 ^ 63 else 0), b.seed.toNat, 0]
  ((List.range 64).flatMap (fun i => ((g.vblk[i]?).map block).getD (List.replicate 8 0)))
    ++ (List.range 16).map (fun i => (g.vreply.getD i 0).toNat)

def readBlock (r : Nat → Nat) (i : Nat) : VBlock :=
  { addr := w64 (r (8 * i)), ops := Vector.ofFn (fun j => w64 (r (8 * i + 1 + j.val))), fmode := BitVec.ofNat 3 (r (8 * i + 5)),
    seed := w64 (r (8 * i + 6)), fence := bitOf (r (8 * i + 5)) 63 }

/-- A slot record of one die position: state, image address, cell cost, 32 words of live state, and the run: a flag with SV, SR,
QV and QH, N, the next iteration, P0 to P2, the flags raised. -/
def slotWords (c : GroupCore) (p i : Nat) (sl : Slot) : List Nat :=
  let live := sl.live ++ (((tableGet i c.live).map (fun l => l.getD p [])).getD [])
  let run := match sl.run with
    | some r =>
      let stream := match r.stream with | some v => 2 ^ 8 + v | none => 0
      let post := match r.post with | some (h, gen) => 2 ^ 28 + h * 2 ^ 12 + gen * 2 ^ 32 | none => 0
      [2 ^ 63 + stream + post, r.count, r.next] ++ (List.range 3).map (fun j => (r.params.getD j 0).toNat) ++ [r.flags.toNat]
    | none => []
  let ws := [sl.st, sl.addr, sl.cost] ++ (List.range 32).map (fun j => (live.getD j 0).toNat) ++ run
  ws ++ List.replicate (48 - ws.length) 0

/-- A slot as its record on the first die position gives it, what the record does not hold as the save engine kept it. -/
def readSlot (r : Nat → Nat) (sl : Slot) : Slot :=
  { sl with addr := r 1, cost := r 2, live := sl.live.mapIdx (fun j _ => w64 (r (3 + j))),
            run := sl.run.map (fun x => { x with count := r 36, next := r 37, params := x.params.mapIdx (fun j _ => w64 (r (38 + j))),
                                                 flags := BitVec.ofNat 7 (r 41) }) }

/-- A stream record: the descriptor's eleven words (13 R215), the register with its type, MFMT, P, the pending flag. -/
def streamWords (reg : Nat) (x : Stream) : List Nat :=
  let ext := fun (i : Nat) => x.exts.getD i 0
  [x.base, x.exts.length, ext 0 + ext 1 * 2 ^ 32, ext 2 + ext 3 * 2 ^ 32, ext 4 + ext 5 * 2 ^ 32]
    ++ (List.range 6).map (fun i => keep (x.strs.getD i 0) 64) ++ [2 ^ 63 + reg * 256 + x.sg * 16 + x.ty, x.mfmt.toNat, x.pos, 0, 0]

/-- The record of a pending register. -/
def pendingWords (x : Gather) : List Nat :=
  List.replicate 11 0 ++ [2 ^ 63 + x.reg * 256 + x.sg * 16 + x.ty, x.mfmt.toNat, 0, 1, 0]

def readStream (r : Nat → Nat) (x : Stream) : Stream :=
  { x with base := r 0, exts := x.exts.mapIdx (fun i _ => field (r (2 + i / 2)) (32 * (i % 2) + 31) (32 * (i % 2))),
           strs := x.strs.mapIdx (fun i _ => sext (r (5 + i)) 64), ty := r 11 % 16, sg := r 11 / 16 % 2, mfmt := w64 (r 12), pos := r 13 }

/-- A link-buffer entry: its results, 4 bytes each, then code, L, hop count and consumed flag. -/
def entryWords (e : LinkEntry) : List Nat :=
  (List.range 1024).map (fun i => (e.results.getD (2 * i) 0).toNat + (e.results.getD (2 * i + 1) 0).toNat * 2 ^ 32)
    ++ [e.code, e.lanes, e.hop, if e.consumed then 1 else 0, 0, 0, 0, 0]

def readEntry (r : Nat → Nat) (e : LinkEntry) : LinkEntry :=
  { e with results := e.results.mapIdx (fun i _ => BitVec.ofNat 32 (field (r (i / 2)) (32 * (i % 2) + 31) (32 * (i % 2)))),
           code := r 1024, lanes := r 1025, hop := r 1026, consumed := r 1027 != 0 }

/-- Words laid out from an offset. -/
def wordsAt (off : Nat) (ws : List Nat) : List (Nat × Nat) := ws.mapIdx (fun i w => (off + 8 * i, w))

/-- Section 0 of a satchel. -/
def threadWords (tid : Nat) (t : Thread) : List Nat :=
  let ws := ctxWords t.ctx ++ [(spanWord tid t).toNat]
  ws ++ List.replicate (64 - ws.length) 0

/-- VB and DT of a register on a die (23 R358). -/
def regTag (c : GroupCore) (die v : Nat) : Nat × Bool := (tableGet (die * 64 + v) c.tags).getD (0, false)

/-- Section 3. -/
def tagWords (c : GroupCore) (dies : List Nat) : List Nat :=
  let byte := fun (k : Nat) => match dies[k / 64]? with
    | some d => (regTag c d (k % 64)).1 + (if (regTag c d (k % 64)).2 then 128 else 0)
    | none => 0
  (List.range 32).map (fun i => (List.range 8).foldr (fun j acc => byte (8 * i + j) + 256 * acc) 0)
    ++ [c.ldt.toNat] ++ List.replicate 7 0

/-- Section 4: the set-aside registers of the control thread, then the set-aside sequencer state (19 R309). -/
def holdWords (t : Thread) (dies : List Nat) : List Nat :=
  let ws := match t.loader with
    | some h => ctxWords h.ctx ++ coreWords h.ckpt.core 0 (h.replay.getD h.ckpt.core.vl) dies
    | none => []
  ws ++ List.replicate (96 - ws.length) 0

/-! What a resume reads (23 R363). -/

/-- The bytes of a thread's satchel up to NEED by their offset, page by page; a page that does not translate reads zero. -/
def satchelBytes (s : State) (a : Accessor) (t : Thread) : Memory :=
  let need := (sectionOffsets (sectionLengths (satchelShape t) t.group.isSome)).2
  (List.range ((need + 65535) / 65536)).flatMap (fun i =>
    match translate s a (t.satchelBase + 65536 * i) .read with
    | .ok pa => (cellsWhere s.sys.mem (fun x => pa ≤ x && x < pa + 65536)).map (fun e => (e.1 - pa + 65536 * i, e.2))
    | _ => [])

/-- The word at an index of a section that begins at an offset. -/
def satchelWord (m : Memory) (off i : Nat) : Nat := readNat m (off + 8 * i) 8

/-- The cells of lane registers that satchel bytes of a section give: `cell` names the cell and the bit of a byte, by its offset
in the section, where the byte counts. -/
def satchelCells {w : Nat} (m : Memory) (off len : Nat) (cell : Nat → Option (Nat × Nat)) : Sparse w :=
  m.foldl (fun c e =>
    if off ≤ e.1 && e.1 < off + len then
      match cell (e.1 - off) with
      | some (k, bit) => cellSet c k (cellGet c k ||| BitVec.ofNat w (e.2.toNat * 2 ^ bit))
      | none => c
    else c) []

/-- Tags as section 3 gives them, with DT clear. -/
def readTags (m : Memory) (off : Nat) (dies : List Nat) : Table (Nat × Bool) :=
  dies.zipIdx.flatMap (fun d => (List.range 64).filterMap (fun v =>
    let vb := (readByte m (off + 64 * d.2 + v)).toNat % 8
    if vb = 0 then none else some (d.1 * 64 + v, (vb, false))))

/-- A thread as its satchel gives it, with the cells and slices of its lanes; the rest as the save engine kept it (23 R363;
log 13). -/
def satchelThread (m : Memory) (tid : Nat) (t : Thread) : Thread × LaneCells × Sparse 64 :=
  let at' := sectionAt t
  let word := fun (i : Nat) => satchelWord m (at' i)
  let t' := { t with ctx := readCtx (word 0), pend := BitVec.ofNat 4 (word 0 35 / 256) }
  match t.group with
  | none => (t', { vregs := [], masks := [] }, [])
  | some g =>
    let parts := partsOf tid t
    let dies := parts.map Part.die
    let x := satchelShape t
    let counts := readNat m 52 4
    let tags := readTags m (at' 3) dies
    let bound := g.core.streams.zipIdx
    let core := readCore (word 1) dies { g.core with
      streams := bound.map (fun e => (e.1.1, readStream (satchelWord m (at' 9 + 128 * e.2)) e.1.2)),
      live := g.core.live.map (fun e => (e.1, e.2.mapIdx (fun p l => l.mapIdx (fun j _ =>
        w64 (satchelWord m (at' 5 + 3072 * p + 384 * e.1) (3 + j)))))),
      tags := tags, ldt := 0 }
    let slots := g.slots.map (fun e => (e.1, readSlot (satchelWord m (at' 5 + 384 * e.1)) e.2))
    let buffers := if x.chain then
        (g.buffers.foldl (fun (acc : Table (List LinkEntry) × Nat) b =>
          (acc.1 ++ [(b.1, b.2.mapIdx (fun i e =>
            if acc.2 + i < 4 then readEntry (satchelWord m (at' 10 + 8256 * (acc.2 + i))) e else e))], acc.2 + b.2.length))
          (([], 0) : Table (List LinkEntry) × Nat)).1
      else g.buffers
    let hold := t.loader.map (fun h =>
      { h with ctx := readCtx (word 4), ckpt := { h.ckpt with core := readCore (fun i => word 4 (35 + i)) dies h.ckpt.core } })
    let g' := { g with
      core := core, replay := g.replay.map (fun _ => word 1 28), vblk := (List.range (min 64 (counts % 256))).map (readBlock (word 2)),
      vreply := (List.range (min 16 (counts / 256 % 256))).map (fun i => w64 (word 2 (512 + i))), slots := slots, buffers := buffers }
    let lane := fun (p l : Nat) => (parts[p]?).map (fun q => (q.core, q.base + l))
    let reg := fun (b : Nat) =>
      let p := b / (2048 * x.lanes)
      let v := b / (32 * x.lanes) % 64
      (lane p (b / 32 % x.lanes)).bind (fun k =>
        if b % 32 < 8 * ((tableGet (dies.getD p 0 * 64 + v) tags).getD (0, false)).1 then some (vregKey k.1 v k.2, 8 * (b % 32))
        else none)
    let mask := fun (b : Nat) =>
      (lane (b / (56 * x.lanes)) (b / 8 % x.lanes)).map (fun k => (maskKey k.1 (b / (8 * x.lanes) % 7 + 1) k.2, 8 * (b % 8)))
    let slice := fun (b : Nat) =>
      (lane (b / 4096 / x.lanes) (b / 4096 % x.lanes)).map (fun k => (sliceKey k.1 k.2 (b % 4096 / 8), 8 * (b % 8)))
    ({ t' with group := some g', loader := hold },
      { vregs := satchelCells m (at' 7) (2048 * x.lanes * x.dies) reg, masks := satchelCells m (at' 6) (56 * x.lanes * x.dies) mask },
      satchelCells m (at' 8) (4096 * x.lanes * x.dies) slice)

end Sys2Proof.Machine
end

