-- ==== Sys2Proof/Machine/Sched.lean ====
section
/-! DEFINITION. The timetable units: job cards, acceptance and refusal, edges, placement, admission, reservation, pre-emption requests, exit and the end of forms and kernels (21 R314 to R342; 09 R160, R162; 07 R126). -/

namespace Sys2Proof.Machine

/-! Job cards. -/

/-- The 64-bit word at byte `o` of a card's words. -/
def cardWord (ws : List Nat) (o : Nat) : Nat := ws.getD (o / 8) 0

/-- A footprint region from its two words: base, length, RD, WR (07 R126). -/
def regionOf (w0 w1 : Nat) : Nat × Nat × Bool × Bool := (field w0 55 0, field w1 55 0, bitOf w0 62, bitOf w0 63)

/-- A reserved bit of a region is set (07 R126); cards and descriptors are refused for it even in an unused region (11 R191,
21 R317). -/
def regionReserved (w0 w1 : Nat) : Bool := field w0 61 56 != 0 || field w1 63 56 != 0

/-- A malformed region: one with LEN not 0 (07 R126). -/
def regionBad (w0 w1 : Nat) : Bool :=
  let len := field w1 55 0
  len != 0 && (regionReserved w0 w1 || (!bitOf w0 62 && !bitOf w0 63) || 2 ^ 56 < field w0 55 0 + len)

/-- Two footprints conflict (07 R126). -/
def conflict (xs ys : List (Nat × Nat × Bool × Bool)) : Bool :=
  xs.any (fun x => ys.any (fun y =>
    x.2.1 != 0 && y.2.1 != 0 && x.1 < y.1 + y.2.1 && y.1 < x.1 + x.2.1 && (x.2.2.2 || y.2.2.2)))

/-- The job card in 42 words (21 R316). -/
def cardOf (ws : List Nat) : JobCard :=
  let c := cardWord ws 8
  let nreg := field c 31 28
  let nse := field c 27 26
  let npre := field c 25 23
  { ktab := field (cardWord ws 0) 55 0, nform := field c 63 40, pri := field c 39 38, depf := bitOf c 37, lret := bitOf c 36,
    pdies := field c 35 32, maxres := field c 15 0, splen := field (cardWord ws 16) 16 8, spoff := field (cardWord ws 16) 7 0,
    stk := field (cardWord ws 24) 55 0, stat := field (cardWord ws 32) 55 0,
    args := (List.range 8).map (fun i => w64 (cardWord ws (48 + 8 * i))),
    edges := (List.range nse).map (fun i => (cardWord ws (112 + 16 * i), field (cardWord ws (120 + 16 * i)) 55 0)),
    preloads := (List.range npre).map (fun i =>
      (field (cardWord ws (144 + 16 * i)) 55 0, field (cardWord ws (152 + 16 * i)) 63 32, field (cardWord ws (152 + 16 * i)) 23 0)),
    regions := (List.range nreg).map (fun i => regionOf (cardWord ws (208 + 16 * i)) (cardWord ws (216 + 16 * i))),
    hasReg := nreg != 0 }

/-- DET 1: a reserved bit outside the regions, an entry past its count, or a count or unit field out of range (21 R317). -/
def cardDet1 (ws : List Nat) : Bool :=
  let c := cardWord ws 8
  let nreg := field c 31 28
  let nse := field c 27 26
  let npre := field c 25 23
  let past := fun (base n total : Nat) => (List.range total).any (fun i =>
    n ≤ i && (cardWord ws (base + 16 * i) != 0 || cardWord ws (base + 8 + 16 * i) != 0))
  field (cardWord ws 0) 63 56 != 0 || field c 22 16 != 0 || field (cardWord ws 16) 63 17 != 0
    || field (cardWord ws 24) 63 56 != 0 || field (cardWord ws 32) 63 56 != 0 || cardWord ws 40 != 0
    || (List.range nse).any (fun i => field (cardWord ws (120 + 16 * i)) 63 56 != 0)
    || (List.range npre).any (fun i => field (cardWord ws (144 + 16 * i)) 63 56 != 0 || field (cardWord ws (152 + 16 * i)) 31 24 != 0)
    || 8 < nreg || 2 < nse || 4 < npre
    || past 112 nse 2 || past 144 npre 4 || past 208 nreg 8
    || field c 63 40 == 0 || field c 15 0 == 0 || 256 < field (cardWord ws 16) 16 8
    || 256 < field (cardWord ws 16) 7 0 + field (cardWord ws 16) 16 8

/-- The loader's VLB (09 R162), the stack size of a thread (21 R330). -/
def stackSize (im : Image) (e : KernelEntry) : Nat :=
  let vlb := 4 * im.vlhi
  alignUp (e.framea + (e.frameb + e.spillb) * vlb) 64

/-- The image and entry that KTAB names in a domain's address space: not one whose unloading was asked for (21 R317,
25 R396). -/
def kernelEntryAt (s : State) (dom ktab : Nat) : Option (Nat × Nat × Image × KernelEntry) :=
  s.proctor.images.findSome? (fun e =>
    let im := e.2
    let b := im.base + im.ktab
    if im.dom == dom && im.unloading.isNone && b ≤ ktab && (ktab - b) % 128 == 0 then
      (im.kernels[(ktab - b) / 128]?).map (fun k => (e.1, (ktab - b) / 128, im, k))
    else none)

/-- DET 2: a misaligned field, STAT in the window, no stack where one is needed (21 R317). -/
def cardDet2 (c : JobCard) (size : Nat) : Bool :=
  c.stk % 65536 != 0 || c.stat % 8 != 0 || (c.stat != 0 && windowBase ≤ c.stat) || (c.stk == 0 && size != 0)
    || c.edges.any (fun e => e.2 % 8 != 0)
    || c.preloads.any (fun p => p.1 % 16 != 0 || p.2.1 % 16 != 0 || p.2.2 % 16 != 0)

/-- The microcode feature level of a die. -/
def dieLevel (s : State) (die : Nat) : Nat := if h : die < 4 then (s.proctor.micro[die]).level.toNat else 0

def diePaused (s : State) (die : Nat) : Bool := if h : die < 4 then (s.proctor.micro[die]).upd else false

/-! Placement. -/

/-- The list turned so that its element `k`, counted round, comes first. -/
def turned {α : Type} (k : Nat) (xs : List α) : List α :=
  if xs.isEmpty then [] else let i := k % xs.length; xs.drop i ++ xs.take i

/-- What is taken: slots and blocks by core, scratchpad ranges by cluster, cores that take no form. -/
structure Room where
  slots : List (Nat × Nat)
  blocks : List (Nat × Nat)
  ranges : List (Nat × Nat × Nat)
  cores : List Nat
  deriving DecidableEq, Repr

/-- The slots, blocks and ranges that a placement takes. -/
def seatSlots (x : Seat) : List (Nat × Nat) := (coreOf x.tid, tidSlot x.tid) :: x.partners.map (fun p => (p.core, p.slot))

def seatBlocks (x : Seat) : List (Nat × Nat) :=
  (List.range x.nblk).map (fun i => (coreOf x.tid, x.block0 + i))
    ++ x.partners.flatMap (fun p => (List.range p.nblk).map (fun i => (p.core, p.block0 + i)))

def Placement.slots (p : Placement) : List (Nat × Nat) := (p.seats ++ p.shadowSeats).flatMap seatSlots

def Placement.blocks (p : Placement) : List (Nat × Nat) := (p.seats ++ p.shadowSeats).flatMap seatBlocks

def Placement.ranges (p : Placement) (c : JobCard) : List (Nat × Nat × Nat) :=
  if c.splen = 0 then [] else (p.clusters ++ p.shadow).map (fun cl => (cl, c.spoff, c.spoff + c.splen))

/-- The number of the form that a kernel's scan takes next is `form`; a reservation of that kernel for another form stands before
it, and another kernel's where it was made earlier, or in the same scan by the kernel that comes first; before a form that
reserves nothing, every one (21 R336). -/
def reservedAhead (s : State) (lnum form other : Nat) (o : Kernel) : Bool :=
  if other = lnum then o.reservedFor != form
  else match (s.kernel lnum).bind (fun k => if k.reserved.isSome && k.reservedFor == form then some k.reservedAt else none) with
    | none => true
    | some t => o.reservedAt < t || (o.reservedAt == t && other < lnum)

/-- Everything taken now, with what is reserved ahead of a form of `lnum` (21 R327, R335, R336; 23 R374). -/
def roomNow (s : State) (lnum form : Nat) : Room :=
  let held := s.threads.flatMap (fun e => (coreOf e.1, tidSlot e.1) :: e.2.partners.map (fun p => (p.core, p.slot)))
  let forms := s.sched.kernels.flatMap (fun e => e.2.forms.map (fun f => (e.2.card, f.2)))
  let preloading := forms.flatMap (fun f => if f.2.status = .preloading then f.2.place.slots else [])
  let reserved := s.sched.kernels.filterMap (fun e =>
    if reservedAhead s lnum form e.1 e.2 then e.2.reserved.map (fun p => (e.2.card, p)) else none)
  let blocks := s.cores.flatMap (fun e =>
    (positions 8 (fun b => chartOwner e.2.cur b != 15 || chartOwner e.2.nxt b != 15)).map (fun b => (e.1, b)))
  { slots := held ++ preloading ++ reserved.flatMap (fun p => p.2.slots),
    blocks := blocks ++ reserved.flatMap (fun p => p.2.blocks),
    ranges := forms.flatMap (fun f => f.2.place.ranges f.1) ++ reserved.flatMap (fun p => p.2.ranges p.1),
    cores := s.cores.filterMap (fun e => if e.2.retired || e.2.retiring then some e.1 else none) }

def Room.empty : Room := { slots := [], blocks := [], ranges := [], cores := [] }

/-- A core's slot, a run of its blocks, and a range of a cluster are free. A form that stopped on a retiring core resumes there
(23 R374), so that only a new placement asks whether the core takes forms (`spots`, `newPlace`). -/
def Room.slotFree (r : Room) (core slot : Nat) : Bool := !r.slots.contains (core, slot)

def Room.runFree (r : Room) (core b n : Nat) : Bool :=
  b + n ≤ 8 && (List.range n).all (fun i => !r.blocks.contains (core, b + i))

def Room.rangeFree (r : Room) (cluster lo hi : Nat) : Bool :=
  lo == hi || r.ranges.all (fun x => x.1 != cluster || x.2.2 ≤ lo || hi ≤ x.2.1)

def Room.take (r : Room) (core slot b n : Nat) : Room :=
  { r with slots := (core, slot) :: r.slots, blocks := (List.range n).map (fun i => (core, b + i)) ++ r.blocks }

/-- Where a thread of n blocks can sit on clusters that all take the same core, slot and block numbers. -/
def spots (r : Room) (clusters : List Nat) (n : Nat) : List (Nat × Nat) :=
  (List.range 8).flatMap (fun k =>
    let bs := if n = 0 then [0] else List.range (9 - n)
    (bs.filter (fun b => clusters.all (fun cl => !r.cores.contains (cl * 8 + k) && r.runFree (cl * 8 + k) b n))).map
      (fun b => (k, b)))

/-- Seats every thread of the list, each given by its position and blocks, or fails (21 R327); `pick` chooses among what
fits. The result gives core, slot, first block and blocks of each. -/
def seatAll (pick : Nat → Nat) (clusters : List Nat) : List (Nat × Nat) → Room → Option (List (Nat × Nat × Nat × Nat) × Room)
  | [], r => some ([], r)
  | (i, n) :: rest, r =>
    (turned (pick i) (spots r clusters n)).findSome? (fun kb =>
      let free := positions 8 (fun sl => clusters.all (fun cl => r.slotFree (cl * 8 + kb.1) sl))
      match turned (pick (i + 64)) free with
      | [] => none
      | sl :: _ =>
        let r' := clusters.foldl (fun r cl => r.take (cl * 8 + kb.1) sl kb.2 n) r
        (seatAll pick clusters rest r').map (fun o => ((kb.1, sl, kb.2, n) :: o.1, o.2)))

/-- The threads of an entry with their blocks. -/
def entryThreads (e : KernelEntry) : List (Nat × Nat) := (List.range e.threads).map (fun i => (i, e.seat.getD i 0))

/-- Partner seats of one die for the threads with lanes: by position of the thread. -/
def partnerSeats (pick : Nat → Nat) (c : JobCard) (e : KernelEntry) (paired : Bool) (r : Room) (d : Nat) :
    Option (List Nat × List (Nat × Nat × Nat × Nat × Nat)) :=
  let laned := (entryThreads e).filter (fun t => t.2 != 0)
  let ok := fun cl => r.rangeFree cl c.spoff (c.spoff + c.splen)
  let mine := (turned (pick 200) ((List.range 6).map (fun c => 6 * d + c))).filter ok
  mine.findSome? (fun cl =>
    let groups := if paired then (mine.filter (fun x => x != cl)).map (fun sh => [cl, sh]) else [[cl]]
    groups.findSome? (fun cls =>
      (seatAll pick cls laned r).map (fun o =>
        (cls, (laned.zip o.1).map (fun x => (x.1.1, x.2.1, x.2.2.1, x.2.2.2.1, x.2.2.2.2))))))

/-- A placement of a form that fits, or none (21 R327, 23 R364). -/
def findPlacement (pick : Nat → Nat) (c : JobCard) (e : KernelEntry) (die : Nat) (paired : Bool) (r : Room) : Option Placement :=
  let ok := fun cl => r.rangeFree cl c.spoff (c.spoff + c.splen)
  let mine := (turned (pick 128) ((List.range 6).map (fun k => 6 * die + k))).filter ok
  let pairsOf := fun cl => if paired then (mine.filter (fun x => x != cl)).map (fun sh => [cl, sh]) else [[cl]]
  let home := (mine.flatMap pairsOf).findSome? (fun cls =>
    (seatAll pick cls (entryThreads e) r).map (fun o => (cls, o.1)))
  let parts := (positions 4 (bitOf c.pdies)).map (fun d => (d, partnerSeats pick c e paired r d))
  if parts.any (fun p => p.2.isNone) then none
  else home.map (fun h =>
    let side := fun (j : Nat) =>
      let cl := h.1.getD j 0
      (h.2.zipIdx).map (fun (x : (Nat × Nat × Nat × Nat) × Nat) =>
        let ps := parts.filterMap (fun p => p.2.bind (fun o =>
          (o.2.find? (fun y => y.1 == x.2)).map (fun y =>
            ({ die := p.1, core := o.1.getD j 0 * 8 + y.2.1, slot := y.2.2.1, block0 := y.2.2.2.1, nblk := y.2.2.2.2 } : Partner))))
        ({ tid := (cl * 8 + x.1.1) * 8 + x.1.2.1, block0 := x.1.2.2.1, nblk := x.1.2.2.2, partners := ps } : Seat))
    let clusters := fun (j : Nat) => h.1.getD j 0 :: parts.filterMap (fun p => p.2.map (fun o => o.1.getD j 0))
    { clusters := clusters 0, seats := side 0, shadow := if paired then clusters 1 else [],
      shadowSeats := if paired then side 1 else [] })

/-- The free choice of a placement for a kernel's form (log 10). -/
def pickFor (s : State) (lnum form : Nat) : Nat → Nat := Config.placementChoice s.tick lnum form

/-! Checks of a card. -/

/-- DET 4 (21 R317): no die reaches the image's level, or partners are asked for and the accepting die does not. -/
def cardDet4 (s : State) (c : JobCard) (im : Image) (unit : Nat) : Bool :=
  (List.range 4).all (fun d => dieLevel s d < im.level) || (c.pdies != 0 && dieLevel s unit < im.level)

/-- Avail at W = 32 of n parts of some lanes (03 R52, 09 R160). -/
def avail32 (blocks parts : Nat) : Nat := 32 * blocks * 8 * parts

/-- DET 5 (21 R317): a seating outside VLLO to VLHI, a form that fits no empty cluster, a preload outside the range. -/
def cardDet5 (c : JobCard) (im : Image) (e : KernelEntry) (unit : Nat) (paired : Bool) : Bool :=
  let n := 1 + popcount 4 c.pdies
  e.seat.any (fun b => b != 0 && (List.range n).any (fun i =>
      let a := avail32 b (i + 1)
      a < im.vllo || im.vlhi < a))
    || (findPlacement (fun _ => 0) { c with pdies := c.pdies % 16 - (if bitOf c.pdies unit then 2 ^ unit else 0) } e unit paired
        .empty).isNone
    || c.preloads.any (fun p => p.2.1 != 0 && (p.2.2 < c.spoff * 65536 || (c.spoff + c.splen) * 65536 < p.2.2 + p.2.1))

/-- DET 7 (21 R317): stream edges that name no earlier kernel of the address space, or one producer twice. -/
def cardDet7 (s : State) (c : JobCard) (dom asid : Nat) : Bool :=
  c.edges.any (fun e => e.1 == 0 || s.sched.nextLaunch ≤ e.1 || (match s.kernel e.1 with
      | some k => k.dom != dom || k.asid != asid
      | none => true))
    || (match c.edges with
        | [x, y] => x.1 == y.1
        | _ => false)

/-- DET 8 (21 R317). -/
def cardDet8 (c : JobCard) (e : KernelEntry) (unit : Nat) : Bool :=
  bitOf c.pdies unit || (c.pdies != 0 && e.seat.all (fun b => b == 0)) || (c.pdies != 0 && c.lret)

/-- The lowest DET for which a unit refuses a card, 0 where it accepts it (21 R317). -/
def cardDet (s : State) (ws : List Nat) (unit dom asid : Nat) (paired : Bool) : Nat :=
  let c := cardOf ws
  let found := kernelEntryAt s dom c.ktab
  let size := (found.map (fun f => stackSize f.2.2.1 f.2.2.2)).getD 0
  let regBad := (List.range (field (cardWord ws 8) 31 28)).any (fun i =>
    regionBad (cardWord ws (208 + 16 * i)) (cardWord ws (216 + 16 * i))
      || regionReserved (cardWord ws (208 + 16 * i)) (cardWord ws (216 + 16 * i)))
  if cardDet1 ws then 1
  else if cardDet2 c size then 2
  else match found with
    | none => 3
    | some (_, _, im, e) =>
      if cardDet4 s c im unit then 4
      else if cardDet5 c im e unit paired then 5
      else if regBad then 6
      else if cardDet7 s c dom asid then 7
      else if cardDet8 c e unit then 8
      else 0

/-- The status word (21 R319). -/
def statusWord (cause det fdone : Nat) : Word :=
  w64 (2 ^ 63 + (if cause = 0 then 0 else 2 ^ 62) + cause * 2 ^ 56 + det * 2 ^ 48 + fdone % 2 ^ 48)

/-- A status word written at a physical address: nothing at a node without a route (25 R388), the RW fields of a device
register, where it names one (25 R379). -/
def storeStatus (s : State) (priv : Bool) (pa lnum : Nat) (w : Word) (fill : Bool) : State :=
  match physKind pa, lostNode s pa with
  | .device off, _ => if !priv && 0x40000000 ≤ off && off < 0x40000100 then s else (writeDevice s off w).getD s
  | _, some n => lostRoute s n lnum true
  | _, none => (touchUnits s pa 8 lnum).store pa (leBytes 8 w.toNat) fill

/-- Writes the status word where STAT is nonzero and can be translated, as one atomic write (21 R317, R319). -/
def writeStatus (s : State) (dom asid root stat : Nat) (w : Word) : State :=
  if stat = 0 then s
  else match translate s (engineAccessor dom asid root) stat .write with
    | .ok pa => storeStatus s false pa 0 w false
    | .poison ea => logWalk s ea 0
    | .bad _ _ => s

/-- The kernels of an address space that are not done and whose footprints conflict (21 R320), but for those a stream edge
replaces (R325). -/
def edgesOf (s : State) (c : JobCard) (dom asid : Nat) : List Nat :=
  s.sched.kernels.filterMap (fun e =>
    let k := e.2
    if k.done.isNone && k.dom == dom && k.asid == asid && !(c.edges.any (fun x => x.1 == e.1))
      && conflict k.card.regions c.regions then some e.1 else none)

/-- A unit checks a card and refuses it, or accepts it under the next launch number (21 R315 to R320): the state, the
launch number or 0, and the DET of a refusal. `floor` is the launching kernel's base priority; `moves` lets the unit move
the kernel to a die whose level suffices (R318). -/
def submitCard (s : State) (ws : List Nat) (unit dom asid root floor : Nat) (moves paired : Bool) (journal : Option Nat) :
    State × Nat × Nat :=
  let c := cardOf ws
  let det := cardDet s ws unit dom asid paired
  if det ≠ 0 then (writeStatus s dom asid root c.stat (statusWord 1 det 0), 0, det)
  else match kernelEntryAt s dom c.ktab with
    | none => (s, 0, 3)
    | some (h, kidx, im, _) =>
      let unit := if moves && dieLevel s unit < im.level then
          ((List.range 4).find? (fun d => im.level ≤ dieLevel s d)).getD unit
        else unit
      let n := s.sched.nextLaunch
      let now := (s.cycle unit).toNat
      let k : Kernel :=
        { card := c, image := h, kidx := kidx, dom := dom, asid := asid, root := root, unit := unit,
          prio := max c.pri floor, since := (now : Int), acceptedAt := now, edges := edgesOf s c dom asid, streams := c.edges,
          nextForm := 0, forms := [], fdone := 0, ended := none, done := none, paired := paired, aged := 0, reserved := none, reservedAt := 0,
          reservedFor := 0, journal := journal, stopOrder := 0 }
      ({ s with sched := { s.sched with kernels := tablePut n k s.sched.kernels, nextLaunch := n + 1, rescan := true } }, n, 0)

/-! Admission. -/

/-- A lane group as a form starts with it (21 R331). -/
def Group.start (block0 nblk : Nat) : Group :=
  { core := { pc := 0, w := Vector.replicate 16 0, lc := Vector.replicate 6 0, vl := 0, ty := 0, sg := 0, am := 0, mfmt := 0,
              vssn := 0, frag := BitVec.allOnes 65536, pending := [], streams := [], gread := [], gmark := [], window := none, tables := [],
              links := [], live := [], tags := [], ldt := 0 },
    running := false, block := none, vblk := [], vreply := [], strip := none, replay := none, waiting := none,
    faulted := false, gathers := [], held := [], runData := [], slots := [], queue := [], buffers := [], outgoing := [], leaving := [],
    acks := [], notifies := [], posts := [], issues := [], committing := false, fenced := false, closed := [], redo := [], mismatches := 0, emptyAgain := [], poisoned := false,
    recess := false, quiesce := false, stopping := false, stop := none, reopen := false, block0 := block0, nblk := nblk }

/-- A thread of a newly admitted form (21 R331). -/
def startThread (k : Kernel) (lnum form res f : Nat) (im : Image) (e : KernelEntry) (seat : Seat) (word : Nat)
    (role : PairRole) : Thread :=
  let size := stackSize im e
  let arg := fun (i : Nat) => k.card.args.getD i 0
  let g : List Word := [0, 0, w64 (k.card.stk + (res * e.threads + f) * size + size), w64 word]
    ++ (List.range 8).map arg ++ List.replicate 20 0
  { ctx := { pc := e.entry + w64 im.base, g := Vector.ofFn (fun i => g.getD i.val 0), fflags := 0, fmode := 0, seed := 0 },
    trbase := w64 (k.dom * 2 ^ 58 + k.root / 65536 * 65536 + k.asid),
    satb := w64 ((Config.satchelFor role.isShadow lnum form f).toNat % 2 ^ 56), pend := 0, att := BitVec.ofNat 4 (2 ^ tidDie seat.tid),
    lnum := lnum, form := form, res := res, f := f, waiting := none, acked := false, faulted := false, poisoned := false,
    stopped := false, role := role, events := [], eventNo := 1,
    group := if seat.nblk = 0 then none else some (Group.start seat.block0 seat.nblk),
    partners := seat.partners, partnerLanes := seat.nblk, loader := none, lastSave := none, stopCyc := 0 }

/-- CUR and NEXT of a run of blocks name a slot (21 R328). -/
def giveBlocks (s : State) (core slot b n : Nat) : State :=
  let c := (List.range n).foldl (fun (c : Core) i =>
    { c with cur := chartSet c.cur (b + i) slot, nxt := chartSet c.nxt (b + i) slot }) (s.core core)
  s.putCore core c

/-- CUR and NEXT of one block as they were at a stop (21 R335). -/
def giveSeat (s : State) (b : BlockSeat) : State :=
  let c := s.core b.core
  s.putCore b.core { c with cur := chartSet c.cur b.block b.cur, nxt := chartSet c.nxt b.block b.nxt }

/-- A scratchpad range reads zero and empty (07 R113). -/
def clearRange (s : State) (cluster lo hi : Nat) : State :=
  let a := aperture cluster 0 + lo
  let b := aperture cluster 0 + hi
  if hi ≤ lo then s
  else { s with sys := { s.sys with mem := cellsWhere s.sys.mem (fun x => x < a || b ≤ x),
                                    granules := cellsWhere s.sys.granules (fun g => g < a / 16 || b / 16 ≤ g) } }

/-- The parts that a seat's lanes and its partners' lanes form. -/
def seatParts (x : Seat) : List Part :=
  partAt (coreOf x.tid) (tidSlot x.tid) x.block0 x.nblk :: x.partners.map (fun p => partAt p.core p.slot p.block0 p.nblk)

/-- The blocks of a placement are written in LSEAT, its lanes and scratchpad ranges cleared (21 R328, R331). -/
def takePlacement (s : State) (c : JobCard) (p : Placement) : State :=
  let s := (p.seats ++ p.shadowSeats).foldl (fun s x =>
    let s := giveBlocks s (coreOf x.tid) (tidSlot x.tid) x.block0 x.nblk
    let s := x.partners.foldl (fun s y => giveBlocks s y.core y.slot y.block0 y.nblk) s
    zeroLanes s (seatParts x)) s
  (p.clusters ++ p.shadow).foldl (fun s cl => clearRange s cl (c.spoff * 65536) ((c.spoff + c.splen) * 65536)) s

/-- The threads of a form are seated and start (21 R331, 23 R364). -/
def seatForm (s : State) (lnum : Nat) (k : Kernel) (f : Form) (im : Image) (e : KernelEntry) : State :=
  let s := (f.place.seats.zipIdx).foldl (fun s x =>
    let word := threadWord f.no f.res x.1.tid x.2
    let sh := f.place.shadowSeats[x.2]?
    let role := match sh with
      | some y => PairRole.lead y.tid
      | none => PairRole.solo
    let s := s.putThread x.1.tid (startThread k lnum f.no f.res x.2 im e x.1 word role)
    match sh with
    | some y => s.putThread y.tid (startThread k lnum f.no f.res x.2 im e y word (.shadow x.1.tid))
    | none => s) s
  s.modKernel lnum (fun k => { k with forms := tableMod f.no (fun f => { f with status := .resident }) k.forms })

/-- The placement that a kernel reserves, with the form for which it does (21 R336). -/
def Kernel.reservation (k : Kernel) : Option (Nat × Placement) := k.reserved.map (fun p => (k.reservedFor, p))

/-- The lowest free residency index (21 R330). -/
def freeRes (k : Kernel) : Nat :=
  ((List.range (k.forms.length + 1)).find? (fun r => k.forms.all (fun f => f.2.res != r))).getD 0

/-- A LAUNCH is running from the admission of its first form (25 R397). -/
def markRunning (s : State) (k : Kernel) : State :=
  match k.journal with
  | none => s
  | some n => { s with host := { s.host with journal := tableMod n (fun e => { e with state := 3 }) s.host.journal } }

/-- A journal entry reaches a final state, signalled where NTF is set (25 R393, R397, R398). -/
def finishEntry (s : State) (seq state det : Nat) (result : Option Word) : State :=
  match tableGet seq s.host.journal with
  | none => s
  | some e =>
    let e := { e with state := state, det := det, result := result.getD e.result, tend := s.cycle 4 }
    let s := { s with host := { s.host with journal := tablePut seq e s.host.journal } }
    if e.cmd.flg.getLsbD 0 then s.signal 0 else s

/-- The final state of a LAUNCH: done with CAUSE 0, cancelled with CAUSE 5, failed otherwise, DET the CAUSE (25 R397). -/
def finishLaunch (s : State) (k : Kernel) (cause : Nat) : State :=
  match k.journal with
  | none => s
  | some n => if cause = 0 then finishEntry s n 4 0 none else if cause = 5 then finishEntry s n 6 0 none else finishEntry s n 5 cause none

/-- Admits the next new form of a kernel at a placement (21 R328 to R333): it preloads first where the card asks. -/
def admitForm (s : State) (lnum : Nat) (k : Kernel) (p : Placement) : State :=
  match s.image k.image with
  | none => s
  | some im => match im.kernels[k.kidx]? with
    | none => s
    | some e =>
      let f : Form := { no := k.nextForm, res := freeRes k, status := .preloading, place := p, since := s.tick, stopAt := 0, chart := [],
                        saved := [], order := 0, refused := false, short := false, needs := none, moveTo := none }
      let s := s.modKernel lnum (fun k => { k with
        nextForm := k.nextForm + 1, forms := tablePut f.no f k.forms, since := ((s.cycle k.unit).toNat : Int), aged := 0,
        reserved := k.reservation.bind (fun x => if x.1 = f.no then none else some x.2) })
      let s := takePlacement (markRunning s k) k.card p
      if k.card.preloads.isEmpty then seatForm s lnum k f im e else s

/-! Resuming: the satchel's header is checked (23 R363). -/

/-- What a stopped form's thread goes on with: its state as its satchel gives it, every wait started again (11 R167),
user code continuing where it stopped; a group that stopped after VAMO or VTBLLD opens its strip (23 R354, R363). -/
def resumedThread (s : State) (sv : SavedThread) (t : Thread) : Thread :=
  { t with stopped := false, waiting := none,
           group := t.group.map (fun g =>
             let ck : Checkpoint := { core := g.core, cells := laneCells s.lanes (partsOf sv.tid t) }
             let g := { g with
               stopping := false, stop := none, recess := false, quiesce := false, waiting := none, reopen := false,
               slots := g.slots.map (fun e => (e.1, if e.2.st = 0 then e.2 else { e.2 with st := 1, reload := true })) }
             if (t.group.map Group.reopen).getD false then
               { g with strip := some { ckpt := ck, effects := [], written := [], flags := 0, k := 0,
                                        grant := g.core.vl, setvl := false } }
             else g) }

/-- Why a satchel is refused at resume, as D0 of 23 R426 has it: 1 a wrong MAGIC, 2 a wrong VER, 0 COMPLETE not set or no
header to read; and the PC it holds (23 R359, R363). -/
def satchelRefusal (s : State) (k : Kernel) (t : Thread) : Option (Nat × Word) :=
  match translate s (engineAccessor k.dom k.asid k.root) t.satchelBase .read with
  | .ok pa =>
    let pc := w64 (readNat s.sys.mem (pa + 256) 8)
    if readNat s.sys.mem pa 4 ≠ 0x53415443 then some (1, 0)
    else if readNat s.sys.mem (pa + 4) 2 ≠ 1 then some (2, pc)
    else if bitOf (readNat s.sys.mem (pa + 6) 2) 0 then none
    else some (0, pc)
  | _ => some (0, 0)

/-! The move of a form to another die (21 R339). -/

/-- The same slot, cluster or cell key on another die. -/
def moveTid (d tid : Nat) : Nat := tid % 384 + 384 * d

def moveCluster (d cl : Nat) : Nat := cl % 6 + 6 * d

def moveCells {w : Nat} (d size : Nat) (m : Sparse w) : Sparse w := m.map (fun e => (e.1 % (48 * size) + 48 * size * d, e.2))

/-- The same placement on another die; a partner reserved on that die is given up (21 R339; log 34). -/
def movePlace (d : Nat) (p : Placement) : Placement :=
  let seat := fun (x : Seat) => { x with tid := moveTid d x.tid, partners := x.partners.filter (fun y => y.die != d) }
  { clusters := p.clusters.map (moveCluster d), seats := p.seats.map seat, shadow := p.shadow.map (moveCluster d),
    shadowSeats := p.shadowSeats.map seat }

def moveLanes (d : Nat) (c : LaneCells) : LaneCells :=
  { vregs := moveCells d 16384 c.vregs, masks := moveCells d 2048 c.masks }

def moveCore (d : Nat) (c : GroupCore) : GroupCore := { c with tags := c.tags.map (fun e => (e.1 % 64 + 64 * d, e.2)) }

/-- What the save engine keeps of a thread, as it goes on on another die. -/
def moveSaved (d : Nat) (x : SavedThread) : SavedThread :=
  let hold := fun (h : LoaderHold) => { h with ckpt := { core := moveCore d h.ckpt.core, cells := moveLanes d h.ckpt.cells } }
  let role := match x.thread.role with
    | .solo => PairRole.solo
    | .lead t => .lead (moveTid d t)
    | .shadow t => .shadow (moveTid d t)
  let group := x.thread.group.map (fun g =>
    { g with core := moveCore d g.core, acks := g.acks.map (fun e => (e.1 % (48 * 256) + 48 * 256 * d, e.2)) })
  { tid := moveTid d x.tid,
    thread := { x.thread with
      att := BitVec.ofNat 4 (2 ^ d), partners := x.thread.partners.filter (fun y => y.die != d), role := role, group := group, loader := x.thread.loader.map hold } }

/-- LSEAT of a block on another die. -/
def BlockSeat.moved (d : Nat) (b : BlockSeat) : BlockSeat := { b with core := b.core % 48 + 48 * d }

/-- A form on the die to which it moves. -/
def movedForm (f : Form) : Form :=
  match f.moveTo with
  | none => f
  | some d => { f with place := movePlace d f.place, chart := f.chart.map (BlockSeat.moved d), saved := f.saved.map (moveSaved d), moveTo := none }

/-- A scratchpad range is copied to the same range of another cluster, bytes and granule states (21 R339). -/
def copyRange (s : State) (lo hi : Nat) (c : Nat × Nat) : State :=
  let a := aperture c.1 0
  let b := aperture c.2 0
  let s := clearRange s c.2 lo hi
  let bytes := (cellsWhere s.sys.mem (fun x => a + lo ≤ x && x < a + hi)).map (fun e => (e.1 - a + b, e.2))
  let marks := (cellsWhere s.sys.granules (fun x => (a + lo) / 16 ≤ x && x < (a + hi) / 16)).map (fun e => (e.1 - a / 16 + b / 16, e.2))
  { s with sys := { s.sys with mem := cellsJoin s.sys.mem bytes, granules := cellsJoin s.sys.granules marks } }

/-- The scratchpad ranges of a form that moves come with it. -/
def carryRanges (s : State) (k : Kernel) (f : Form) : State :=
  let p := (movedForm f).place
  ((f.place.clusters ++ f.place.shadow).zip (p.clusters ++ p.shadow)).foldl
    (fun s c => if c.1 = c.2 then s else copyRange s (k.card.spoff * 65536) ((k.card.spoff + k.card.splen) * 65536) c) s

/-- A stopped form resumes where it was (21 R335, 23 R363), or on the die to which it moves (21 R339); a satchel refused raises machine check 0x86 and the form stays
stopped. -/
def resumeForm (s : State) (lnum : Nat) (k : Kernel) (f : Form) : State × Bool :=
  match f.saved.findSome? (fun sv => (satchelRefusal s k sv.thread).map (fun r => (sv, r))) with
  | some (sv, code, pc) =>
    let s := s.modKernel lnum (fun k => { k with forms := tableMod f.no (fun f => { f with refused := true }) k.forms })
    (s.machineCheck 0x86 false sv.thread.isShadow (some sv.tid) pc 0 0 lnum
      [w64 code, w64 sv.thread.satchelBase] false, false)
  | none =>
    let s := carryRanges s k f
    let f := movedForm f
    let s := f.chart.foldl giveSeat s
    let s := f.saved.foldl (fun s sv =>
      let parts := partsOf sv.tid sv.thread
      let bytes := satchelBytes s (engineAccessor k.dom k.asid k.root) sv.thread
      let (t, cells, slices) := satchelThread bytes sv.tid sv.thread
      let s := { s with lanes := putSliceCells (putLaneCells s.lanes parts cells) parts slices }
      s.putThread sv.tid (resumedThread s sv t)) s
    (s.modKernel lnum (fun k => { k with
      forms := tablePut f.no { f with status := .resident, saved := [], chart := [], since := s.tick } k.forms,
      since := ((s.cycle k.unit).toNat : Int), aged := 0,
      reserved := k.reservation.bind (fun x => if x.1 = f.no then none else some x.2) }), true)

/-! The scan. -/

/-- Forms of a kernel that are resident or stopped, as MAXRES counts them (21 R334). -/
def formsHeld (k : Kernel) : Nat := k.forms.length

/-- The next form of a kernel: its stopped forms in the order they stopped, then the lowest never admitted (21 R334). -/
inductive NextForm where
  | stopped (f : Form)
  | fresh
  | none
  deriving DecidableEq, Repr

def nextFormOf (k : Kernel) : NextForm :=
  let stopped := k.forms.filterMap (fun e => if e.2.status = .stopped && !e.2.refused && e.2.needs.isNone then some e.2 else none)
  match stopped.foldl (fun (b : Option Form) f => match b with
      | some x => if f.order < x.order then some f else b
      | none => some f) none with
  | some f => .stopped f
  | none => if k.nextForm < k.card.nform && formsHeld k < k.card.maxres then .fresh else .none

/-- The number of a kernel's next form. -/
def nextNo (k : Kernel) : Nat := match nextFormOf k with
  | .stopped f => f.no
  | _ => k.nextForm

/-- A kernel's edges are satisfied (21 R321, R325). -/
def edgesMet (s : State) (k : Kernel) : Bool :=
  k.edges.all (fun n => match s.kernel n with
    | some p => p.done.isSome
    | none => true)
  && k.streams.all (fun x => match s.kernel x.1 with
    | some p => p.done.isSome || (p.nextForm == p.card.nform && p.forms.all (fun f => f.2.status != .stopped))
    | none => true)

/-- A kernel is eligible in a scan (21 R336). -/
def eligible (s : State) (k : Kernel) : Bool :=
  k.ended.isNone && k.done.isNone && edgesMet s k && nextFormOf k != .none

/-- The die cycles since a kernel was accepted, or a form of it last admitted or resumed (21 R336, R339). -/
def Kernel.age (k : Kernel) (s : State) : Nat := (((s.cycle k.unit).toNat : Int) - k.since).toNat

/-- The effective priority of a kernel now (21 R336). -/
def effPrio (s : State) (k : Kernel) : Nat := k.prio - k.age s / 2 ^ 21

/-- The unit of a die may admit or resume (21 R338, 25 R422). -/
def unitOpen (s : State) (die : Nat) : Bool := !s.sched.hot && !diePaused s die

/-- The kernel's entry in its image. -/
def entryOf (s : State) (k : Kernel) : Option KernelEntry := (s.image k.image).bind (fun im => im.kernels[k.kidx]?)

/-- A fixed placement is free in a room. -/
def placementFree (r : Room) (c : JobCard) (p : Placement) (ranges : Bool) : Bool :=
  p.slots.all (fun x => r.slotFree x.1 x.2) && p.blocks.all (fun b => !r.blocks.contains b)
    && (!ranges || (p.ranges c).all (fun x => r.rangeFree x.1 x.2.1 x.2.2))

/-- A placement in which no core takes no form (23 R374). -/
def newPlace (r : Room) (p : Placement) : Bool := p.slots.all (fun x => !r.cores.contains x.1)

/-- No die of a placement is being updated (25 R422). -/
def placeOpen (s : State) (p : Placement) : Bool := (p.clusters ++ p.shadow).all (fun cl => !diePaused s (cl / 6))

/-- The placement into which a kernel's next form fits now (21 R327, R335, R336). -/
def fitNow (s : State) (lnum : Nat) (k : Kernel) : Option Placement :=
  match nextFormOf k with
  | .none => none
  | .stopped f =>
    let r := roomNow s lnum f.no
    let m := movedForm f
    let p := m.place
    let idle := f.moveTo.isNone || s.fabric.copies.all (fun j => j.2.own.lnum != lnum || j.2.own.form != f.no)
    let blocks := m.chart.all (fun b => !r.blocks.contains (b.core, b.block))
    if placementFree r k.card p f.moveTo.isSome && blocks && (f.moveTo.isNone || newPlace r p) && idle && placeOpen s p then some p
    else none
  | .fresh => match entryOf s k with
    | none => none
    | some e =>
      let r := roomNow s lnum k.nextForm
      match k.reservation.filter (fun x => x.1 == k.nextForm) with
      | some (_, p) => if placementFree r k.card p true && newPlace r p && placeOpen s p then some p else none
      | none => (findPlacement (pickFor s lnum k.nextForm) k.card e k.unit k.paired r).bind
          (fun p => if placeOpen s p then some p else none)

/-- Every way to seat the threads on clusters whose room is given, the same core, slot and block numbers on each, in rising core
and block numbers; of the slots the one that most of the clusters have free. -/
def seatWays (now : Room) (clusters : List Nat) : List (Nat × Nat) → Room → List (List (Nat × Nat × Nat × Nat))
  | [], _ => [[]]
  | (_, n) :: rest, r =>
    (spots r clusters n).flatMap (fun kb =>
      let open' := positions 8 (fun sl => clusters.all (fun cl => r.slotFree (cl * 8 + kb.1) sl))
      let free := fun (sl : Nat) => (clusters.filter (fun cl => now.slotFree (cl * 8 + kb.1) sl)).length
      match open'.foldl (fun (b : Option Nat) sl => match b with
          | some x => if free x < free sl then some sl else b
          | none => some sl) none with
      | none => []
      | some sl =>
        let r := clusters.foldl (fun r cl => r.take (cl * 8 + kb.1) sl kb.2 n) r
        (seatWays now clusters rest r).map (fun o => (kb.1, sl, kb.2, n) :: o))

/-- The placement that a kernel at effective priority 0 reserves (21 R336): of those that fit an empty cluster, the one with
the most blocks free now, then the most slots, then the lowest numbers; partners likewise on their dies. -/
def reservation (s : State) (lnum : Nat) (k : Kernel) : Option Placement :=
  match nextFormOf k, entryOf s k with
  | .stopped f, _ => some (movedForm f).place
  | .fresh, some e =>
    let now := roomNow s lnum k.nextForm
    let blank : Room := { Room.empty with cores := now.cores }
    let score := fun (cls : List Nat) (ways : List (Nat × Nat × Nat × Nat)) =>
      let bs := cls.flatMap (fun cl => ways.flatMap (fun w => (List.range w.2.2.2).map (fun i => (cl * 8 + w.1, w.2.2.1 + i))))
      let fb := (bs.filter (fun b => !now.blocks.contains b)).length
      let fs := (cls.flatMap (fun cl => ways.filter (fun w => now.slotFree (cl * 8 + w.1) w.2.1))).length
      fb * 1024 + fs
    let best := fun (die : Nat) (ts : List (Nat × Nat)) =>
      let mine := (List.range 6).map (fun c => 6 * die + c)
      let sets := mine.flatMap (fun cl => if k.paired then (mine.filter (fun x => x != cl)).map (fun sh => [cl, sh]) else [[cl]])
      let all := sets.flatMap (fun cls => (seatWays now cls ts blank).map (fun w => (cls, w)))
      all.foldl (fun (b : Option (List Nat × List (Nat × Nat × Nat × Nat))) x => match b with
        | some y => if score y.1 y.2 < score x.1 x.2 then some x else b
        | none => some x) none
    let laned := (entryThreads e).filter (fun t => t.2 != 0)
    let parts := (positions 4 (bitOf k.card.pdies)).map (fun d => (d, best d laned))
    (best k.unit (entryThreads e)).map (fun h =>
      let side := fun (j : Nat) =>
        let home := h.1.getD j 0
        (h.2.zipIdx).map (fun (x : (Nat × Nat × Nat × Nat) × Nat) =>
          let ps := parts.filterMap (fun p => p.2.bind (fun o =>
            ((laned.zip o.2).find? (fun y => y.1.1 == x.2)).map (fun y =>
              ({ die := p.1, core := o.1.getD j 0 * 8 + y.2.1, slot := y.2.2.1, block0 := y.2.2.2.1, nblk := y.2.2.2.2 } : Partner))))
          ({ tid := (home * 8 + x.1.1) * 8 + x.1.2.1, block0 := x.1.2.2.1, nblk := x.1.2.2.2, partners := ps } : Seat))
      let clusters := fun (j : Nat) => h.1.getD j 0 :: parts.filterMap (fun p => p.2.map (fun o => o.1.getD j 0))
      { clusters := clusters 0, seats := side 0, shadow := if k.paired then clusters 1 else [],
        shadowSeats := if k.paired then side 1 else [] })
  | _, _ => none

/-! Pre-emption requests. -/

/-- The threads of a form, the shadow's with them. -/
def Form.tids (f : Form) : List Nat := (f.place.seats ++ f.place.shadowSeats).map Seat.tid

/-- A form can be saved: every thread has a satchel (23 R357). -/
def formSaveable (s : State) (f : Form) : Bool :=
  f.tids.all (fun tid => match s.thread tid with
    | some t => field t.satb.toNat 15 0 != 0
    | none => true)

/-- The state with a form's slots and blocks free, as they are once it has stopped: only for asking what would fit. -/
def asIfStopped (s : State) (f : Form) : State :=
  f.tids.foldl (fun s tid => match s.thread tid with
    | none => s
    | some t =>
      let s := freeBlocks s (coreOf tid) (tidSlot tid)
      let s := t.partners.foldl (fun s p => freeBlocks s p.core p.slot) s
      { s with threads := tableDel tid s.threads }) s

/-- The Proctor handles a fault of a form (23 R355). -/
def faultHandled (s : State) (f : Form) : Bool :=
  f.tids.any (fun tid => match s.thread tid with
    | some t => t.faulted || ((t.group.map Group.faulted).getD false)
    | none => false)

/-- Asks a form to stop (23 R354): each control thread is taken at once, before an instruction that waits; a group with no
open strip, or waiting in a watched SETVL, stops at once, one whose strip has rolled back as an abandoned stop; others at
their next boundary. A request made while the Proctor handles a fault of the form is made again after it (R355). -/
def requestStop (s : State) (lnum : Nat) (f : Form) : State :=
  if f.status ≠ .resident || faultHandled s f then s
  else
    let now := match f.place.seats with
      | x :: _ => (s.cycle (tidDie x.tid)).toNat
      | [] => 0
    let s := s.modKernel lnum (fun k => { k with
      forms := tableMod f.no (fun f => { f with status := .stopping, stopAt := now }) k.forms })
    f.tids.foldl (fun s tid => s.modThread tid (fun t =>
      { t with stopped := true, waiting := none, stopCyc := s.cycle (tidDie tid),
               group := t.group.map (fun g =>
                 let g := { g with stopping := true }
                 if g.strip.isNone && g.issues.isEmpty && !g.committing && g.closed.isEmpty then
                   { g with stop := some g.replay.isNone, waiting := none }
                 else g) })) s

/-- Every resident form with its kernel. -/
def residentForms (s : State) : List (Nat × Kernel × Form) :=
  s.sched.kernels.flatMap (fun e => e.2.forms.filterMap (fun f =>
    if f.2.status = .resident then some (e.1, e.2, f.2) else none))

/-- The subsets of n elements. -/
def choose {α : Type} : Nat → List α → List (List α)
  | 0, _ => [[]]
  | _ + 1, [] => []
  | n + 1, x :: xs => (choose n xs).map (fun o => x :: o) ++ choose (n + 1) xs

/-- How a set of forms compares, larger is better: its most urgent member's base priority, then its admissions from the
latest on (21 R337). -/
def setBetter (a b : List (Nat × Kernel × Form)) : Bool :=
  let urgent := fun (l : List (Nat × Kernel × Form)) => l.foldl (fun m x => min m x.2.1.prio) 4
  let ages := fun (l : List (Nat × Kernel × Form)) => (l.map (fun x => x.2.2.since)).mergeSort (fun x y => y ≤ x)
  if urgent a ≠ urgent b then urgent b < urgent a
  else ((ages a).zip (ages b)).foldr (fun x acc => if x.1 = x.2 then acc else decide (x.2 < x.1)) false

/-- A form with every resident form of the consumers of its kernel's stream edges, and of theirs in turn, before it (21 R337).
The fuel is the number of kernels. -/
def preemptOrder : Nat → State → Nat × Kernel × Form → List (Nat × Kernel × Form)
  | 0, _, x => [x]
  | fuel + 1, s, x =>
    ((residentForms s).filter (fun y => y.2.1.streams.any (fun e => e.1 == x.1))).flatMap (preemptOrder fuel s) ++ [x]

/-- The forms to pre-empt so that a kernel's next form fits (21 R337), none where it fits once forms already stopping have
stopped, or where no set makes it fit. -/
def preemptSet (s : State) (lnum : Nat) (k : Kernel) : List (Nat × Kernel × Form) :=
  let stopping := s.sched.kernels.flatMap (fun e => e.2.forms.filterMap (fun f =>
    if f.2.status = .stopping then some f.2 else none))
  let s' := stopping.foldl asIfStopped s
  if (fitNow s' lnum k).isSome then []
  else
    let cand := (residentForms s).filter (fun x =>
      k.prio < x.2.1.prio && (preemptOrder s.sched.kernels.length s x).all (fun y => formSaveable s y.2.2))
    let sizes := (List.range cand.length).map (fun i => i + 1)
    (sizes.findSome? (fun n =>
      let fits := (choose n cand).filter (fun c => (fitNow (c.foldl (fun s x => asIfStopped s x.2.2) s') lnum k).isSome)
      fits.foldl (fun (b : Option (List (Nat × Kernel × Form))) c => match b with
        | some y => if setBetter c y then some c else b
        | none => some c) none)).getD []

/-- Pre-empts a form, after every resident form of the consumers of its stream edges (21 R337). -/
def preemptForm (s : State) (x : Nat × Kernel × Form) : State :=
  (preemptOrder s.sched.kernels.length s x).foldl (fun s y => match (s.kernel y.1).bind (fun k => tableGet y.2.2.no k.forms) with
    | some f => requestStop s y.1 f
    | none => s) s

/-- One kernel's turn in a scan: it admits or resumes forms while the next one fits; then reserves at effective priority 0,
and asks for pre-emption (21 R336, R337). -/
def scanKernel : Nat → State → Nat → State
  | 0, s, _ => s
  | fuel + 1, s, lnum =>
    match s.kernel lnum with
    | none => s
    | some k =>
      if !eligible s k then s
      else match fitNow s lnum k with
        | some p =>
          (match nextFormOf k with
          | .stopped f =>
            let (s, _) := resumeForm s lnum k f
            scanKernel fuel s lnum
          | .fresh => scanKernel fuel (admitForm s lnum k p) lnum
          | .none => s)
        | none =>
          let s := if effPrio s k = 0 && k.reserved.isNone then
              s.modKernel lnum (fun k => { k with reserved := reservation s lnum k, reservedAt := s.tick, reservedFor := nextNo k })
            else s
          (preemptSet s lnum k).foldl preemptForm s

/-- The kernels of a unit in scan order (21 R336). -/
def scanOrder (s : State) (die : Nat) : List Nat :=
  let ks := s.sched.kernels.filter (fun e => e.2.unit == die && eligible s e.2)
  (ks.mergeSort (fun a b => effPrio s a.2 < effPrio s b.2 || (effPrio s a.2 == effPrio s b.2 && a.1 ≤ b.1))).map Prod.fst

/-- The scan of every unit that may admit (21 R336, R338). -/
def scanAll (s : State) : State :=
  let s := { s with sched := { s.sched with rescan := false } }
  (List.range 4).foldl (fun s die =>
    if unitOpen s die then (scanOrder s die).foldl (scanKernel 2048) s else s) s

/-! The end of threads, forms and kernels. -/

/-- An heir would keep an avail that its image accepts (21 R341). -/
def heirOk (s : State) (t : Thread) (blocks : Nat) : Bool :=
  match (s.kernel t.lnum).bind (fun k => s.image k.image) with
  | some im =>
    let a := avail32 blocks (popcount 4 t.att.toNat)
    im.vllo ≤ a && a ≤ im.vlhi
  | none => false

/-- The heir of an exiting thread's blocks (21 R341). -/
def heirOf (s : State) (tid : Nat) (t : Thread) (b n : Nat) : Option Nat :=
  let cand := (List.range 8).filterMap (fun sl =>
    let q := coreOf tid * 8 + sl
    match s.thread q with
    | some u =>
      let (b', n') := chartRun (s.core (coreOf tid)).cur sl
      if q != tid && u.lnum == t.lnum && u.form == t.form && n' != 0 && heirOk s u (n' + n) then some (q, b', n') else none
    | none => none)
  match cand.find? (fun c => c.2.1 + c.2.2 == b) with
  | some c => some c.1
  | none => (cand.find? (fun c => c.2.1 == b + n)).map (fun c => c.1)

/-- A form that has lost its last thread ends (21 R342). -/
def endFormIfEmpty (s : State) (lnum form : Nat) : State :=
  match (s.kernel lnum).bind (fun k => tableGet form k.forms) with
  | none => s
  | some f =>
    if f.tids.any (fun x => match s.thread x with
        | some t => t.lnum == lnum && t.form == form
        | none => false) then s
    else
      let s := s.modKernel lnum (fun k => { k with forms := tableDel form k.forms, fdone := k.fdone + 1 })
      { s with sched := { s.sched with rescan := true } }

/-- EXIT ends a thread (21 R340): its slot and partners are free, its blocks pass to an heir or to nobody, pending moves
that name it are cancelled. -/
def endThread (s : State) (tid : Nat) : State :=
  match s.thread tid with
  | none => s
  | some t =>
    let lret := ((s.kernel t.lnum).map (fun k => k.card.lret)).getD false
    let (b, n) := chartRun (s.core (coreOf tid)).cur (tidSlot tid)
    let heir := if lret && n != 0 then heirOf s tid t b n else none
    let mine := chartBlocks (s.core (coreOf tid)).cur (tidSlot tid)
    let s := removeThread s tid
    let s := match heir with
      | some q =>
        let c := mine.foldl (fun (c : Core) b => { c with nxt := chartSet c.nxt b (tidSlot q) }) (s.core (coreOf tid))
        settleIdle (s.putCore (coreOf tid) c) (coreOf tid)
      | none => s
    endFormIfEmpty s t.lnum t.form

/-- A kernel's outstanding work is over (21 R322). -/
def workOver (s : State) (lnum : Nat) : Bool :=
  s.fabric.copies.all (fun j => j.2.own.lnum != lnum) && s.fabric.orphans.all (fun o => o.lnum != lnum)
    && s.fabric.latePosts.all (fun p => p.1 != lnum) && s.threads.all (fun e => e.2.lnum != lnum)

/-- Marks a kernel done and writes its status word; kernels that depend on it follow (21 R319, R322, R324, R326). The fuel is
the number of kernels. -/
def finishKernel : Nat → State → Nat → Nat → Nat → State
  | 0, s, _, _, _ => s
  | fuel + 1, s, lnum, cause, det =>
    match s.kernel lnum with
    | none => s
    | some k =>
      if k.done.isSome then s
      else
        let w := statusWord cause det k.fdone
        let s := writeStatus s k.dom k.asid k.root k.card.stat w
        let s := finishLaunch (s.modKernel lnum (fun k => { k with done := some w, reserved := none })) k cause
        let s := { s with sched := { s.sched with rescan := true } }
        if cause = 0 then s
        else
          let deps := s.sched.kernels.filter (fun e => e.2.done.isNone && e.2.ended.isNone && e.2.card.depf && e.2.edges.contains lnum)
          let s := deps.foldl (fun s e => finishKernel fuel s e.1 3 0) s
          let cons := s.sched.kernels.filter (fun e => e.2.done.isNone && e.2.streams.any (fun x => x.1 == lnum))
          cons.foldl (fun s e => endKernel s e.1 4 0) s

end Sys2Proof.Machine
end

