-- ==== Sys2Proof/Machine/System.lean ====
section
/-! DEFINITION. Posting blocks, replies, counts, copies, launches, seating, control registers, traps and exit, with their wake-ups and the copy engine (11 R188 to R197; 13 R221; 07 R127, R132; 23 R352, R367, R375). -/

namespace Sys2Proof.Machine

/-! Blocks and replies. -/

/-- POSTB (11 R188, 03 R35, R40). -/
def execPostb (rs1 ra rb rc re : BitVec 5) (s : State) : Out :=
  runScalar (.postb rs1 ra rb rc re) s (fun a =>
    match a.slot with
    | none => privilege a 31
    | some (tid, t) => match t.group with
      | none => privilege a 31
      | some g =>
        let addr := a.ctx.rd rs1
        if addr.toNat % 4 ≠ 0 then raise 3 [0, addr.toNat, 0]
        else if 64 ≤ g.vblk.length then .error .wait
        else
          let b : VBlock := { addr := addr, ops := #v[a.ctx.rd ra, a.ctx.rd rb, a.ctx.rd rc, a.ctx.rd re],
                              fmode := a.ctx.fmode, seed := a.ctx.seed, fence := g.fenced }
          pure ((s.modGroup tid (fun g => { g with vblk := g.vblk ++ [b], fenced := false })).setCtx a.ctx.step))

/-- POSTB_RESUME: a stalled POSTB executes again (03 R40). -/
def execPostbResume (tid : Nat) (s : State) : Out :=
  wakeThread s tid (fun i => match i with
    | .postb rs1 ra rb rc re => some (execPostb rs1 ra rb rc re)
    | _ => none)

/-- GETR (11 R189, 03 R43). -/
def execGetr (rd : BitVec 5) (s : State) : Out :=
  runScalar (.getr rd) s (fun a =>
    match a.slot with
    | none => privilege a 31
    | some (tid, t) => match t.group with
      | none => privilege a 31
      | some g => match g.vreply with
        | [] => .error .wait
        | v :: rest => pure ((s.modGroup tid (fun g => { g with vreply := rest })).setCtx (a.ctx.wr rd v).step))

/-- GETR_WAKE: a waiting GETR executes again (03 R43). -/
def execGetrWake (tid : Nat) (s : State) : Out :=
  wakeThread s tid (fun i => match i with
    | .getr rd => some (execGetr rd)
    | _ => none)

/-! Copies. -/

/-- The pseudo-slots of Proctor cores, past every slot of a compute die. -/
def proctorTid (k : Nat) : Nat := 1536 + k

/-- The acting agent as the owner of what it issues. -/
def Agent.owner (s : State) (a : Agent) : Owner :=
  match a.slot, s.actor with
  | some (tid, t), _ => t.owner tid
  | none, .proctor k => { tid := proctorTid k, lnum := 0, form := 0 }
  | none, _ => { tid := proctorTid 16, lnum := 0, form := 0 }

/-- A copy descriptor from its words (11 R191): six, then two for each region. -/
def copyOf (ws : List Nat) : CopyDesc :=
  let w := fun i => ws.getD i 0
  { src := field (w 0) 55 0, dst := field (w 1) 55 0, rows := field (w 2) 63 32, rowLen := field (w 2) 31 0,
    dpitch := sext (field (w 3) 63 32) 32, spitch := sext (field (w 3) 31 0) 32, stat := field (w 4) 55 0,
    regions := (List.range (field (w 5) 3 0)).map (fun i => regionOf (w (6 + 2 * i)) (w (7 + 2 * i))) }

/-- A descriptor with a reserved bit, a count out of range or a malformed region (11 R191). -/
def copyBad (ws : List Nat) : Bool :=
  let w := fun i => ws.getD i 0
  let rows := field (w 2) 63 32
  let len := field (w 2) 31 0
  field (w 0) 63 56 != 0 || field (w 1) 63 56 != 0 || field (w 4) 63 56 != 0 || field (w 5) 63 4 != 0
    || rows == 0 || 65536 < rows || len % 16 != 0 || len == 0 || 2 ^ 24 < len || 8 < field (w 5) 3 0
    || (List.range (field (w 5) 3 0)).any (fun i =>
      regionBad (w (6 + 2 * i)) (w (7 + 2 * i)) || regionReserved (w (6 + 2 * i)) (w (7 + 2 * i)))

/-- The first misaligned item of a descriptor, in the order SRC, DST, DPITCH, SPITCH, STAT; D1 of a pitch is its 32-bit field
(11 R191; DESIGN CHOICE, log 43). -/
def copyMisaligned (ws : List Nat) : Option Nat :=
  let d := copyOf ws
  if d.src % 16 ≠ 0 then some d.src
  else if d.dst % 16 ≠ 0 then some d.dst
  else if d.dpitch % 16 ≠ 0 then some (field (ws.getD 3 0) 63 32)
  else if d.spitch % 16 ≠ 0 then some (field (ws.getD 3 0) 31 0)
  else if d.stat % 8 ≠ 0 then some d.stat
  else none

/-- The span from the lowest to the highest byte of the rows on one side (11 R191). -/
def rowSpan (base : Nat) (pitch : Int) (rows len : Nat) : Nat × Nat :=
  let last : Int := (base : Int) + pitch * ((rows : Int) - 1)
  let lo := min (base : Int) last
  let hi := max (base : Int) last + len
  ((max lo 0).toNat, (hi - max lo 0).toNat)

/-- A job's footprint (11 R191). -/
def copyFootprint (d : CopyDesc) : List (Nat × Nat × Bool × Bool) :=
  if d.regions.isEmpty then
    let a := rowSpan d.src d.spitch d.rows d.rowLen
    let b := rowSpan d.dst d.dpitch d.rows d.rowLen
    [(a.1, a.2, true, false), (b.1, b.2, false, true)]
  else d.regions

/-- A shadow's job writes no status outside the window (23 R367). -/
def CopyDesc.forMember (d : CopyDesc) (shadow : Bool) : CopyDesc :=
  if shadow && d.stat < windowBase then { d with stat := 0 } else d

/-- Issues a copy job; it follows every conflicting job of its thread (11 R191, 07 R126, R127). -/
def issueCopy (s : State) (o : Owner) (tr : TrCtx) (cluster : Nat) (vec : Bool) (d : CopyDesc) : State :=
  let f := s.fabric
  let after := f.copies.filterMap (fun j =>
    if j.2.own = o && conflict (copyFootprint j.2.desc) (copyFootprint d) then some j.1 else none)
  let j : CopyJob := { desc := d, own := o, vec := vec, next := 0, error := none, tr := tr, cluster := cluster, after := after }
  { s with fabric := { f with copies := tablePut f.nextCopy j f.copies, nextCopy := f.nextCopy + 1 } }

/-- 8-byte scalar loads of n words (11 R191, 21 R316). -/
def loadWords (s : State) (a : Agent) (va n : Nat) : Except Stop (State × List Nat) :=
  (List.range n).foldlM (fun (acc : State × List Nat) i => do
    let (s', _, v) ← loadScalar acc.1 a ((va + 8 * i) % 2 ^ 64) 8 .read
    pure (s', acc.2 ++ [v])) (s, [])

/-- COPY (11 R191; 23 R367, R368 for a paired member whose destination leaves its scratchpad). -/
def execCopy (rs1 : BitVec 5) (s : State) : Out :=
  runScalar (.copy rs1) s (fun a => do
    let va := (a.ctx.rd rs1).toNat
    if va % 16 ≠ 0 then raise 3 [0, va, 0]
    else do
      let (s', ws) ← loadWords s a va 6
      let (s', rs) ← loadWords s' a (va + 48) (2 * min 8 (field (ws.getD 5 0) 3 0))
      let ws := ws ++ rs
      if copyBad ws then illegal a 3 va
      else match copyMisaligned ws with
        | some x => raise 3 [0, x, 0]
        | none => do
          let d := copyOf ws
          if external a d.dst then
            let s' ← pushEvent s' a 2 va (d.rows * d.rowLen) (ws.map w64) (.copy rs1)
            pure (s'.setCtx a.ctx.step)
          else
            pure ((issueCopy s' (a.owner s) a.acc.tr a.acc.cluster false (d.forMember ((a.thread.map Thread.isShadow).getD false))).setCtx
              a.ctx.step))

/-- Chunks of a row, and of a job. -/
def chunksOfRow (d : CopyDesc) : Nat := (d.rowLen + 127) / 128

def chunksOf (d : CopyDesc) : Nat := d.rows * chunksOfRow d

/-- Chunk i of a job: its offset in the job, source, destination and length, addresses modulo 2^64 (07 R121, 11 R191). -/
def chunkAt (d : CopyDesc) (i : Nat) : Nat × Nat × Nat × Nat :=
  let row := i / chunksOfRow d
  let off := i % chunksOfRow d * 128
  let at' := fun (base : Nat) (pitch : Int) => (((base : Int) + (row : Int) * pitch + off) % 2 ^ 64).toNat
  (row * d.rowLen + off, at' d.src d.spitch, at' d.dst d.dpitch, min 128 (d.rowLen - off))

/-- The 16-byte pieces of a chunk, each translated: their physical addresses, or the cause of 13 R221 with the poisoned table
entry that a walk met (log 29). -/
def pieces (s : State) (a : Accessor) (va n : Nat) (k : Access) : Except (Nat × Option Nat) (List Nat) :=
  (List.range (n / 16)).mapM (fun i =>
    match translate s a ((va + 16 * i) % 2 ^ 64) k with
    | .ok pa => (match physKind pa with
      | .device _ => .error (2, none)
      | _ => .ok pa)
    | .bad 7 _ => .error (3, none)
    | .bad _ _ => .error (2, none)
    | .poison ea => .error (2, some ea))

/-- A chunk's read of one 16-byte piece: its bytes, and whether it held poison, as a node without a route does (07 R121, R132;
25 R388). -/
def readPiece (s : State) (lnum src : Nat) : State × List Byte × Bool :=
  let s := touchUnits s src 16 lnum
  match lostNode s src with
  | some n => (lostRoute s n lnum false, List.replicate 16 0, true)
  | none => (s, s.bytesAt src 16, (poisonAt s.sys src 16).isSome)

/-- A chunk's pieces joined where their destinations follow each other: each run is one write (07 R121). -/
def joinRuns : List (Nat × List Byte) → List (Nat × List Byte)
  | [] => []
  | (a, bs) :: rest => match joinRuns rest with
    | [] => [(a, bs)]
    | (c, cs) :: more => if a + bs.length = c then (a, bs ++ cs) :: more else (a, bs) :: (c, cs) :: more

/-- One chunk of a copy or preload, its pieces given by source and destination: all of it is read, then written as engine
writes; a unit that a poisoned source feeds is poisoned as it is written (07 R118, R121, R131, R132). The flag says whether a
source held poison. -/
def copyPieces (s : State) (lnum : Nat) (ps : List (Nat × Nat)) : State × Bool :=
  let (s, got) := ps.foldl (fun (acc : State × List (Nat × List Byte × Bool)) p =>
    let (s, bs, bad) := readPiece acc.1 lnum p.1
    (s, acc.2 ++ [(p.2, bs, bad)])) (s, [])
  let bad := (got.filter (fun x => x.2.2)).map Prod.fst
  let s := (joinRuns (got.map (fun x => (x.1, x.2.1)))).foldl (fun (s : State) x =>
    match lostNode s x.1 with
    | some n => lostRoute s n lnum true
    | none => (touchUnits s x.1 x.2.length lnum).storeBad x.1 x.2 (bad.filter (fun b => x.1 ≤ b && b < x.1 + x.2.length))) s
  (s, !bad.isEmpty)

/-- The accessor of a copy job. -/
def CopyJob.acc (j : CopyJob) : Accessor :=
  { tr := j.tr, core := if j.own.tid < 1536 then coreOf j.own.tid else 192, cluster := j.cluster, strip := false,
    priv := decide (1536 ≤ j.own.tid) }

/-- COPY_CHUNK: the job's next chunk, once every job it follows has ended (07 R121, R132; 13 R221). -/
def execCopyChunk (job : Nat) (s : State) : Out :=
  match tableGet job s.fabric.copies with
  | none => .next s
  | some j =>
    if chunksOf j.desc ≤ j.next || j.after.any (fun k => (tableGet k s.fabric.copies).isSome) then .next s
    else
      let (off, src, dst, n) := chunkAt j.desc j.next
      let put := fun (s : State) (e : Option Nat) =>
        let err := match j.error, e with
          | some x, _ => some x
          | none, some c => some (c, off)
          | none, none => none
        { s with fabric := { s.fabric with copies := tablePut job { j with next := j.next + 1, error := err } s.fabric.copies } }
      let stop := fun (c : Nat × Option Nat) =>
        .next (put (match c.2 with | some ea => logWalk s ea j.own.lnum | none => s) (some c.1))
      match pieces s j.acc src n .read, pieces s j.acc dst n .write with
      | .ok ss, .ok ds =>
        let s := touchWalk (touchWalk s j.acc src j.own.lnum) j.acc dst j.own.lnum
        let (s, bad) := copyPieces s j.own.lnum (ss.zip ds)
        .next (put s (if bad then some 1 else none))
      | .error c, _ => stop c
      | _, .error c => stop c

/-- The status word of a copy job (13 R221). -/
def copyStatus (e : Option (Nat × Nat)) : Word :=
  match e with
  | none => w64 (2 ^ 63)
  | some (c, first) => w64 (2 ^ 63 + 2 ^ 62 + c * 2 ^ 58 + first % 2 ^ 48)

/-- COPY_COMPLETE: a job whose chunks are over writes its status word, where it can be translated, and ends (13 R221). -/
def execCopyComplete (job : Nat) (s : State) : Out :=
  match tableGet job s.fabric.copies with
  | none => .next s
  | some j =>
    if j.next < chunksOf j.desc then .next s
    else
      let s := { s with fabric := { s.fabric with copies := tableDel job s.fabric.copies } }
      if j.desc.stat = 0 then .next s
      else match translate s j.acc j.desc.stat .write with
        | .ok pa => .next (storeStatus s j.acc.priv pa j.own.lnum (copyStatus j.error) true)
        | .poison ea => .next (logWalk s ea j.own.lnum)
        | .bad _ _ => .next s

/-! Counts. -/

/-- The four counts of WAITC (11 R190): background loads, notifying stores, copies, tile tokens. A shadow counts the lead's
jobs whose destination lies outside the window, and a paired member its external copies that wait for their match (23 R367,
R368). -/
def waitCounts (s : State) (a : Agent) : Nat × Nat × Nat × Nat :=
  let o := a.owner s
  let leads := match a.thread with
    | some t => (match t.role with
      | .shadow l => (s.fabric.copies.filter (fun j => j.2.own.tid == l && j.2.own.lnum == t.lnum && j.2.own.form == t.form
          && j.2.desc.dst < windowBase)).length
      | _ => 0)
    | none => 0
  let held := ((a.thread.map Thread.events).getD []).filter (fun e => e.kind == 2)
  let cp := (s.fabric.copies.filter (fun j => j.2.own == o)).length + leads + held.length
  match a.thread.bind Thread.group with
  | none => (0, 0, cp, 0)
  | some g =>
    ((g.gathers.filter (fun x => x.delivered.isNone)).length + (g.slots.filter (fun e => e.2.run.isSome)).length,
      g.notifies.length, cp, g.queue.length)

/-- WAITC (11 R190). -/
def execWaitc (bl ns cp tl : BitVec 4) (s : State) : Out :=
  runScalar (.waitc bl ns cp tl) s (fun a =>
    let c := waitCounts s a
    let ok := fun (b : BitVec 4) (n : Nat) => b == 15 || decide (n ≤ b.toNat)
    if ok bl c.1 && ok ns c.2.1 && ok cp c.2.2.1 && ok tl c.2.2.2 then pure (s.setCtx a.ctx.step) else .error .wait)

/-- WAITC_WAKE: a waiting WAITC executes again (11 R190). -/
def execWaitcWake (tid : Nat) (s : State) : Out :=
  wakeThread s tid (fun i => match i with
    | .waitc bl ns cp tl => some (execWaitc bl ns cp tl)
    | _ => none)

/-! Launch. -/

/-- Kernels that a unit has accepted and that are not done (21 R314). -/
def unitLoad (s : State) (die : Nat) : Nat :=
  (s.sched.kernels.filter (fun e => e.2.unit == die && e.2.done.isNone)).length

/-- Submits the card that a control thread read (11 R192, 21 R318). -/
def klaunchSubmit (s : State) (tid : Nat) (t : Thread) (ws : List Nat) : State × Nat :=
  let tr := trCtx s t
  let (floor, paired) := match s.kernel t.lnum with
    | some k => (k.prio, k.paired)
    | none => (0, false)
  let (s, n, _) := submitCard s ws (tidDie tid) tr.dom tr.asid tr.root floor ((cardOf ws).pdies == 0) paired none
  (s, n)

/-- KLAUNCH (11 R192). The hub die has no timetable unit, so that a card from a Proctor core is refused (log 19). -/
def execKlaunch (rd rs1 : BitVec 5) (s : State) : Out :=
  runScalar (.klaunch rd rs1) s (fun a => do
    let va := (a.ctx.rd rs1).toNat
    if va % 16 ≠ 0 then raise 3 [0, va, 0]
    else do
      let (s', ws) ← loadWords s a va 42
      match a.slot with
      | none => pure (s'.setCtx (a.ctx.wr rd 0).step)
      | some (tid, t) =>
        if eventPending a (.klaunch rd rs1) || 1024 ≤ unitLoad s' (tidDie tid) then .error .wait
        else if t.isPaired then do
          let s' ← pushEvent s' a 3 va 336 (ws.map w64) (.klaunch rd rs1)
          pure (s'.setWaiting (some (.klaunch rd rs1)))
        else
          let (s', n) := klaunchSubmit s' tid t ws
          pure (s'.setCtx (a.ctx.wr rd (w64 n)).step))

/-- KLAUNCH_RESUME: a waiting KLAUNCH executes again (11 R192). -/
def execKlaunchResume (tid : Nat) (s : State) : Out :=
  wakeThread s tid (fun i => match i with
    | .klaunch rd rs1 => some (execKlaunch rd rs1)
    | _ => none)

/-! Seating and spans. -/

/-- Why a SEAT is refused, as a detail code of 23 R349: layout, owner, avail, an owner without lanes, a spanned group's lane
count, in the order of 11 R193. -/
def seatRefusal (s : State) (tid : Nat) (t : Thread) (chart : BitVec 32) : Option Nat :=
  let c := s.core (coreOf tid)
  let mine := fun (sl : Nat) => match s.thread (coreOf tid * 8 + sl) with
    | some u => u.lnum == t.lnum && u.form == t.form
    | none => false
  let changed := positions 8 (fun b => chartOwner chart b != chartOwner c.cur b)
  let named := fun (o : Nat) => o == 15 || mine o
  let groups := (List.range 8).filterMap (fun sl =>
    if mine sl then (s.thread (coreOf tid * 8 + sl)).bind (fun u => u.group.map (fun g => (sl, u, g))) else none)
  let blocks := fun (sl : Nat) => (chartBlocks chart sl).length
  if !chartOk chart then some 34
  else if changed.any (fun b => !named (chartOwner c.cur b) || !named (chartOwner chart b)) then some 35
  else if groups.any (fun x => !heirOk s x.2.1 (blocks x.1)) then some 36
  else if changed.any (fun b => chartOwner chart b != 15
      && ((s.thread (coreOf tid * 8 + chartOwner chart b)).bind Thread.group).isNone) then some 35
  else if groups.any (fun x => blocks x.1 != x.2.2.nblk && (x.2.1.att ||| x.2.1.pend) != BitVec.ofNat 4 (2 ^ tidDie tid)) then some 48
  else none

/-- SEAT (11 R193). -/
def execSeat (rs1 : BitVec 5) (s : State) : Out :=
  runScalar (.seat rs1) s (fun a =>
    match a.slot with
    | none => privilege a 31
    | some (tid, t) =>
      let x := (a.ctx.rd rs1).toNat
      let chart := BitVec.ofNat 32 x
      if x / 2 ^ 32 ≠ 0 then illegal a 2 0
      else match seatRefusal s tid t chart with
        | some code => privilege a code
        | none =>
          let s' := s.putCore (coreOf tid) { s.core (coreOf tid) with nxt := chart }
          pure ((settleIdle s' (coreOf tid)).setCtx a.ctx.step))

/-- SPANATT and SPANREL mark dies for the next committed boundary; a lane count that differs from admission's comes before a
partner that was not reserved (11 R194; DESIGN CHOICE, log 43). -/
def spanMark (i : Instr) (s : State) (rs1 : BitVec 5) (attach : Bool) : Out :=
  runScalar i s (fun a =>
    match a.slot with
    | none => privilege a 31
    | some (tid, t) =>
      let x := (a.ctx.rd rs1).toNat
      let need := positions 4 (fun d => bitOf x d && bitOf t.att.toNat d != attach)
      let mark := fun (t : Thread) => need.foldl (fun (t : Thread) d => { t with pend := t.pend ||| BitVec.ofNat 4 (2 ^ d) }) t
      if t.group.isNone then privilege a 31
      else if x / 16 ≠ 0 then illegal a 2 0
      else if attach then
        (if !need.isEmpty && t.lanes ≠ 32 * t.partnerLanes then privilege a 48
         else if need.any (fun d => t.partners.all (fun p => p.die != d)) then privilege a 37
         else pure ((s.modThread tid mark).setCtx a.ctx.step))
      else if bitOf x (tidDie tid) then privilege a 38
      else pure ((s.modThread tid mark).setCtx a.ctx.step))

/-- SPANATT (11 R194). -/
def execSpanatt (rs1 : BitVec 5) (s : State) : Out := spanMark (.spanatt rs1) s rs1 true

/-- SPANREL (11 R194). -/
def execSpanrel (rs1 : BitVec 5) (s : State) : Out := spanMark (.spanrel rs1) s rs1 false

/-! Control registers. -/

/-- LSEAT (03 R36). -/
def lseatWord (c : Core) : Word := w64 (c.nxt.toNat * 2 ^ 32 + c.cur.toNat)

/-- The value of a control register for the acting agent (11 R195; 09 R140). -/
def readCreg (s : State) (a : Agent) (creg : BitVec 12) : Word :=
  match creg.toNat with
  | 0x000 => a.ctx.fflags.zeroExtend 64
  | 0x001 => a.ctx.fmode.zeroExtend 64
  | 0x002 => a.ctx.seed
  | 0x010 => lseatWord (match a.tid with
      | some tid => s.core (coreOf tid)
      | none => .reset)
  | 0x011 => match a.slot with
      | some (tid, t) => spanWord tid t
      | none => 0
  | 0x012 => ((a.thread.bind Thread.group).map vcpOf).getD 0
  | 0x013 => ((a.thread.bind Thread.group).map (fun g => g.core.vssn)).getD 0
  | 0x020 => s.cycle a.die
  | 0x030 => match a.thread, s.actor with
      | some t, _ => t.trbase
      | none, .proctor k => ((s.pcore k).map ProctorCore.trbase).getD 0
      | none, _ => 0
  | 0x031 => match a.thread, s.actor with
      | some t, _ => t.satb
      | none, .proctor k => ((s.pcore k).map ProctorCore.satb).getD 0
      | none, _ => 0
  | 0x032 => s.proctor.finj
  | _ => 0

/-- A legal value of FINJ (23 R375). -/
def finjLegal (v : Word) : Bool :=
  let x := v.toNat
  let kind := field x 62 59
  let arm := bitOf x 63
  match kind with
  | 0 => !arm && x % 2 ^ 59 == 0
  | 1 => field x 47 0 == 0
  | 6 => field x 47 0 == 0
  | 2 => field x 58 48 == 0
  | 3 => field x 58 48 == 0
  | 4 => field x 58 11 == 0
  | 5 => field x 58 11 == 0
  | _ => false

/-- FINJ written: the pending injection is replaced (23 R375). -/
def setFinj (s : State) (v : Word) : State := { s with proctor := { s.proctor with finj := v } }

/-- The RW fields of TRBASE and SATB (07 R99, 23 R357). -/
def trbaseMask : Word := 0xFC0FFFFFFFFF0FFF
def satbMask : Word := 0x00FFFFFFFFFFFFFF

/-- Writes a control register: its registers and the machine after it, or the fault (11 R195, R166; 05 R83). -/
def writeCreg (s : State) (a : Agent) (c : ScalarCtx) (creg : BitVec 12) (v : Word) : Except Stop (State × ScalarCtx) :=
  match creg.toNat with
  | 0x000 => .ok (s, { c with fflags := BitVec.ofNat 7 v.toNat })
  | 0x001 =>
    if (roundModeOf (v.toNat % 8)).isNone then illegal a 1 0 else .ok (s, { c with fmode := BitVec.ofNat 3 v.toNat })
  | 0x002 => .ok (s, { c with seed := v })
  | 0x030 => match s.actor with
      | .proctor k => match s.pcore k with
        | some p => .ok (s.putPcore k { p with trbase := v &&& trbaseMask }, c)
        | none => .ok (s, c)
      | _ => privilege a 0
  | 0x031 => match s.actor with
      | .proctor k => match s.pcore k with
        | some p => .ok (s.putPcore k { p with satb := v &&& satbMask }, c)
        | none => .ok (s, c)
      | _ => privilege a 0
  | 0x032 => if finjLegal v then .ok (setFinj s v, c) else illegal a 2 0
  | _ => illegal a 4 0

/-- A control-register instruction: the old value is read first; `new` gives the value written, none for no write (11 R195).
Every access to FINJ is privileged (R166). -/
def cregAccess (i : Instr) (s : State) (rd : BitVec 5) (creg : BitVec 12) (new : ScalarCtx → Word → Option Word) : Out :=
  runScalar i s (fun a =>
    let old := readCreg s a creg
    if creg = 0x032 && !a.acc.priv then privilege a 0
    else match new a.ctx old with
      | none => pure (s.setCtx (a.ctx.wr rd old).step)
      | some v => do
        let (s', c) ← writeCreg s a a.ctx creg v
        pure (s'.setCtx (c.wr rd old).step))

/-- CSRR (11 R195). -/
def execCsrr (rd : BitVec 5) (creg : BitVec 12) (s : State) : Out := cregAccess (.csrr rd creg) s rd creg (fun _ _ => none)

/-- CSRW (11 R195). -/
def execCsrw (rd rs1 : BitVec 5) (creg : BitVec 12) (s : State) : Out :=
  cregAccess (.csrw rd rs1 creg) s rd creg (fun c _ => some (c.rd rs1))

/-- CSRS: no write when rs1 is g0 (11 R195). -/
def execCsrs (rd rs1 : BitVec 5) (creg : BitVec 12) (s : State) : Out :=
  cregAccess (.csrs rd rs1 creg) s rd creg (fun c old => if rs1 = 0 then none else some (old ||| c.rd rs1))

/-- CSRC: no write when rs1 is g0 (11 R195). -/
def execCsrc (rd rs1 : BitVec 5) (creg : BitVec 12) (s : State) : Out :=
  cregAccess (.csrc rd rs1 creg) s rd creg (fun c old => if rs1 = 0 then none else some (old &&& ~~~ (c.rd rs1)))

/-- A write of FINJ with this KIND, as a Proctor core makes it; an illegal value leaves FINJ as it was (23 R375). -/
def finjWrite (kind : Nat) (v : Word) (s : State) : Out :=
  if finjLegal v && field v.toNat 62 59 == kind then .next (setFinj s v) else .next s

/-- FINJ_CLEAR (23 R375). -/
def execFinjClear (v : Word) (s : State) : Out := finjWrite 0 v s

/-- FINJ_SIGNATURE_FLIP (23 R375). -/
def execFinjSignatureFlip (v : Word) (s : State) : Out := finjWrite 1 v s

/-- FINJ_CORRECTABLE (23 R375). -/
def execFinjCorrectable (v : Word) (s : State) : Out := finjWrite 2 v s

/-- FINJ_UNCORRECTABLE (23 R375). -/
def execFinjUncorrectable (v : Word) (s : State) : Out := finjWrite 3 v s

/-- FINJ_DISCARD_RETURN (23 R375). -/
def execFinjDiscardReturn (v : Word) (s : State) : Out := finjWrite 4 v s

/-- FINJ_PARITY (23 R375). -/
def execFinjParity (v : Word) (s : State) : Out := finjWrite 5 v s

/-- FINJ_EVENT_FLIP (23 R375). -/
def execFinjEventFlip (v : Word) (s : State) : Out := finjWrite 6 v s

/-! Traps and exit. -/

/-- A trap on a Proctor core enters its handler (23 R352); the frame's PC is the trap's own (log 20). -/
def proctorTrap (s : State) (k code : Nat) : State :=
  match s.pcore k with
  | some p => enterHandler s k code (recordWords 0 false false false 0 0 p.ctx.pc 0 0 0 (s.cycle 4) [])
  | none => s

/-- TRAP with a code that names no service: g4 takes all ones (11 R197); on a Proctor core the handler is entered. -/
def execTrap (code : BitVec 8) (s : State) : Out :=
  runScalar (.trap code) s (fun a =>
    match s.actor with
    | .proctor k => pure (proctorTrap s k code.toNat)
    | _ => pure (s.setCtx (a.ctx.wr 4 (BitVec.allOnes 64)).step))

/-- TRET, privileged (11 R197, 23 R352). -/
def execTret (s : State) : Out :=
  runScalar .tret s (fun a =>
    match s.actor with
    | .proctor k => pure (leaveHandler s k)
    | _ => privilege a 0)

/-- EXIT: it waits until every posted block has committed and every copy finished, in a pair also for the pair; then the
thread ends (11 R197, 21 R340, 23 R369). A Proctor core, whose thread has no block, waits for its copies and stops. -/
def execExit (s : State) : Out :=
  runScalar .exit s (fun a =>
    match a.slot, s.actor with
    | some (tid, t), _ =>
      if blocksDone t && pairSettled a && (waitCounts s a).2.2.1 == 0 then pure (endThread s tid) else .error .wait
    | none, .proctor k => match s.pcore k with
      | some p => if (waitCounts s a).2.2.1 == 0 then pure (s.putPcore k { p with halted := true }) else .error .wait
      | none => pure s
    | none, _ => pure s)

/-- EXIT_COMPLETE: a waiting EXIT executes again (21 R340). -/
def execExitComplete (tid : Nat) (s : State) : Out :=
  wakeThread s tid (fun i => match i with
    | .exit => some execExit
    | _ => none)

end Sys2Proof.Machine
end

