-- ==== Sys2Proof/Machine/Strips.lean ====
section
/-! DEFINITION. Strips: held effects and what loads see of them, closing and committing, boundaries, SETVL, VEND, the start of a block, and the events that let a commit go on (03 R41 to R60; 13 R207, R212; 15 R258; 17 R273, R283; 19 R305; 23 R354, R365 to R367). -/

namespace Sys2Proof.Machine

/-- Virtual addresses of vector accesses as the lanes of a part make them (13 R203). -/
def vecAccessor (s : State) (v : VCtx) (p : Part) : Accessor :=
  { tr := trCtx s v.t, core := p.core, cluster := p.core / 8, strip := true, priv := false }

/-- The home part. -/
def VCtx.home (v : VCtx) : Part := homePart v.tid v.t

/-- The thread as an agent of scalar operations, which vector posts, copies and their checks share. -/
def VCtx.agent (v : VCtx) (s : State) : Agent :=
  { ctx := { v.t.ctx with pc := v.iaddr }, acc := threadAccessor s v.tid v.t, tid := some v.tid, thread := some v.t }

/-! What loads of a strip see. -/

/-- Effects that a load may see: those of closed strips, then the open strip's, in program order (03 R48, 23 R365). -/
def Group.visible (g : Group) : List Effect :=
  g.closed.flatMap (fun c => c.strip.effects) ++ (match g.strip with
    | some st => st.effects
    | none => [])

/-- One byte with a store over it, where the store covers it. -/
def overByte (e : Effect) (pa : Nat) (b : Byte) : Byte :=
  match e with
  | .store _ p _ size value mask _ =>
    if p ≤ pa && pa < p + size then
      let m := field mask (8 * (pa - p) + 7) (8 * (pa - p))
      let x := field value (8 * (pa - p) + 7) (8 * (pa - p))
      BitVec.ofNat 8 ((x &&& m) + (b.toNat &&& (255 - m)))
    else b
  | _ => b

/-- The n bytes that a vector load reads at an address (03 R48). -/
def readOver (s : State) (g : Group) (pa n : Nat) : List Byte :=
  (s.bytesAt pa n).mapIdx (fun i b => g.visible.foldl (fun b e => overByte e (pa + i) b) b)

/-- One byte of a lane slice as the group reads it (07 R108). -/
def sliceByte (s : State) (g : Group) (core lane off : Nat) : Nat :=
  let base := field (cellGet s.lanes.slices (sliceKey core lane (off / 8))).toNat (off % 8 * 8 + 7) (off % 8 * 8)
  g.visible.foldl (fun b e => match e with
    | .slice c l o size value _ =>
      if c = core && l = lane && o ≤ off && off < o + size then field value (8 * (off - o) + 7) (8 * (off - o)) else b
    | _ => b) base

/-- The n bytes of a lane slice from an offset, as a number. -/
def readSlice (s : State) (g : Group) (core lane off : Nat) : Nat → Nat
  | 0 => 0
  | n + 1 => sliceByte s g core lane off + 256 * readSlice s g core lane (off + 1) n

/-- Bytes written in a lane slice; an 8-byte word covered whole loses its poison (07 R131). -/
def writeSlice (s : State) (core lane off n value : Nat) : State :=
  let put := fun (m : Sparse 64) (i : Nat) =>
    let key := sliceKey core lane ((off + i) / 8)
    cellSet m key (putBits (cellGet m key) ((off + i) % 8) 8 (field value (8 * i + 7) (8 * i)))
  let whole := (unitsOf 8 off n).filter (fun u => unitWhole 8 off n u)
  let clean := s.sys.slicePoison.filter (fun k => !whole.any (fun u => k == sliceKey core lane u))
  { s with lanes := { s.lanes with slices := (List.range n).foldl put s.lanes.slices }, sys := { s.sys with slicePoison := clean } }

/-! Effects. -/

/-- Bytes that effects count towards 03 R49: stored bytes, the eight of each notify write's progress word (R48), and eight for
each distinct word of a lane slice. -/
def storedBytes (es : List Effect) : Nat :=
  let mem := es.foldl (fun n e => match e with
    | .store _ _ _ size _ _ _ => n + size
    | .redm _ _ _ size _ _ _ _ _ => n + size
    | .notify _ _ _ => n + 8
    | _ => n) 0
  let words := es.flatMap (fun e => match e with
    | .slice c l o size _ true => (unitsOf 8 o size).map (fun u => sliceKey c l u)
    | _ => [])
  mem + 8 * words.eraseDups.length

/-- The result of one read-modify-write of VREDM or VMERGE, and of a window's operation (13 R223): 0 ADD, 1 AND, 2 OR, 3 XOR,
4 MIN, 5 MAX. -/
def reduceOp (ty sg op : Nat) (fmode : BitVec 3) (x y : Nat) : Nat × Flags :=
  match elemType ty sg with
  | some (.flt f) =>
    if op = 0 then fAdd f ⟨((roundModeOf fmode.toNat).getD .rne).noRsr, 0⟩ x y else fMinMax f (op == 5) x y
  | some (.int signed w) =>
    let i := readInt signed w
    (match op with
      | 0 => (x + y) % 2 ^ w
      | 1 => x &&& y
      | 2 => x ||| y
      | 3 => x ^^^ y
      | 4 => if i y < i x then y else x
      | _ => if i x < i y then y else x, 0#7)
  | none => (x, 0#7)

/-- One more write element of a lane that its home has not acknowledged (11 R185). -/
def addAck (s : State) (tid lane : Nat) : State :=
  s.modGroup tid (fun g => { g with acks := tablePut lane ((tableGet lane g.acks).getD 0 + 1) g.acks })

/-- Flags merged into the thread's FFLAGS at a commit (03 R48). -/
def mergeFlags (s : State) (tid : Nat) (f : Flags) : State :=
  s.modThread tid (fun t => { t with ctx := { t.ctx with fflags := t.ctx.fflags ||| f } })

/-- A shadow performs no write outside the scratchpad window (23 R367). -/
def withheld (shadow : Bool) (va : Nat) : Bool := shadow && decide (va < windowBase)

/-- LDT tags of the blocks that a lane-slice write touches, in every checkpoint that a rollback may still restore, since the write
is committed (23 R358). -/
def markSlice (s : State) (tid off n : Nat) : State :=
  let mark := fun (c : GroupCore) =>
    { c with ldt := (unitsOf 256 off n).foldl (fun t u => t ||| BitVec.ofNat 16 (2 ^ u)) c.ldt }
  let strip := fun (st : Strip) => { st with ckpt := { st.ckpt with core := mark st.ckpt.core } }
  s.modGroup tid (fun g => { g with
    core := mark g.core, strip := g.strip.map strip, closed := g.closed.map (fun c => { c with strip := strip c.strip }) })

/-- One buffered write is performed (03 R48, R51; 13 R209, R223; 07 R131). -/
def performWrite (tid lnum : Nat) (shadow : Bool) (s : State) (e : Effect) : State :=
  match e with
  | .store lane pa va size value mask fill =>
    if withheld shadow va then s
    else match lostNode s pa with
      | some n => lostRoute s n lnum true
      | none =>
        let s := touchUnits s pa size lnum
        let old := readNat s.sys.mem pa size
        let full := 2 ^ (8 * size) - 1
        let m := mask % 2 ^ (8 * size)
        addAck (s.store pa (leBytes size ((value &&& m) + (old &&& (full - m)))) fill) tid lane
  | .slice core lane off size value _ => markSlice (writeSlice s core lane off size value) tid off size
  | .redm lane pa va size ty sg op value fmode =>
    if withheld shadow va then s
    else match lostNode s pa with
      | some n => lostRoute s n lnum true
      | none =>
        let s := touchUnits s pa size lnum
        match poisonAt s.sys pa size with
        | some (p, _) => logPoison s p lnum
        | none =>
          let (x, f) := reduceOp ty sg op fmode (s.numAt pa size) value
          mergeFlags (addAck (s.store pa (leBytes size x) false) tid lane) tid f
  | _ => s

/-- Effects performed as writes at a commit, in program order, before every notify write and issue (03 R48, 13 R212). -/
def Effect.isWrite : Effect → Bool
  | .store .. | .slice .. | .redm .. => true
  | _ => false

def Effect.isNotify : Effect → Bool
  | .notify .. => true
  | _ => false

/-- Where a member of a chain lies: the thread whose part it is, and the part's die (17 R282). -/
def memberPart (s : State) (m : Member) : Option (Nat × Nat) :=
  let core := 48 * m.die + 8 * m.clu + m.core
  match s.thread (core * 8 + m.slot) with
  | some _ => some (core * 8 + m.slot, m.die)
  | none => (s.threads.find? (fun e => e.2.partners.any (fun p => p.core == core && p.slot == m.slot))).map
      (fun e => (e.1, m.die))

/-- A part as a member. -/
def Part.member (p : Part) : Member := { die := p.die, clu := p.core % 48 / 8, core := p.core % 8, slot := p.slot }

/-- The links of a group's part on a die. -/
def linksOf (g : Group) (die : Nat) : Links := (tableGet die g.core.links).getD { up := none, down := none }

/-- The link buffer that an entry of the part on a die enters, once the downstream member names that part as its upstream: the
buffer's thread and die, and what it holds (17 R283; log 22). -/
def linkBuffer (s : State) (tid die : Nat) (e : LinkEntry) : Option (Nat × Nat × List LinkEntry) :=
  match s.thread tid with
  | none => none
  | some t => match (partsOf tid t).find? (fun p => p.die == die), e.dest.bind (memberPart s) with
    | some p, some (q, d) => match s.group q with
      | none => none
      | some h => if (linksOf h d).up = some p.member then some (q, d, (tableGet d h.buffers).getD []) else none
    | _, _ => none

/-- A result of a chained MPASS enters the link buffer of the member that the MPASS delivers to, while that has room (17 R276,
R283). -/
def pushLink (s : State) (tid die : Nat) (e : LinkEntry) : Option State :=
  match linkBuffer s tid die e with
  | none => none
  | some (q, d, buf) =>
    if buf.length < 4 then some (s.modGroup q (fun h => { h with buffers := tablePut d (buf ++ [e]) h.buffers })) else none

/-- A commit that delivers these results, by die, overfills no link buffer (17 R283). An entry that the committing strip itself
has consumed leaves its buffer at the same commit. -/
def linksHaveRoom (s : State) (tid : Nat) (out : Table (List LinkEntry)) : Bool :=
  out.all (fun o => o.2.all (fun e => match linkBuffer s tid o.1 e with
    | none => false
    | some (q, _, buf) =>
      let stay := if q = tid then buf.filter (fun b => !b.consumed) else buf
      stay.length + (o.2.filter (fun b => b.dest == e.dest)).length ≤ 4))

/-- A start of a memory graph at its commit (19 R308). -/
def startRun (s : State) (tid : Nat) (r : RunStart) : Option State :=
  match s.group tid with
  | none => some s
  | some g => match tableGet r.slot g.slots with
    | none => some s
    | some sl =>
      if sl.st = 1 || sl.st = 4 then none
      else if sl.st ≠ 3 then some s
      else
        let run : Run := { count := r.count, next := 0, params := r.params, stream := r.stream, post := r.post, flags := 0, stopped := none }
        let sl := { sl with st := 4, run := some run, live := if r.reset then [] else sl.live, reload := false }
        let gr := graphOf (leValue sl.image)
        some (s.modGroup tid (fun g =>
          let g := { g with slots := tablePut r.slot sl (match r.stream with
            | some reg => g.slots.map (fun e => (e.1, e.2.unstream reg))
            | none => g.slots) }
          match r.stream with
          | none => g
          | some reg =>
            let b : Stream := { base := 0, exts := [], strs := [], ty := gr.ty, sg := gr.sg, mfmt := 0, pos := 0, slot := some r.slot }
            { g with runData := tablePut reg { values := [], ended := false, mark := none } g.runData,
                     held := tableDel reg g.held, gathers := g.gathers.filter (fun x => x.reg != reg),
                     core := { g.core with streams := tablePut reg b g.core.streams,
                                           gmark := g.core.gmark.filter (fun m => m.1 != reg) } }))

/-- An issue follows every access that the vector stream made before it: notify writes, and for a copy or a run vector posts
too (07 R125, R127; 19 R299). -/
def issueWaits (g : Group) : Effect → Bool
  | .copy .. => !g.notifies.isEmpty || !g.posts.isEmpty
  | .start .. => !g.notifies.isEmpty || !g.posts.isEmpty
  | .sbar .. => !g.notifies.isEmpty
  | _ => false

/-- One effect of a committed strip that is issued; none while it must wait (03 R43, R51; 19 R304, R305, R308). -/
def issue (s : State) (tid : Nat) (e : Effect) : Option State :=
  match s.thread tid with
  | none => some s
  | some t => match t.group with
    | none => some s
    | some g => if issueWaits g e then none else match e with
      | .reply w => if 16 ≤ g.vreply.length then none else some (s.modGroup tid (fun g => { g with vreply := g.vreply ++ [w] }))
      | .copy _ _ d =>
        if withheld t.isShadow d.dst then some s
        else some (issueCopy s (t.owner tid) (trCtx s t) (clusterOf tid) true (d.forMember t.isShadow))
      | .gather _ _ x => some (s.modGroup tid (fun g => { g with gathers := g.gathers ++ [x] }))
      | .start _ _ r => startRun s tid r
      | .load slot addr image cost =>
        if ((tableGet slot g.slots).bind Slot.run).isSome then none
        else
          let sl : Slot := { st := 1, addr := addr, image := image, cost := cost, live := [], run := none, reload := false }
          some (s.modGroup tid (fun g => { g with slots := tablePut slot sl g.slots,
                                                  core := { g.core with live := tableDel slot g.core.live } }))
      | .clear slot =>
        (match tableGet slot g.slots with
        | some ⟨1, _, _, _, _, _, _⟩ => none
        | some ⟨_, _, _, _, _, some _, _⟩ => none
        | _ => some (s.modGroup tid (fun g => { g with slots := tableDel slot g.slots,
                                                       core := { g.core with live := tableDel slot g.core.live } })))
      | .post _ _ hole gen handle entries =>
        some (s.modGroup tid (fun g => { g with posts := g.posts ++ [{ hole := hole, gen := gen, handle := handle, entries := entries }] }))
      | .sbar regs _ => some (s.modGroup tid (fun g => { g with held := g.held.filter (fun h => !bitOf regs (h.1 - 48)) }))
      | _ => some s

def Effect.isReply : Effect → Bool
  | .reply _ => true
  | _ => false

/-- Issues in program order: the machine, and what is left. Behind one that must wait (`held`) only replies go on, which enter a
queue of their own (03 R43). -/
def issueAll (tid : Nat) (held : Bool) : List Effect → State → State × List Effect
  | [], s => (s, [])
  | e :: rest, s => match if held && !e.isReply then none else issue s tid e with
    | some s => issueAll tid held rest s
    | none =>
      let (s, left) := issueAll tid true rest s
      (s, e :: left)

/-- Link results in order, up to one that must wait. -/
def pushAll (tid die : Nat) : List LinkEntry → State → State × List LinkEntry
  | [], s => (s, [])
  | e :: rest, s => match pushLink s tid die e with
    | some s => pushAll tid die rest s
    | none => (s, e :: rest)

/-- Results of committed work enter their link buffers, as far as there is room (17 R283). -/
def pushLeaving (s : State) (tid : Nat) : State :=
  match s.group tid with
  | none => s
  | some g =>
    let (s, out) := g.leaving.foldl (fun (acc : State × Table (List LinkEntry)) o =>
      let (s, left) := pushAll tid o.1 o.2 acc.1
      (s, if left.isEmpty then acc.2 else acc.2 ++ [(o.1, left)])) (s, [])
    s.modGroup tid (fun g => { g with leaving := out })

/-- Entries added behind those of each die. -/
def joinEntries (a b : Table (List LinkEntry)) : Table (List LinkEntry) :=
  b.foldl (fun t e => tablePut e.1 ((tableGet e.1 t).getD [] ++ e.2) t) a

/-- Posts whose pigeonhole is still configured as it was; the others are discarded (13 R228). -/
def livePosts (s : State) (ps : List PendingPost) : List PendingPost :=
  ps.filter (fun p => (s.hole p.hole).owner.isSome && (s.hole p.hole).gen.toNat == p.gen)

/-! Commit. -/

/-- What a commit does to a strip that unpaired code or a match of signatures commits (03 R46, R48, R51): the writes in
program order, the flags; notify writes and issues follow. -/
def performStrip (s : State) (tid : Nat) (st : Strip) : State :=
  match s.thread tid with
  | none => s
  | some t =>
    let s := (st.effects.filter Effect.isWrite).foldl (performWrite tid t.lnum t.isShadow) s
    let s := mergeFlags s tid st.flags
    let notes := st.effects.filterMap (fun e => match e with
      | .notify pa va n => if withheld t.isShadow va then none else some ({ pa := pa, va := va, count := n } : PendingNotify)
      | _ => none)
    s.modGroup tid (fun g =>
      { g with notifies := g.notifies ++ notes, committing := true,
               issues := g.issues ++ st.effects.filter (fun e => !e.isWrite && !e.isNotify) })

/-- Runs' data of registers that none of these states binds to them any more, and those runs' streams, are gone (19 R302). -/
def unbindRuns (cores : List GroupCore) (g : Group) : Group :=
  let bound := fun (reg : Nat) (fits : Option Nat → Bool) => cores.any (fun c => fits ((tableGet reg c.streams).bind Stream.slot))
  let unbind := fun (k : Nat) (sl : Slot) => { sl with run := sl.run.map (fun r =>
    { r with stream := match r.stream with
      | some reg => if bound reg (fun x => x == some k) then some reg else none
      | none => none }) }
  { g with runData := g.runData.filter (fun d => bound d.1 Option.isSome), slots := g.slots.map (fun e => (e.1, unbind e.1 e.2)) }

/-- What a committed strip has consumed is gone: delivered gathers, link-buffer entries, runs' data no longer bound (13 R218,
17 R283, 19 R302). -/
def dropConsumed (g : Group) : Group :=
  let g := unbindRuns [g.core] g
  { g with gathers := g.gathers.filter (fun x => !g.core.gread.contains x.reg), core := { g.core with gread := [] },
           buffers := g.buffers.map (fun b => (b.1, b.2.filter (fun e => !e.consumed))) }

/-- The strip that took the loader trap has committed; the loader's own strips share its VSSN (19 R309, R310). -/
def forgetTrap (t : Thread) (ssn : Word) (g : Group) : Group :=
  if t.loader.isSome then g else { g with emptyAgain := g.emptyAgain.filter (fun e => e.2 != ssn) }

/-- Seating or span changes wait for this group's boundary. -/
def changePending (s : State) (tid : Nat) (t : Thread) : Bool :=
  t.pend != 0 || boundaryChart (s.core (coreOf tid)) (tidSlot tid) != (s.core (coreOf tid)).cur

/-- What is left of a commit goes on: issues, link results, notify writes before any later access of the vector stream
(07 R121), then changes of seating and span. The flag says whether the group is at its boundary. -/
def settleBoundary (s : State) (tid : Nat) : State × Bool :=
  match s.group tid with
  | none => (s, true)
  | some g =>
    let (s, rest) := issueAll tid false g.issues s
    let ready := if g.strip.isSome then g.leaving else joinEntries g.leaving g.outgoing
    let s := pushLeaving (s.modGroup tid (fun g =>
      { g with issues := rest, leaving := ready, outgoing := if g.strip.isSome then g.outgoing else [] })) tid
    let waits := ((s.group tid).map (fun g => !g.leaving.isEmpty)).getD false
    if g.strip.isSome then (s, false)
    else if !rest.isEmpty || waits then (s, false)
    else match s.thread tid with
      | none => (s, true)
      | some t => match t.group with
        | none => (s, true)
        | some g =>
          if !g.notifies.isEmpty then (s, false)
          else if g.committing && (boundaryWaits s tid || (changePending s tid t && !g.closed.isEmpty)) then (s, false)
          else if g.committing then
            let s := spanChange (reseat s tid) tid
            (s.modGroup tid (fun g => { g with committing := false }), true)
          else (s, true)

/-- A signature takes in one effect (23 R365). -/
def mixEffect (s : Word) (a : Word) (k n : Nat) (data : List Word) : Word :=
  data.foldl (fun s u => mix64 (s ^^^ u)) (mix64 (mix64 (s ^^^ a) ^^^ w64 (k * 2 ^ 40 + n)))

/-- The rows of 23 R365 that an effect takes. -/
def effectRow (e : Effect) : Option (Word × Nat × Nat × List Word) :=
  match e with
  | .store _ _ va size value _ _ => some (w64 va, 1, size, [w64 value])
  | .redm _ _ va size _ _ _ value _ => some (w64 va, 1, size, [w64 value])
  | .slice _ lane off size value _ => some (w64 (lane * 4096 + off), 2, size, [w64 value])
  | .notify _ va n => some (w64 va, 3, 8, [w64 n])
  | .reply v => some (0, 4, 8, [v])
  | .copy ia ops _ => some (ia, 5, 8 * ops.length, ops)
  | .gather ia ops _ => some (ia, 5, 8 * ops.length, ops)
  | .start ia ops _ => some (ia, 5, 8 * ops.length, ops)
  | .post ia ops _ _ _ _ => some (ia, 5, 8 * ops.length, ops)
  | _ => none

/-- A closed strip's signature (23 R365): effects in program order, notify writes after
the others (07 R121), the flags last. -/
def signatureOf (vssn : Word) (st : Strip) : Word :=
  let order := st.effects.filter (fun e => !e.isNotify) ++ st.effects.filter Effect.isNotify
  let rows := order.filterMap effectRow
    ++ (if st.flags = 0 then [] else [((0 : Word), 6, 8, [st.flags.zeroExtend 64])])
  mix64 (rows.foldl (fun s r => mixEffect s r.1 r.2.1 r.2.2.1 r.2.2.2) vssn ^^^ w64 rows.length)

/-- A paired member's strip closes with its signature, which an injection may strike (23 R365, R366, R375). -/
def closeStrip (s : State) (tid : Nat) (g : Group) (st : Strip) : State :=
  let x := s.proctor.finj.toNat
  let hit := bitOf x 63 && field x 62 59 == 1 && finjThread x == tid
  let s := if hit then finjDone s else s
  let sig := signatureOf g.core.vssn st
  let c : ClosedStrip := {
    strip := st, ssn := g.core.vssn, signature := if hit then sig ^^^ 1 else sig, inj := hit, block := g.block,
    blocks := g.redo.length, gread := g.core.gread, links := g.outgoing,
    consumed := g.buffers.map (fun b => (b.1, (b.2.filter LinkEntry.consumed).length)) }
  s.modGroup tid (fun g =>
    { g with closed := g.closed ++ [c], strip := none, committing := true, outgoing := [],
             core := { g.core with vssn := g.core.vssn + 1 } })

/-- The open strip commits, or closes in a paired member; the flag says whether the group is at its boundary (03 R46,
17 R273). -/
def toBoundary (s : State) (tid : Nat) : State × Bool :=
  match s.thread tid with
  | none => (s, true)
  | some t => match t.group with
    | none => (s, true)
    | some g => match g.strip with
      | none => settleBoundary s tid
      | some st =>
        if g.queue.any (fun op => !op.outside) then (s, false)
        else if t.isPaired then
          if 4 ≤ g.closed.length then (s, false) else settleBoundary (closeStrip s tid g st) tid
        else
          let posts := livePosts s g.posts
          let s := s.modGroup tid (fun g => { g with posts := posts })
          if !posts.isEmpty || !linksHaveRoom s tid g.outgoing then (s, false)
          else
            let s := performStrip s tid st
            let s := s.modGroup tid (fun g => { forgetTrap t g.core.vssn (dropConsumed g) with
              strip := none, core := { (dropConsumed g).core with vssn := g.core.vssn + 1 } })
            settleBoundary s tid

/-- The checkpoint of a group as it stands (03 R47). -/
def checkpointNow (s : State) (v : VCtx) : Checkpoint := { core := v.g.core, cells := laneCells s.lanes v.parts }

/-- A strip opens at a checkpoint (03 R46). -/
def openStrip (s : State) (tid : Nat) (ck : Checkpoint) (grant : Nat) (setvl : Bool) : State :=
  s.modGroup tid (fun g =>
    { g with strip := some { ckpt := ck, effects := [], written := [], flags := 0, k := 0, grant := grant, setvl := setvl } })

/-- Runs a boundary instruction (03 R46, R60): the pending-fragment check, the commit or a wait for it, then its own part, which
starts with the interlocks and pops. A wait or fault after the commit leaves the commit in place (13 R207), and of the rest
only what a poison fault leaves performed (R222). -/
def runBoundary (i : Instr) (s : State) (after : State → VCtx → State × Option Stop) : Out :=
  match s.actor with
  | .sequencer tid =>
    match vctx s tid with
    | none => .fault .noActor
    | some v =>
      if !v.g.core.pending.isEmpty then .next (deliverFault s tid true (faultOf 12 [45, v.iaddr.toNat]))
      else match toBoundary s tid with
        | (s, false) => .next (s.setWaiting (some i))
        | (s, true) => match vctx s tid with
          | none => .next s
          | some v =>
            let r := match prepare s v i with
              | .error e => (s, some e)
              | .ok (s', marks) =>
                let own := match vctx s' tid with
                  | none => (s', none)
                  | some v' => after s' v'
                match operandFault v i marks own.2 with
                | none => own
                | some e => (if own.2 = some e then own.1 else s, some e)
            match r with
            | (s', none) => .next s'
            | (_, some .wait) => .next (s.setWaiting (some i))
            | (s', some (.fault f)) => .next (deliverFault (if f.kind = 6 then s' else s) tid true f)
            | (_, some (.refuse op)) => .refused (.microcodeDefined op)
  | _ => .fault .noActor

/-- A pre-emption stops the group at this boundary (23 R354); `reopen` where the strip that the instruction opens is still to
be opened at resume. A paired member's closed strips come first (23 R370). -/
def stopHere (s : State) (v : VCtx) (reopen : Bool) : State × Option Stop :=
  if v.g.closed.isEmpty then
    ((s.modGroup v.tid (fun g => { g with stop := some true, reopen := reopen, waiting := none })).stampStop v.tid, none)
  else (s, some .wait)

/-- One read of n bytes at an aligned address by the group's vector stream, outside its elements (13 R203, R207): descriptors,
images, tables, watched words. -/
def loadVector (s : State) (v : VCtx) (va n : Nat) : Except Stop (State × Nat) :=
  if va % n ≠ 0 then raise 3 [0, va, 0]
  else match translate s (vecAccessor s v v.home) va .read with
    | .bad c l => .error (.fault (trFault c l .read va 0))
    | .poison ea => .error (.fault (walkFault va 0 ea))
    | .ok pa => match lostNode s pa with
      | some node => .error (.fault { poisonFault va 0 0 with node := some node })
      | none =>
        let s := touchAccess s (vecAccessor s v v.home) va pa n v.t.lnum
        match poisonAt s.sys pa n with
        | some (p, unit) => .error (.fault { poisonFault (va + (p - pa)) 0 unit with hit := some (pa, n) })
        | none => .ok (s, leValue (readOver s v.g pa n))

/-- Several such reads of n bytes each, as one number, lowest first. -/
def loadVectorMany (s : State) (v : VCtx) (va n count : Nat) : Except Stop (State × Nat) :=
  (List.range count).foldlM (fun (acc : State × Nat) i => do
    let (s', x) ← loadVector acc.1 v ((va + n * i) % 2 ^ 64) n
    pure (s', acc.2 + x * 2 ^ (8 * n * i))) (s, 0)

/-- SETVL (13 R207; 03 R46, R50, R52, R53). -/
def execSetvl (f : VFields) (s : State) : Out :=
  runBoundary (.setvl f) s (fun s v =>
    let fn := fnField f
    let ck := checkpointNow s v
    let opened := fun (s : State) (grant : Nat) =>
      let s := openStrip s v.tid ck grant true
      let s := s.modGroup v.tid (fun g =>
        { g with replay := none,
                 core := { g.core with ty := f.ty, sg := BitVec.ofNat 1 (fn 23 23), vl := grant } })
      v.next (v.setW s f.vd (w64 grant)) 8
    match v.g.replay with
    | some grant => (opened s grant, none)
    | none =>
      if v.g.stopping then stopHere s v false
      else
        let req := if fn 20 20 = 1 then fn 15 0 else (v.w f.vs1).toNat
        let avail := v.avail (typeWidth f)
        let exact := fn 22 22 == 1
        if exact && avail < req then (s, some (.fault (faultOf 7 [42, avail, req])))
        else
          let grant := min req avail
          if fn 21 21 = 0 || req = 0 then (opened s grant, none)
          else match loadVector s v (v.w f.vs2).toNat 8 with
            | .error e => (s, some e)
            | .ok (s, p) =>
              let more := (satInt ((p : Int) - (v.w f.vs3).toNat) 0 avail).1.toNat
              let g := min grant more
              if (exact && g == req) || (!exact && 1 ≤ g) then (opened s g, none) else (s, some .wait))

/-- VEND: the block ends (15 R258, 03 R41); a group with nothing queued is then at a boundary, and blocks that wait for it move
at once (03 R39, 11 R193). -/
def execVend (f : VFields) (s : State) : Out :=
  runBoundary (.vend f) s (fun s v =>
    let ended := fun (s : State) =>
      settleIdle ((v.next s 8).modGroup v.tid (fun g => { g with running := false, block := none, replay := none })) (coreOf v.tid)
    if v.g.stopping then
      (if v.g.closed.isEmpty then stopHere (ended s) v false else (s, some .wait))
    else (ended s, none))

/-- BLOCK_START: the idle sequencer takes the next block (03 R41); behind a FENCE.VV it waits for every earlier access of the
group's streams and discards what streams read ahead (07 R123). -/
def execBlockStart (tid : Nat) (s : State) : Out :=
  match s.group tid with
  | none => .next s
  | some g => match g.vblk with
    | [] => .next s
    | b :: rest =>
      let ready := !b.fence || (g.notifies.isEmpty && g.posts.isEmpty && g.closed.isEmpty
        && g.gathers.all (fun x => x.delivered.isSome) && g.noRuns)
      if g.running || g.faulted || g.stopping || g.stop.isSome || !g.issues.isEmpty || !ready then .next s
      else .next (s.modGroup tid (fun g =>
        let w := (g.core.w.set 0 b.ops[0]).set 1 b.ops[1]
        let w := (w.set 2 b.ops[2]).set 3 b.ops[3]
        { g with running := true, block := some b, vblk := rest, redo := if g.closed.isEmpty then [] else g.redo ++ [b], held := if b.fence then [] else g.held,
                 core := { g.core with pc := b.addr, w := w, vl := 0, frag := BitVec.allOnes 65536, pending := [] } }))

/-- A waiting vector instruction executes again from its start (11 R167). -/
def wakeGroup (s : State) (tid : Nat) (redo : Instr → Option (State → Out)) : Out :=
  match s.group tid with
  | none => .next s
  | some g =>
    match g.waiting with
    | none => .next s
    | some i =>
      if g.faulted || g.stop.isSome then .next s
      else match redo i with
        | none => .next s
        | some run => run ({ s with actor := .sequencer tid }.setWaiting none)

/-- WATCH_WAKE: a watched SETVL rereads its word (13 R207). -/
def execWatchWake (tid : Nat) (s : State) : Out :=
  wakeGroup s tid (fun i => match i with
    | .setvl f => some (execSetvl f)
    | _ => none)

/-- NOTIFY_WRITE_PERFORM: the group's oldest committed notify write is performed (13 R212). -/
def execNotifyWritePerform (tid : Nat) (s : State) : Out :=
  match s.thread tid with
  | none => .next s
  | some t => match t.group with
    | none => .next s
    | some g => match g.notifies with
      | [] => .next s
      | n :: rest =>
        let s := s.modGroup tid (fun g => { g with notifies := rest })
        match lostNode s n.pa with
        | some node => .next (lostRoute s node t.lnum true)
        | none => .next (performNotify (touchUnits s n.pa 8 t.lnum) n t.lnum)

/-- QPOST_RESUME: a waiting QPOST executes again, or the next entry of a committed VQPOST is posted (07 R115, 13 R228). Posts of
threads that have ended go on the same way (21 R322). -/
def execQpostResume (tid : Nat) (vec : Bool) (s : State) : Out :=
  if !vec then
    wakeThread s tid (fun i => match i with
      | .qpost rs1 rs2 => some (execQpost rs1 rs2)
      | _ => none)
  else
    let post := fun (s : State) (ps : List PendingPost) => match ps with
      | [] => (s, ([] : List PendingPost))
      | p :: rest => match p.entries with
        | [] => (s, rest)
        | e :: es => match tryPost s p.hole e with
          | (s, true) => (s, if es.isEmpty then rest else { p with entries := es } :: rest)
          | (s, false) => (s, p :: rest)
    match s.group tid with
    | some g =>
      let (s, ps) := post s (livePosts s g.posts)
      .next (s.modGroup tid (fun g => { g with posts := ps }))
    | none =>
      match s.fabric.latePosts.filter (fun p => !(livePosts s [p.2]).isEmpty) with
      | [] => .next { s with fabric := { s.fabric with latePosts := [] } }
      | p :: rest =>
        let (s, ps) := post s [p.2]
        .next { s with fabric := { s.fabric with latePosts := ps.map (fun x => (p.1, x)) ++ rest } }

end Sys2Proof.Machine
end

