-- ==== Sys2Proof/Machine/Access.lean ====
section
/-! DEFINITION. Accesses of vector instructions: checks of active elements, their reads, what joins the strip store buffer and its limit, and the formation of element addresses (03 R48, R49; 07 R105 to R112, R131; 13 R203, R209 to R212). -/

namespace Sys2Proof.Machine

/-! Held effects. -/

/-- Effects of an instruction outside any strip take place at once. -/
def performNow (s : State) (v : VCtx) (es : List Effect) : State :=
  let s := (es.filter Effect.isWrite).foldl (performWrite v.tid v.t.lnum v.t.isShadow) s
  let notes := es.filterMap (fun e => match e with
    | .notify pa va n => if withheld v.t.isShadow va then none else some ({ pa := pa, va := va, count := n } : PendingNotify)
    | _ => none)
  let s := s.modGroup v.tid (fun g => { g with notifies := g.notifies ++ notes })
  let issues := ((s.group v.tid).map Group.issues).getD [] ++ es.filter (fun e => !e.isWrite && !e.isNotify)
  let (s, rest) := issueAll v.tid false issues s
  s.modGroup v.tid (fun g => { g with issues := rest })

/-- Effects join the strip store buffer. One that passes 256 bytes per lane is a strip overflow, whose count runs through the
effect that passes the limit (03 R49; 23 R348); a paired member waits for room that its closed strips hold (23 R366). -/
def VCtx.hold (v : VCtx) (s : State) (es : List Effect) : Except Stop State :=
  match s.group v.tid with
  | none => .ok s
  | some g => match g.strip with
    | none => .ok (performNow s v es)
    | some st =>
      let limit := 256 * v.lanes * v.parts.length
      let total := storedBytes (st.effects ++ es)
      let closed := g.closed.foldl (fun n c => n + storedBytes c.strip.effects) 0
      if limit < total then
        let n := ((List.range es.length).find? (fun k => limit < storedBytes (st.effects ++ es.take (k + 1)))).getD 0
        raise 7 [44, limit, storedBytes (st.effects ++ es.take (n + 1))]
      else if closed ≠ 0 && limit < closed + total then .error .wait
      else .ok (s.modGroup v.tid (fun g => { g with strip := some { st with effects := st.effects ++ es } }))

/-! Checks of active elements. -/

/-- The accessor of element e at width w: the lane's part, or for width 0, which stands for an access that is no element's, the
home part (07 R97, 13 R203). -/
def VCtx.accessor (v : VCtx) (s : State) (w e : Nat) : Accessor :=
  if w = 0 then vecAccessor s v v.home
  else match v.place w e with
  | some (p, _, _) => vecAccessor s v p
  | none => vecAccessor s v v.home

/-- What the check of one piece of an element's access comes to (07 R105). -/
inductive Checked where
  | ok (pa : Nat)
  | misaligned
  | page (cause level : Nat)
  | entry (pa : Nat)
  deriving DecidableEq, Repr

def Checked.passes : Checked → Bool
  | .ok _ => true
  | _ => false

/-- Alignment first, then the scratchpad window where the form needs it, then translation (07 R105, R107; 13 R211). -/
def checkPiece (s : State) (a : Accessor) (k : Access) (window : Bool) (align va : Nat) : Checked :=
  if va % align ≠ 0 then .misaligned
  else if window && !inWindow va then .page 7 0
  else match translate s a va k with
    | .ok pa => .ok pa
    | .bad c l => .page c l
    | .poison ea => .entry ea

/-- Pages that fail, each with its lowest-numbered cause, in the order of the lowest element that touches it (07 R106). -/
def failedPages (fs : List (Nat × Nat × Nat)) : List (Nat × Nat × Nat) :=
  fs.foldl (fun (ps : List (Nat × Nat × Nat)) f =>
    if ps.any (fun p => p.1 == f.1) then ps.map (fun p => if p.1 == f.1 && f.2.1 < p.2.1 then f else p) else ps ++ [f]) []

/-- Checks every piece of every active element. If one fails, the instruction performs nothing and raises the fault of its
lowest failing element (07 R105, R106). The result gives each element its pieces: physical address, virtual address, bytes. -/
def checkElements (s : State) (v : VCtx) (w : Nat) (k : Access) (window : Bool) (align : Nat)
    (xs : List (Nat × List (Nat × Nat))) : Except Stop (List (Nat × List (Nat × Nat × Nat))) :=
  let rs := xs.flatMap (fun x => x.2.map (fun p => (x.1, p.1, p.2, checkPiece s (v.accessor s w x.1) k window align p.1)))
  match rs.find? (fun r => !r.2.2.2.passes) with
  | none => .ok (xs.map (fun x => (x.1, x.2.map (fun p =>
      (match checkPiece s (v.accessor s w x.1) k window align p.1 with
        | .ok pa => pa
        | _ => 0, p.1, p.2)))))
  | some (e, va, _, c) =>
    let f := match c with
      | .misaligned => faultOf 3 [0, va, e]
      | .page cause _ =>
        let pages : List (Nat × Nat × Nat) := failedPages (rs.filterMap (fun (r : Nat × Nat × Nat × Checked) => match r.2.2.2 with
          | .page c l => some (r.2.1 / 65536, c, l)
          | _ => none))
        faultOf (trKind cause) ([va % 2 ^ 56,
            e * 2 ^ 32 + min 8 pages.length * 2 ^ 28 + (if 8 < pages.length then 2 ^ 27 else 0)]
          ++ (pages.take 8).map (fun (p : Nat × Nat × Nat) => pageWord p.2.1 p.2.2 k (p.1 * 65536)))
      | .entry ea => walkFault va e ea
      | .ok _ => poisonFault va e 5
    .error (.fault { f with edie := if w = 0 then none else v.dieOf w e })

/-- Reads the checked pieces of every element in order, seeing the strip's own writes; the lowest element that meets poison
takes its fault (03 R48, 07 R131), also where the strip's own write covers every byte read (DEDUCED, log 42). -/
def fetchElements (s : State) (v : VCtx) (w : Nat) (xs : List (Nat × List (Nat × Nat × Nat))) :
    Except Stop (State × List (Nat × Nat)) :=
  xs.foldlM (fun (acc : State × List (Nat × Nat)) x => do
    let (s, bs) ← x.2.foldlM (fun (a : State × List Byte) p =>
      let fail := fun (f : FaultInfo) => (Except.error (.fault { f with edie := v.dieOf w x.1 }) : Except Stop (State × List Byte))
      match lostNode a.1 p.1 with
      | some node => fail { poisonFault p.2.1 x.1 0 with node := some node }
      | none =>
        let s := touchAccess a.1 (v.accessor a.1 w x.1) p.2.1 p.1 p.2.2 v.t.lnum
        match poisonAt s.sys p.1 p.2.2 with
        | some (q, unit) => fail { poisonFault (p.2.1 + (q - p.1)) x.1 unit with hit := some (p.1, p.2.2) }
        | none => .ok (s, a.2 ++ readOver s v.g p.1 p.2.2)) (acc.1, [])
    pure (s, acc.2 ++ [(x.1, leValue bs)])) (s, [])

/-- A consuming vector load must wait: no granule that it touches is poisoned and one is not full, or a paired member has a
closed strip (07 R112, 23 R369). -/
def mustWait (s : State) (v : VCtx) (xs : List (Nat × List (Nat × Nat × Nat))) : Bool :=
  let states := xs.flatMap (fun x => x.2.flatMap (fun p => (unitsOf 16 p.1 p.2.2).map (fun u => cellGet s.sys.granules u)))
  !v.g.closed.isEmpty || (states.all (fun g => g != gPoison) && !states.all (fun g => g == gFull))

/-! Addresses of elements. -/

/-- The load and store forms: unit stride, stride, indexed (13 R210). -/
inductive MemForm where
  | unit | strided | indexed
  deriving DecidableEq, Repr

/-- The width at which an index of a form is read (13 R206). -/
def indexWidth (iw : Nat) : Nat := if iw = 2 then 64 else 32

/-- X(e) of 13 R210 for the index register VS2. -/
def VCtx.index (v : VCtx) (s : State) (f : VFields) (iw e : Nat) : Int :=
  let x := v.get s f.vs2.toNat (indexWidth iw) e
  if iw = 0 then sext x 32 else x

/-- An address: an integer modulo 2^64 (13 R203). -/
def addr64 (x : Int) : Nat := keep x 64

/-- The pieces of element e of a load or store with its lowest bit in them (13 R209, R210). -/
def VCtx.pieces (v : VCtx) (s : State) (f : VFields) (form : MemForm) (bits e : Nat) : List (Nat × Nat) × Nat :=
  let a : Nat := (v.w f.vs1 + BitVec.ofInt 64 (sext (fnField f 15 0) 16)).toNat
  let size := max 1 (bits / 8)
  match form with
  | .unit => if bits < 8 then packedAt a bits e else ([((a + e * size) % 2 ^ 64, size)], 0)
  | .strided => ([(addr64 (a + e * sext (v.w f.vs2).toNat 64), size)], 0)
  | .indexed =>
    let unit : Nat := if fnField f 16 16 = 1 then size else 1
    ([(addr64 (a + v.index s f (fnField f 18 17) e * unit), size)], 0)

/-- The address of element e of VAMO and VREDM: the base w[VS1] and no offset (13 R222, R223). -/
def VCtx.atomicAddr (v : VCtx) (s : State) (f : VFields) (n e : Nat) : Nat :=
  let unit : Nat := if fnField f 11 11 = 1 then n else 1
  addr64 ((v.w f.vs1).toNat + v.index s f (fnField f 13 12) e * unit)

/-- SG of a typed instruction. -/
def sgOf (f : VFields) : Nat := fnField f 23 23

/-- The rounding mode that an access's conversions count towards k: FMODE, or rne where it performs none (05 R81). -/
def VCtx.convMode (v : VCtx) (f : VFields) : RoundMode :=
  if convRounds v.g.core.mfmt f.ty.toNat (sgOf f) then v.mode 0 else .rne

/-- The checks of an access that MFMT governs: SCL with an integer type, packed elements of a form that takes none (13 R208,
R209). -/
def VCtx.checkFormat (v : VCtx) (f : VFields) (form : MemForm) : Except Stop Unit :=
  if mfmtBad v.g.core.mfmt f.ty.toNat (sgOf f) then v.illegal 8 0
  else if storedBits v.g.core.mfmt f.ty.toNat (sgOf f) < 8 && form != .unit then v.illegal 9 0
  else .ok ()

/-- The alignment of a stored element (07 R107). -/
def storedAlign (bits : Nat) : Nat := max 1 (bits / 8)

/-- A die's microcode provides a feature. -/
def dieProvides (s : State) (x : Feature) (d : Nat) : Bool := if h : d < 4 then (s.proctor.micro[d]).provides x else false

/-- The feature-level fault of an instruction, with the level of the first die that lacks the feature; it belongs to no element
(23 R347, R348; 25 R420). -/
def VCtx.featureFault {α : Type} (v : VCtx) (s : State) (i : Instr) (x : Feature) : Except Stop α :=
  let has := dieProvides s x
  let dies := v.parts.map Part.die
  let die := (dies.find? (fun d => !has d)).getD (tidDie v.tid)
  let level := if h : die < 4 then (s.proctor.micro[die]).level.toNat else 0
  let parcel := ((encode i).head?.map BitVec.toNat).getD 0
  .error (.fault { faultOf 9 [v.iaddr.toNat, parcel, level] with feature := some x })

/-- A feature is provided by every die that the group runs on. -/
def VCtx.provided (v : VCtx) (s : State) (x : Feature) : Bool := v.parts.all (fun p => dieProvides s x p.die)

end Sys2Proof.Machine
end

