-- ==== Sys2Proof/Machine/Array.lean ====
section
/-! DEFINITION. The array: grids and array mode, the operations of the array queue and their results, transposed tile reads, the register-group transpose, chain links, and the events of the array (17 R263 to R286). -/

namespace Sys2Proof.Machine

/-! Grids and layouts. -/

/-- A grid of processing elements (17 R263). -/
structure Grid where
  gr : Nat
  gc : Nat
  deriving DecidableEq, Repr

/-- The grid of a lane count, with its AM code (17 R263). -/
def gridOf (lanes : Nat) : Option (BitVec 2 × Grid) :=
  if lanes = 64 then some (1, ⟨8, 8⟩)
  else if lanes = 128 then some (2, ⟨16, 8⟩)
  else if lanes = 256 then some (3, ⟨16, 16⟩)
  else none

def Grid.rows (g : Grid) : Nat := 8 * g.gr
def Grid.cols (g : Grid) : Nat := 8 * g.gc
def Grid.lanes (g : Grid) : Nat := g.gr * g.gc

/-- The grid of a group's parts; a lane count without one is named by no queued operation. -/
def VCtx.grid (v : VCtx) : Grid := ((gridOf v.lanes).map Prod.snd).getD ⟨8, 8⟩

/-- Element e of a register in the part at a die position (17 R263). -/
def VCtx.at (v : VCtx) (s : State) (p reg w e : Nat) : Nat := v.get s reg w (p * v.vmax w + e)

/-- Where accumulator (i, j) of a tile lies: its register in the tile and its 32-bit element (17 R266). -/
def Grid.accAt (g : Grid) (i j : Nat) : Nat × Nat := (i % 8, j % 8 * g.lanes + (i / 8) * g.gc + j / 8)

/-- Accumulator (i, j) of a tile in the part at a die position. -/
def VCtx.acc (v : VCtx) (s : State) (p tile i j : Nat) : Nat :=
  let (r, e) := v.grid.accAt i j
  v.at s p (tile / 8 * 8 + r) 32 e

/-- Value g of a register group at width w (17 R267). -/
def VCtx.groupAt (v : VCtx) (s : State) (p group w g : Nat) : Nat :=
  v.at s p (group / 8 * 8 + g / v.vmax w) w (g % v.vmax w)

/-- K of 17 R268. -/
def Grid.depth (g : Grid) (w : Nat) : Nat := 256 * g.lanes / (w * g.rows)

/-- kb and KW of 17 R268. -/
def weightsPerLane (w : Nat) : Nat := 256 / w
def Grid.weightDepth (g : Grid) (w : Nat) : Nat := weightsPerLane w * g.gr

/-- Where weight (k, n) of a code of width w lies in a tile in weight layout: its register in the tile and its element
(17 R275). -/
def Grid.weightAt (g : Grid) (w k n : Nat) : Nat × Nat :=
  let pr := k / weightsPerLane w
  let q := k % weightsPerLane w
  let lane := pr * g.gc + n / 8
  let bit := (8 * q + n % 8) * w
  (bit / 256, bit % 256 / w * g.lanes + lane)

/-- One register's new elements in a part: register, width, elements by local index. -/
structure PartWrite where
  reg : Nat
  width : Nat
  elems : List (Nat × Nat)
  deriving DecidableEq, Repr

/-- The positions of an m × n matrix, row by row. -/
def matrix (m n : Nat) : List (Nat × Nat) := (List.range m).flatMap (fun i => (List.range n).map (fun j => (i, j)))

/-- Values gathered by register. -/
def byRegister (w base count : Nat) (xs : List (Nat × Nat × Nat)) : List PartWrite :=
  (List.range count).map (fun r => { reg := base + r, width := w, elems := (xs.filter (fun x => x.1 == r)).map (fun x => x.2) })

/-- A whole tile from its accumulators (17 R266). -/
def Grid.tileWrites (g : Grid) (tile : Nat) (xs : List ((Nat × Nat) × Nat)) : List PartWrite :=
  byRegister 32 (tile / 8 * 8) 8 (xs.map (fun x => let (r, e) := g.accAt x.1.1 x.1.2; (r, e, x.2)))

/-! The accumulation. -/

/-- The steps of one accumulator in increasing k (05 R86, R87; 17 R274). -/
def accumulate (code : Nat) (sub : Bool) (depth : Nat) (a b sa sb : Nat → Nat) (start : Nat) : Nat × Flags :=
  let n := operandStep code
  (List.range (depth / n)).foldl (fun (x : Nat × Flags) i =>
    let (y, f) := arrayStep code sub (sa (n * i)) (sb (n * i)) ((List.range n).map (fun t => (a (n * i + t), b (n * i + t)))) x.1
    (y, x.2 ||| f)) (start, 0#7)

/-- What an array operation does in one part: register elements, flags, and for a chained MPASS what it delivers. -/
structure PartResult where
  writes : List PartWrite
  flags : Flags
  entry : Option LinkEntry
  deriving DecidableEq, Repr

/-- Flags of a list of results. -/
def joinFlags {α : Type} (xs : List (α × Nat × Flags)) : Flags := xs.foldl (fun f x => f ||| x.2.2) 0#7

/-- MOXA and MOXS in one part (17 R274). -/
def outerProduct (f : VFields) (sub : Bool) (s : State) (v : VCtx) (p : Nat) : PartResult :=
  let g := v.grid
  let code := f.ty.toNat
  let w := operandBits code
  let k := g.depth w
  let scale := fun (n : Nat) => if operandMx code then v.at s p f.vs3.toNat 8 n else 127
  let rs := (matrix g.rows g.cols).map (fun x =>
    let start := if fnField f 0 0 = 1 then 0 else v.acc s p f.vd.toNat x.1 x.2
    (x, accumulate code sub k (fun n => v.at s p f.vs1.toNat w (n * g.rows + x.1))
      (fun n => v.at s p f.vs2.toNat w (n * g.cols + x.2))
      (fun n => scale (x.1 * (k / 32) + n / 32))
      (fun n => scale (g.rows * (k / 32) + x.2 * (k / 32) + n / 32)) start))
  { writes := g.tileWrites f.vd.toNat (rs.map (fun r => (r.1, r.2.1))), flags := joinFlags rs, entry := none }

/-- MLDW in one part (17 R275). -/
def loadWeights (f : VFields) (s : State) (v : VCtx) (p : Nat) : PartResult :=
  let g := v.grid
  let w := operandBits f.ty.toNat
  let xs := (matrix (g.weightDepth w) g.cols).map (fun x =>
    let (r, e) := g.weightAt w x.1 x.2
    (r, e, v.groupAt s p f.vs1.toNat w (x.1 * g.cols + x.2)))
  { writes := byRegister w (f.vd.toNat / 8 * 8) 8 xs, flags := 0, entry := none }

/-- MPASS acts in a chain in the part on a die: it takes an upstream entry, it delivers downstream (17 R276). -/
def takesEntry (f : VFields) (g : Group) (die : Nat) : Bool := fnField f 1 1 == 1 && (linksOf g die).up.isSome
def deliversEntry (f : VFields) (g : Group) (die : Nat) : Bool := fnField f 1 1 == 1 && (linksOf g die).down.isSome

/-- MPASS in one part (17 R276, R283). -/
def weightPass (f : VFields) (s : State) (v : VCtx) (op : ArrayOp) (p die : Nat) : PartResult :=
  let g := v.grid
  let code := f.ty.toNat
  let w := operandBits code
  let kw := g.weightDepth w
  let taken := if takesEntry f v.g die then tableGet die op.entries else none
  let scale := fun (n : Nat) => if operandMx code then v.at s p f.vs3.toNat 8 n else 127
  let rs := (matrix g.gc g.cols).map (fun x =>
    let own := if fnField f 0 0 = 1 then v.at s p f.vd.toNat 32 (x.1 * g.cols + x.2) else 0
    let start := match taken with
      | some e => (e.results.getD (x.1 * g.cols + x.2) 0).toNat
      | none => own
    (x, accumulate code false kw (fun k => v.at s p f.vs1.toNat w (x.1 * kw + k))
      (fun k => let (r, e) := g.weightAt w k x.2; v.at s p (f.vs2.toNat / 8 * 8 + r) w e)
      (fun k => scale (x.1 * (kw / 32) + k / 32))
      (fun k => scale (g.gc * (kw / 32) + x.2 * (kw / 32) + k / 32)) start))
  let entry : LinkEntry := {
    results := rs.map (fun r => BitVec.ofNat 32 r.2.1), code := code, lanes := v.lanes,
    hop := (taken.map (fun e => e.hop + 1)).getD 1, consumed := false, dest := (linksOf v.g die).down }
  if deliversEntry f v.g die then { writes := [], flags := joinFlags rs, entry := some entry }
  else
    { writes := [{ reg := f.vd.toNat, width := 32, elems := rs.map (fun r => (r.1.1 * g.cols + r.1.2, r.2.1)) }],
      flags := joinFlags rs, entry := none }

/-- A tile set to zero bits. -/
def Grid.zeroTile (g : Grid) (tile : Nat) : List PartWrite :=
  g.tileWrites tile ((matrix g.rows g.cols).map (fun x => (x, 0)))

/-- MWB in one part (17 R277). -/
def writeBack (f : VFields) (s : State) (v : VCtx) (p : Nat) : PartResult :=
  let g := v.grid
  let xs := (matrix g.rows g.cols).map (fun x =>
    let n := x.1 * g.cols + x.2
    (n / v.vmax 32, n % v.vmax 32, v.acc s p f.vs1.toNat x.1 x.2))
  { writes := byRegister 32 (f.vd.toNat / 8 * 8) 8 xs ++ (if fnField f 0 0 = 1 then g.zeroTile f.vs1.toNat else []),
    flags := 0, entry := none }

/-- The scaling groups of MWB.Q: the index of the scale, the accumulators (17 R278). -/
def Grid.scalingGroups (g : Grid) (grp : Nat) : List (Nat × List (Nat × Nat)) :=
  match grp with
  | 0 => [(0, matrix g.rows g.cols)]
  | 1 => (List.range g.rows).map (fun i => (i, (List.range g.cols).map (fun j => (i, j))))
  | _ => (matrix g.rows (g.cols / 32)).map (fun x =>
      (x.1 * (g.cols / 32) + x.2, (List.range 32).map (fun j => (x.1, 32 * x.2 + j))))

/-- MWB.Q in one part (17 R278; 05 R90, R91). -/
def writeBackQ (f : VFields) (s : State) (v : VCtx) (p : Nat) : PartResult :=
  let g := v.grid
  let code := f.ty.toNat
  let w := operandBits code
  let rs := (g.scalingGroups (fnField f 2 1)).map (fun x =>
    (x, quantise code (x.2.map (fun a => v.acc s p f.vs1.toNat a.1 a.2))))
  let vals := rs.flatMap (fun r => (r.1.2.zip r.2.1).map (fun x =>
    let n := x.1.1 * g.cols + x.1.2
    (n / v.vmax w, n % v.vmax w, x.2)))
  let scales : PartWrite := { reg := f.vs2.toNat, width := 8, elems := rs.map (fun r => (r.1.1, r.2.2.1)) }
  { writes := byRegister w f.vd.toNat (quantRegs f).length vals ++ [scales]
      ++ (if fnField f 0 0 = 1 then g.zeroTile f.vs1.toNat else []),
    flags := rs.foldl (fun fl r => fl ||| r.2.2.2) 0#7, entry := none }

/-- An array operation in the part at a die position (17 R271). -/
def arrayResult (s : State) (v : VCtx) (op : ArrayOp) (p die : Nat) : PartResult :=
  match op.instr with
  | .moxa f => outerProduct f false s v p
  | .moxs f => outerProduct f true s v p
  | .mldw f => loadWeights f s v p
  | .mpass f => weightPass f s v op p die
  | .mwb f => writeBack f s v p
  | .mwbQ f => writeBackQ f s v p
  | _ => { writes := [], flags := 0, entry := none }

/-! Issue. -/

/-- The checks of array mode (17 R265, R270). -/
def VCtx.arrayMode (v : VCtx) : Except Stop Unit :=
  if v.g.core.am = 0 then v.illegal 21 0
  else if (gridOf v.lanes).map Prod.fst ≠ some v.g.core.am then v.illegal 20 0
  else .ok ()

/-- A register lies in a tile. -/
def inTile (x tile : BitVec 6) : Bool := x.toNat / 8 == tile.toNat / 8

/-- The queue takes an array operation, which raises its token; the registers that it writes count now (17 R270, R271; 03
R49). -/
def issueArray (i : Instr) (s : State) (check : VCtx → Except Stop Unit) (writes : VCtx → List Nat) : Out :=
  runVector i s (fun s v => do
    v.arrayMode
    check v
    let s' ← v.touch s (writes v)
    let op : ArrayOp := {
      instr := i, iaddr := v.iaddr, ssn := v.g.core.vssn, outside := v.g.strip.isNone, started := false, entries := [] }
    pure (v.next (s'.modGroup v.tid (fun g => { g with queue := g.queue ++ [op] })) 8))

/-- A source of an outer product inside its tile (17 R270). -/
def moxCheck (f : VFields) (v : VCtx) : Except Stop Unit :=
  if ([f.vs1, f.vs2] ++ (if operandMx f.ty.toNat then [f.vs3] else [])).any (fun x => inTile x f.vd) then v.illegal 15 0
  else .ok ()

/-- MOXA (17 R274). -/
def execMoxa (f : VFields) (s : State) : Out := issueArray (.moxa f) s (moxCheck f) (fun _ => tileRegs f.vd)

/-- MOXS (17 R274). -/
def execMoxs (f : VFields) (s : State) : Out := issueArray (.moxs f) s (moxCheck f) (fun _ => tileRegs f.vd)

/-- MLDW (17 R275). -/
def execMldw (f : VFields) (s : State) : Out := issueArray (.mldw f) s (fun _ => .ok ()) (fun _ => tileRegs f.vd)

/-- MPASS (17 R276): a part with a downstream link writes no register. -/
def execMpass (f : VFields) (s : State) : Out :=
  issueArray (.mpass f) s (fun v =>
    let sources := [f.vs1] ++ (if operandMx f.ty.toNat then [f.vs3] else []) ++ (if fnField f 0 0 = 1 then [f.vd] else [])
    if sources.any (fun x => inTile x f.vs2) then v.illegal 15 0
    else if fnField f 0 0 = 1 && v.parts.any (fun p => takesEntry f v.g p.die) then v.illegal 23 0
    else .ok ()) (fun v => if v.parts.all (fun p => deliversEntry f v.g p.die) then [] else [f.vd.toNat])

/-- MWB (17 R277). -/
def execMwb (f : VFields) (s : State) : Out :=
  issueArray (.mwb f) s (fun v =>
    if fnField f 0 0 = 1 && inTile f.vd f.vs1 then v.illegal 15 0 else .ok ()) (fun _ => vwrites (.mwb f))

/-- MWB.Q (17 R278). -/
def execMwbQ (f : VFields) (s : State) : Out :=
  issueArray (.mwbQ f) s (fun v =>
    let regs := quantRegs f
    if regs.any (fun r => 64 ≤ r || r == f.vs2.toNat) || meets regs (tileRegs f.vs1) then v.illegal 15 0
    else if operandMx f.ty.toNat && fnField f 2 1 ≠ 2 then v.illegal 24 0
    else .ok ()) (fun _ => vwrites (.mwbQ f))

/-! Array mode. -/

/-- VMODE.arr (17 R264). -/
def execVmodeArr (f : VFields) (s : State) : Out :=
  runVector (.vmodeArr f) s (fun s v =>
    match gridOf v.lanes with
    | none => v.illegal 20 0
    | some (am, _) => .ok (v.next (s.modGroup v.tid (fun g => { g with core := { g.core with am := am } })) 8))

/-- VMODE.vec takes the array to recess: no queued operation starts before every started one has completed, and later class-1
instructions wait for that and for every token (17 R264, R285; 15 R233). In vector mode it has no effect. -/
def execVmodeVec (f : VFields) (s : State) : Out :=
  runVector (.vmodeVec f) s (fun s v =>
    .ok (v.next (s.modGroup v.tid (fun g =>
      { g with quiesce := g.quiesce || g.core.am != 0, core := { g.core with am := 0 } })) 8))

/-! Transposed tile reads. -/

/-- The fields of MLDT's w operands (17 R279). -/
structure TileRead where
  base : Nat
  rp : Nat
  tp : Nat
  rot : Nat
  sbase : Nat
  srp : Nat
  drem : Nat
  krem : Nat
  deriving DecidableEq, Repr

def tileRead (a b c : Nat) : TileRead :=
  { base := field a 23 0, rp := field b 63 44, tp := field b 43 24, rot := field b 23 21, sbase := field c 63 40,
    srp := field c 39 24, drem := field c 23 12, krem := field c 11 0 }

/-- One item that MLDT reads: a value of the operand at an index of register vd + h, or a scale, at a scratchpad offset with
the value's lowest bit and its bits. -/
structure TileItem where
  part : Nat
  scale : Bool
  h : Nat
  index : Nat
  off : Nat
  low : Nat
  bits : Nat
  deriving DecidableEq, Repr

/-- The bits of an element of an operand code: 6 of the 8 of its position for codes 5 and 6 (05 R69, R75). -/
def codeBits (code : Nat) : Nat := match operandFormat code with
  | some f => f.bits
  | none => operandBits code

/-- The items of one part inside the edges, in increasing element index: the scales, which count as its element 0 (log 42), then
each index from register to register (17 R280; 07 R105). -/
def tileItems (f : VFields) (g : Grid) (t : TileRead) (p : Nat) : List TileItem :=
  let w := operandBits f.ty.toNat
  let k := g.depth w
  let b := fnField f 16 16 == 1
  let d := if b then g.cols else g.rows
  let vals := (matrix k (min d t.drem)).flatMap (fun x =>
    (List.range (fnField f 15 13 + 1)).filterMap (fun h =>
      if t.krem ≤ h * k + x.1 then none
      else
        let bit := (x.1 * w + 64 * (x.2 % 2 ^ t.rot)) % (k * w)
        some { part := p, scale := false, h := h, index := x.1 * d + x.2, off := t.base + h * t.tp + x.2 * t.rp + bit / 8,
               low := bit % 8, bits := codeBits f.ty.toNat : TileItem }))
  let scales := if !operandMx f.ty.toNat then [] else
    (matrix (min d t.drem) (k / 32)).filterMap (fun x =>
      if t.krem ≤ 32 * x.2 then none
      else some { part := p, scale := true, h := 0, index := (if b then g.rows * (k / 32) else 0) + x.1 * (k / 32) + x.2,
                  off := t.sbase + x.1 * t.srp + x.2, low := 0, bits := 8 : TileItem })
  scales ++ vals

/-- MLDT (17 R279, R280). -/
def execMldt (f : VFields) (s : State) : Out :=
  runVector (.mldt f) s (fun s v => do
    let code := f.ty.toNat
    let mx := operandMx code
    let gm := fnField f 15 13 + 1
    let sreg := fnField f 23 18
    match gridOf v.lanes with
    | none => v.illegal 20 0
    | some (am, g) =>
      if v.g.core.am ≠ 0 && v.g.core.am ≠ am then v.illegal 20 0
      else if 64 < f.vd.toNat + gm || (mx && f.vd.toNat ≤ sreg && sreg < f.vd.toNat + gm) then v.illegal 15 0
      else if mx && gm ≠ 1 then v.illegal 22 0
      else
        let a := (v.w f.vs1).toNat
        let b := (v.w f.vs2).toNat
        let c := (v.w f.vs3).toNat
        let t := tileRead a b c
        if field a 63 24 ≠ 0 || field b 20 0 ≠ 0 || (!mx && field c 63 24 ≠ 0) then v.illegal 2 0
        else match [t.base, t.rp, t.tp].find? (fun x => x % 16 != 0) with
          | some x => raise 3 [0, x, 0]
          | none => do
            let w := operandBits code
            let items := (List.range v.parts.length).flatMap (tileItems f g t)
            let elem := fun (i : TileItem) => i.part * v.vmax w + (if i.scale then 0 else i.index)
            let xs ← checkElements s v w .read true 1
              (items.map (fun i => (elem i, [((windowBase + i.off) % 2 ^ 56, max 1 (i.bits / 8))])))
            if fnField f 12 12 = 1 && !items.isEmpty && mustWait s v xs then .error .wait
            else do
              let (s', raws) ← fetchElements s v w xs
              let got := (items.zip raws).map (fun x => (x.1, field x.2.2 (x.1.low + x.1.bits - 1) x.1.low))
              let find := fun (p : Nat) (scale : Bool) (h n : Nat) =>
                (got.find? (fun x => x.1.part == p && x.1.scale == scale && x.1.h == h && x.1.index == n)).map Prod.snd
              let d := if fnField f 16 16 = 1 then g.cols else g.rows
              let first := if fnField f 16 16 = 1 then g.rows * (g.depth w / 32) else 0
              let s' ← (List.range gm).foldlM (fun (s : State) h =>
                v.write s (f.vd.toNat + h) w ((List.range v.parts.length).flatMap (fun p =>
                  (List.range (v.vmax w)).map (fun n => (p * v.vmax w + n, (find p false h n).getD 0))))) s'
              let s' ← (if mx then
                  v.write s' sreg 8 ((List.range v.parts.length).flatMap (fun p =>
                    (List.range (d * (g.depth w / 32))).map (fun n =>
                      (p * v.vmax 8 + first + n, (find p true 0 (first + n)).getD 127))))
                else pure s')
              pure (v.next s' 8))

/-! The register-group transpose. -/

/-- VTRN8 (17 R281). -/
def execVtrn8 (f : VFields) (s : State) : Out :=
  runVector (.vtrn8 f) s (fun s v =>
    match gridOf v.lanes with
    | none => v.illegal 20 0
    | some (_, g) => do
      v.widths [32]
      if v.vl = 0 then pure (v.next s 8)
      else do
        let rho := v.vmax 32 / g.cols
        let side := fun (p : Nat) => min g.cols ((min (v.vmax 32) (v.vl - p * v.vmax 32) + rho - 1) / rho)
        let s' ← v.touch s (tileRegs f.vd)
        let moves := (List.range v.parts.length).flatMap (fun p => (matrix (side p) (side p)).map (fun x =>
          let n := x.1 * g.cols + x.2
          (n / v.vmax 32, p * v.vmax 32 + n % v.vmax 32, v.groupAt s p f.vd.toNat 32 (x.2 * g.cols + x.1))))
        let s' := (List.range 8).foldl (fun (s : State) r =>
          v.putElems s (f.vd.toNat / 8 * 8 + r) 32 ((moves.filter (fun m => m.1 == r)).map (fun m => m.2))) s'
        pure (v.next s' 8))

/-! Chains. -/

/-- Two compute dies share an edge (01 R14). -/
def shareEdge (a b : Nat) : Bool := a != b && a + b != 3

/-- The part that a member names belongs to the form of a thread (17 R282). -/
def sameForm (s : State) (t : Thread) (m : Member) : Bool :=
  let core := 48 * m.die + 8 * m.clu + m.core
  m.clu < 6 && (match memberPart s m with
    | none => false
    | some (q, d) => match s.thread q with
      | none => false
      | some u => u.lnum == t.lnum && u.form == t.form
          && (partsOf q u).any (fun p => p.die == d && p.core == core && p.slot == m.slot && p.lanes != 0))

/-- The clusters of a thread's instance of its form. -/
def formClusters (s : State) (t : Thread) : List Nat :=
  match (s.kernel t.lnum).bind (fun k => tableGet t.form k.forms) with
  | none => []
  | some f => if t.isShadow then f.place.shadow else f.place.clusters

/-- The member that a chain coordinate names: in a shadow, the shadow's agent that matches the lead's (23 R364). -/
def memberFor (s : State) (t : Thread) (m : Member) : Member :=
  match t.isShadow, (s.kernel t.lnum).bind (fun k => tableGet t.form k.forms) with
  | true, some f => match (f.place.clusters.zip f.place.shadow).find? (fun x => x.1 == 6 * m.die + m.clu) with
    | some x => { m with die := x.2 / 6, clu := x.2 % 6 }
    | none => m
  | _, _ => m

/-- A named member may stand at the end of a link of a part (17 R282). -/
def chainPartnerOk (s : State) (t : Thread) (p : Part) (m : Member) : Bool :=
  let core := 48 * m.die + 8 * m.clu + m.core
  sameForm s t m
    && ((core / 8 == p.core / 8 && core != p.core) || (shareEdge m.die p.die && (formClusters s t).contains (core / 8)))

/-- The member in the fields of MCHAIN's word above bit `lo` (17 R282). -/
def memberIn (x lo : Nat) : Member :=
  { die := field x (lo + 10) (lo + 9), clu := field x (lo + 8) (lo + 6), core := field x (lo + 5) (lo + 3),
    slot := field x (lo + 2) lo }

/-- A word of MCHAIN that breaks 17 R282. -/
def chainWordBad (x parts : Nat) : Bool :=
  field x 62 58 != 0 || field x 31 0 != 0 || (!bitOf x 57 && field x 56 46 != 0) || (!bitOf x 45 && field x 44 34 != 0)
    || (!bitOf x 63 && field x 62 34 != 0) || parts ≤ field x 33 32

/-- MCHAIN (17 R282). -/
def execMchain (f : VFields) (s : State) : Out :=
  runVector (.mchain f) s (fun s v =>
    if !v.g.queue.isEmpty then .error .wait
    else if v.g.core.am ≠ 0 && (gridOf v.lanes).map Prod.fst ≠ some v.g.core.am then v.illegal 20 0
    else
      let x := (v.w f.vs1).toNat
      if chainWordBad x v.parts.length then v.illegal 2 0
      else match v.parts[field x 33 32]? with
        | none => v.illegal 2 0
        | some p =>
          let up := if bitOf x 57 then some (memberFor s v.t (memberIn x 46)) else none
          let down := if bitOf x 45 then some (memberFor s v.t (memberIn x 34)) else none
          if (up.toList ++ down.toList).any (fun m => !chainPartnerOk s v.t p m) then raise 2 [33, v.iaddr.toNat]
          else
            let links := if bitOf x 63 then tablePut p.die { up := up, down := down } v.g.core.links
              else tableDel p.die v.g.core.links
            .ok (v.next (s.modGroup v.tid (fun g => { g with core := { g.core with links := links } })) 8))

/-! Events of the array. -/

/-- The dies whose parts still need a link-buffer entry for an operation (17 R283). -/
def entriesMissing (v : VCtx) (op : ArrayOp) : List Nat :=
  match op.instr with
  | .mpass f => (v.parts.map Part.die).filter (fun d => takesEntry f v.g d && (tableGet d op.entries).isNone)
  | _ => []

/-- Replaces the first operation of the queue that has not started. -/
def modFirstUnstarted (f : ArrayOp → ArrayOp) : List ArrayOp → List ArrayOp
  | [] => []
  | op :: rest => if op.started then op :: modFirstUnstarted f rest else f op :: rest

/-- ARRAY_OP_START: the next queued operation starts, unless the array rests, a recess is asked for, or it is held above 105 °C
(17 R285, 01 R31). -/
def execArrayOpStart (tid : Nat) (s : State) : Out :=
  match vctx s tid with
  | none => .next s
  | some v => match v.g.queue.find? (fun op => !op.started) with
    | none => .next s
    | some op =>
      if v.g.recess || v.g.quiesce || v.g.stop.isSome || s.sched.hot || !(entriesMissing v op).isEmpty then .next s
      else .next (s.modGroup tid (fun g => { g with queue := modFirstUnstarted (fun op => { op with started := true }) g.queue }))

/-- Elements of a part written where they lie in the whole register. -/
def VCtx.putPart (v : VCtx) (s : State) (p : Nat) (x : PartWrite) : State :=
  v.putElems s x.reg x.width (x.elems.map (fun e => (p * v.vmax x.width + e.1, e.2)))

/-- What an operation has written enters the checkpoints taken after its issue: an operation issued outside any strip belongs to
none of the strips open or closed since (03 R47, 17 R273). -/
def intoCheckpoints (s : State) (v : VCtx) (op : ArrayOp) : State :=
  match s.group v.tid with
  | none => s
  | some g =>
    let regs := vwrites op.instr
    let mine := fun (k : Nat) => regs.contains (k / 256 % 64)
    let now := (laneCells s.lanes v.parts).vregs.filter (fun e => mine e.1)
    let fix := fun (ck : Checkpoint) =>
      if op.before ck then
        { core := { ck.core with tags := ck.core.tags.filter (fun e => !regs.contains (e.1 % 64))
              |> (fun t => (g.core.tags.filter (fun e => regs.contains (e.1 % 64))).foldl (fun t e => tablePut e.1 e.2 t) t) },
          cells := { ck.cells with vregs := cellsJoin (ck.cells.vregs.filter (fun e => !mine e.1)) now } : Checkpoint }
      else ck
    let strip := fun (st : Strip) => { st with ckpt := fix st.ckpt }
    s.modThread v.tid (fun t => { t with
      loader := t.loader.map (fun h => { h with ckpt := fix h.ckpt }),
      group := t.group.map (fun g => { g with
        strip := g.strip.map strip, closed := g.closed.map (fun c => { c with strip := strip c.strip }) }) })

/-- ARRAY_OP_COMPLETE: the oldest operation's completion arrives; its results stand in every part, its flags and what it delivers
wait for the commit of its strip, its token is lowered (17 R271, R274). Of an operation issued outside any strip the flags are
merged at once, and what it delivers goes on as the link buffer has room (log 16). -/
def execArrayOpComplete (tid : Nat) (s : State) : Out :=
  match vctx s tid with
  | none => .next s
  | some v => match v.g.queue with
    | [] => .next s
    | op :: rest =>
      if !op.started then .next s
      else
        let rs := v.parts.zipIdx.map (fun x => (x.2, x.1.die, arrayResult s v op x.2 x.1.die))
        let s' := rs.foldl (fun (s : State) r => r.2.2.writes.foldl (fun (s : State) x => v.putPart s r.1 x) s) s
        let fl := rs.foldl (fun (fl : Flags) r => fl ||| r.2.2.flags) 0#7
        let add := fun (o : Table (List LinkEntry)) => rs.foldl (fun (o : Table (List LinkEntry)) r => match r.2.2.entry with
          | some e => tablePut r.2.1 ((tableGet r.2.1 o).getD [] ++ [e]) o
          | none => o) o
        if op.outside then
          let s' := mergeFlags (intoCheckpoints s' v op) tid fl
          .next (pushLeaving (s'.modGroup tid (fun g => { g with queue := rest, leaving := add g.leaving })) tid)
        else .next ((v.flags s' fl).modGroup tid (fun g => { g with queue := rest, outgoing := add g.outgoing }))

/-- ARRAY_RECESS: the array rests once every started operation has completed: until the resume of a stopped group, and else only
at this moment, after which what is queued may start (17 R285). -/
def execArrayRecess (tid : Nat) (s : State) : Out :=
  match s.group tid with
  | none => .next s
  | some g =>
    if g.queue.all (fun op => !op.started) then
      .next (s.modGroup tid (fun g => { g with recess := g.recess || g.stop.isSome, quiesce := false }))
    else .next s

/-- The fault of an entry that meets a chained MPASS in the part on a die (17 R283). -/
def entryFaultCode (v : VCtx) (f : VFields) (die : Nat) (e : LinkEntry) : Option Nat :=
  if e.code ≠ f.ty.toNat || e.lanes ≠ v.lanes then some 25
  else if e.hop = 4 && deliversEntry f v.g die then some 26
  else none

/-- Marks the first entry not yet consumed; for an operation outside any strip (`gone`) the entry leaves the buffer at once. -/
def consumeFirst (gone : Bool) : List LinkEntry → List LinkEntry
  | [] => []
  | e :: rest => if e.consumed then e :: consumeFirst gone rest else if gone then rest else { e with consumed := true } :: rest

/-- Results that upstream members still hold back enter the buffers of a group's parts, as far as there is room (17 R283). -/
def pullUpstream (s : State) (tid : Nat) : State :=
  match s.group tid with
  | none => s
  | some g => g.core.links.foldl (fun s e => match e.2.up.bind (memberPart s) with
    | some (q, _) => pushLeaving s q
    | none => s) s

/-- CHAIN_ENTRY_CONSUME: the next queued operation, a chained MPASS, takes the oldest entry not yet consumed in each part with an
upstream link (17 R283). -/
def execChainEntryConsume (tid : Nat) (s : State) : Out :=
  let s := pullUpstream s tid
  match vctx s tid with
  | none => .next s
  | some v => match v.g.queue.find? (fun op => !op.started) with
    | none => .next s
    | some op => match op.instr with
      | .mpass f =>
        let found := (entriesMissing v op).filterMap (fun d =>
          ((tableGet d v.g.buffers).bind (fun b => b.find? (fun e => !e.consumed))).map (fun e => (d, e)))
        if v.g.stop.isSome then .next s
        else match found.findSome? (fun x => entryFaultCode v f x.1 x.2) with
          | some code =>
            .next (deliverFault s tid true (faultOf 1 [code, op.iaddr.toNat, 0]))
          | none => .next (s.modGroup tid (fun g =>
              { g with buffers := found.foldl (fun (b : Table (List LinkEntry)) x => tableMod x.1 (consumeFirst op.outside) b) g.buffers,
                       queue := modFirstUnstarted (fun op =>
                         { op with entries := found.foldl (fun (t : Table LinkEntry) x => tablePut x.1 x.2 t) op.entries }) g.queue }))
      | _ => .next s

end Sys2Proof.Machine
end

