-- ==== Sys2Proof/Machine/VectorMemory.lean ====
section
/-! DEFINITION. Vector memory instructions: loads, stores, packed streams, bindings, gathers, copies, atomics, reductions, windows, lane slices and posts, and the events of streams and gathers (13 R198 to R229). -/

namespace Sys2Proof.Machine

/-! Loads and stores. -/

/-- A vector load (13 R210, R211). -/
def vectorLoad (i : Instr) (f : VFields) (form : MemForm) (s : State) : Out :=
  runVector i s (fun s v => do
    let m := v.convMode f
    if v.vl = 0 then pure (v.next (v.counted s m) 8)
    else do
      v.checkFormat f form
      let w := typeWidth f
      let mf := v.g.core.mfmt
      let bits := storedBits mf f.ty.toNat (sgOf f)
      v.widths (w :: (if form = .indexed then [indexWidth (fnField f 18 17)] else []))
      let window := fnField f 21 20 == 1
      let es := v.active s f w
      let xs ← checkElements s v w .read window (storedAlign bits) (es.map (fun e => (e, (v.pieces s f form bits e).1)))
      if window && !es.isEmpty && mustWait s v xs then .error .wait
      else do
        let (s', raws) ← fetchElements s v w xs
        let rs := raws.map (fun r =>
          let x := field r.2 ((v.pieces s f form bits r.1).2 + bits - 1) (v.pieces s f form bits r.1).2
          (r.1, convLoad mf f.ty.toNat (sgOf f) (v.rounding (v.mode 0) r.1 0) x))
        let s' ← v.write s' f.vd.toNat w (rs.map (fun r => (r.1, r.2.1)))
        let s' := v.flags s' (rs.foldl (fun g r => g ||| r.2.2) 0#7)
        pure (v.next (v.counted s' m) 8))

/-- Stores of one instruction, those of one byte merged where they follow one another (13 R209). -/
def mergeStores (es : List Effect) : List Effect :=
  es.foldr (fun e rest => match e, rest with
    | .store lane pa va 1 x m fill, .store _ pb _ 1 y n _ :: tail =>
      if pa = pb && m != 255 then .store lane pa va 1 ((x &&& (255 - n)) ||| (y &&& n)) (m ||| n) fill :: tail else e :: rest
    | _, _ => e :: rest) []

/-- The lane that an element's write goes through (11 R185). -/
def VCtx.laneOf (v : VCtx) (w e : Nat) : Nat :=
  match v.place w e with
  | some (p, lane, _) => p.core * 256 + lane
  | none => 0

/-- The stores that element e makes at its checked pieces, a converted value lying from bit `sh` of the first (13 R209,
R210). -/
def elementStores (v : VCtx) (w bits e sh value : Nat) (fill : Bool) (ps : List (Nat × Nat × Nat)) : List Effect :=
  let x := value % 2 ^ bits * 2 ^ sh
  let m := (2 ^ bits - 1) * 2 ^ sh
  ps.zipIdx.map (fun (y : (Nat × Nat × Nat) × Nat) =>
    let n := y.1.2.2
    .store (v.laneOf w e) y.1.1 y.1.2.1 n (field x (8 * n * y.2 + 8 * n - 1) (8 * n * y.2))
      (field m (8 * n * y.2 + 8 * n - 1) (8 * n * y.2)) fill)

/-- A vector store; with NT it holds a notify write of the count of active elements (13 R210 to R212). -/
def vectorStore (i : Instr) (f : VFields) (form : MemForm) (s : State) : Out :=
  runVector i s (fun s v => do
    let m := v.convMode f
    if v.vl = 0 then pure (v.next (v.counted s m) 8)
    else do
      v.checkFormat f form
      let w := typeWidth f
      let mf := v.g.core.mfmt
      let bits := storedBits mf f.ty.toNat (sgOf f)
      v.widths (w :: (if form = .indexed then [indexWidth (fnField f 18 17)] else []))
      let fill := fnField f 21 20 == 3
      let es := v.active s f w
      let xs ← checkElements s v w .write fill (storedAlign bits) (es.map (fun e => (e, (v.pieces s f form bits e).1)))
      let word := (v.w f.vd).toNat
      let notes ← (if fnField f 19 19 = 1 && !es.isEmpty then do
          let ps ← checkElements s v 0 (.atomic false) false 8 [(0, [(word, 8)])]
          let pa := (ps.flatMap (fun x => x.2.map (fun p => p.1))).headD 0
          pure [Effect.notify pa word es.length]
        else pure [])
      let rs := xs.map (fun x =>
        let y := v.get s f.vs3.toNat w x.1
        (x, convStore mf f.ty.toNat (sgOf f) (v.rounding (v.mode 0) x.1 0) y))
      let stores := mergeStores (rs.flatMap (fun r =>
        elementStores v w bits r.1.1 (v.pieces s f form bits r.1.1).2 r.2.1 fill r.1.2))
      let s' ← v.hold s (stores ++ notes)
      let s' := v.flags s' (rs.foldl (fun g r => g ||| r.2.2) 0#7)
      pure (v.next (v.counted s' m) 8))

/-- VLD (13 R210). -/
def execVld (f : VFields) (s : State) : Out := vectorLoad (.vld f) f .unit s

/-- VLDS (13 R210). -/
def execVlds (f : VFields) (s : State) : Out := vectorLoad (.vlds f) f .strided s

/-- VLDX (13 R210). -/
def execVldx (f : VFields) (s : State) : Out := vectorLoad (.vldx f) f .indexed s

/-- VST (13 R210). -/
def execVst (f : VFields) (s : State) : Out := vectorStore (.vst f) f .unit s

/-- VSTS (13 R210). -/
def execVsts (f : VFields) (s : State) : Out := vectorStore (.vsts f) f .strided s

/-- VSTX (13 R210). -/
def execVstx (f : VFields) (s : State) : Out := vectorStore (.vstx f) f .indexed s

/-! Packed streams. -/

/-- Element width in a packed stream: 6-bit types at their own width (13 R213). -/
def packedWidth (f : VFields) : Nat := (typeOf f.ty.toNat (sgOf f)).bits

/-- A block header that breaks 13 R213. -/
def blockBad (w h : Nat) : Bool :=
  let mode := field h 31 30
  let cnt := field h 29 21
  let bw := field h 20 14
  mode == 3 || field h 13 0 != 0 || cnt == 0 || 256 < cnt || w < bw || (bw != 0 && mode != 2)

/-- Bits of a block's payload, and the block's bytes (13 R213). -/
def blockPayload (w h : Nat) : Nat :=
  let cnt := field h 29 21
  match field h 31 30 with
  | 0 => cnt * w
  | 1 => 0
  | _ => 8 * ((w + 7) / 8) + cnt * field h 20 14

def blockSize (w h : Nat) : Nat := alignUp (4 + (blockPayload w h + 7) / 8) 4

/-- The elements of a block from its payload (13 R213). -/
def blockElems (w h payload : Nat) : List Nat :=
  let bw := field h 20 14
  (List.range (field h 29 21)).map (fun k =>
    match field h 31 30 with
    | 0 => field payload (k * w + w - 1) (k * w)
    | 1 => 0
    | _ =>
      let at' := 8 * ((w + 7) / 8) + k * bw
      (payload + (payload >>> at') % 2 ^ bw) % 2 ^ w)

/-- The loop of VLDZ (13 R214): elements in order, bytes used. A block takes at least one element, so VL + 1 rounds end it. -/
def packedLoop (v : VCtx) (w a lim : Nat) : Nat → State → List Nat → Nat → Except Stop (State × List Nat × Nat)
  | 0, s, out, used => .ok (s, out, used)
  | fuel + 1, s, out, used =>
    if lim < used + 4 then .ok (s, out, used)
    else do
      let at' := (a + used) % 2 ^ 64
      let (s, h) ← loadVector s v at' 4
      if blockBad w h then v.illegal 10 at'
      else if lim < used + blockSize w h || v.vl < out.length + field h 29 21 then pure (s, out, used)
      else do
        let (s, p) ← loadVectorMany s v ((at' + 4) % 2 ^ 64) 4 (blockSize w h / 4 - 1)
        packedLoop v w a lim fuel s (out ++ blockElems w h p) (used + blockSize w h)

/-- VLDZ (13 R213, R214). Another version than 1 is the microcode's (25 R420; log 15). -/
def execVldz (f : VFields) (s : State) : Out :=
  runVector (.vldz f) s (fun s v =>
    let ver := fnField f 7 0
    if ver = 0 then v.illegal 0 0
    else if ver ≠ 1 then (if v.provided s (.vldz ver) then .error (.refuse 0x08) else v.featureFault s (.vldz f) (.vldz ver))
    else if v.vl = 0 then .ok (v.next (v.setW s f.vs3 0) 8)
    else do
      let w := typeWidth f
      v.widths [w]
      let a := (v.w f.vs1).toNat
      if a % 4 ≠ 0 then raise 3 [0, a, 0]
      else do
        let (s', out, used) ← packedLoop v (packedWidth f) a (v.w f.vs2).toNat (v.vl + 1) s [] 0
        let s' ← v.write s' f.vd.toNat w (out.zipIdx.map (fun x => (x.2, x.1)))
        let s' := s'.modGroup v.tid (fun g => { g with core := { g.core with vl := out.length } })
        pure (v.next (v.setW s' f.vs3 (w64 used)) 8))

/-! Stream registers and background gathers. -/

/-- A pending gather of a register is discarded, for good once the strip commits (13 R215, R217). -/
def dropGather (s : State) (v : VCtx) (reg : Nat) : State :=
  if v.g.gathers.any (fun x => x.reg == reg) then
    s.modGroup v.tid (fun g =>
      if g.strip.isSome then { g with core := { g.core with gread := setAdd reg g.core.gread } }
      else { g with gathers := g.gathers.filter (fun x => x.reg != reg) })
  else s

/-- The 88-byte descriptor breaks 13 R215. -/
def bindingBad (ws : List Nat) : Bool :=
  let w := fun k => ws.getD k 0
  let n := w 1
  let ext := fun d => field (w (2 + d / 2)) (32 * (d % 2) + 31) (32 * (d % 2))
  field (w 0) 63 56 != 0 || n == 0 || 6 < n
    || (List.range 6).any (fun d => if d < n then ext d == 0 else ext d != 0 || w (5 + d) != 0)

/-- VBIND (13 R215). -/
def execVbind (f : VFields) (s : State) : Out :=
  runVector (.vbind f) s (fun s v =>
    let reg := f.vd.toNat
    let va := (v.w f.vs1).toNat
    if reg < 48 then v.illegal 6 0
    else do
      v.checkFormat f .strided
      if va % 8 ≠ 0 then raise 3 [0, va, 0]
      else do
        let (s', x) ← loadVectorMany s v va 8 11
        let ws := (List.range 11).map (fun k => field x (64 * k + 63) (64 * k))
        if bindingBad ws then v.illegal 3 va
        else
          let n := ws.getD 1 0
          let st : Stream := {
            base := field (ws.getD 0 0) 55 0,
            exts := (List.range n).map (fun d => field (ws.getD (2 + d / 2) 0) (32 * (d % 2) + 31) (32 * (d % 2))),
            strs := (List.range n).map (fun d => sext (ws.getD (5 + d) 0) 64),
            ty := f.ty.toNat, sg := sgOf f, mfmt := v.g.core.mfmt, pos := 0, slot := none }
          let s' := (dropGather s' v reg).modGroup v.tid (fun g =>
            { g with held := tableDel reg g.held, core := { g.core with
                streams := tablePut reg st g.core.streams, gmark := g.core.gmark.filter (fun m => m.1 != reg) } })
          pure (v.next s' 8))

/-- VUNBIND: the register reads zero from then on (13 R217). -/
def execVunbind (f : VFields) (s : State) : Out :=
  runVector (.vunbind f) s (fun s v =>
    let reg := f.vd.toNat
    if reg < 48 then v.illegal 6 0
    else
      let bound := (tableGet reg v.g.core.streams).isSome
      let pending := v.g.gathers.any (fun x => x.reg == reg && !v.g.core.gread.contains reg)
      if bound || pending then
        let s := (dropGather (v.clearReg s reg) v reg).modGroup v.tid (fun g =>
          { g with held := tableDel reg g.held,
                   core := { g.core with streams := tableDel reg g.core.streams,
                                         gmark := g.core.gmark.filter (fun m => m.1 != reg) } })
        .ok (v.next s 8)
      else .ok (v.next s 8))

/-- The address of element n of a binding's sequence (13 R215). -/
def Stream.addr (st : Stream) (n : Nat) : Nat :=
  let (x, _) := (st.exts.zip st.strs).foldl (fun (acc : Int × Nat) e => (acc.1 + (acc.2 % e.1 : Nat) * e.2, acc.2 / e.1))
    ((st.base : Int), n)
  addr64 x

/-- STREAM_REFILL: the engine reads the next position of a bound register; what fails marks the slot (13 R216, 07 R131). -/
def execStreamRefill (tid reg : Nat) (s : State) : Out :=
  match vctx s tid with
  | none => .next s
  | some v => match tableGet reg v.g.core.streams with
    | none => .next s
    | some st =>
      let h := (tableGet reg v.g.held).getD []
      let n := st.pos + h.length
      if st.slot.isSome || st.extent ≤ n then .next s
      else
        let va := st.addr n
        let size := max 1 (storedBits st.mfmt st.ty st.sg / 8)
        let put := fun (s : State) (x : Nat × Option Mark) =>
          Host.Outcome.next (s.modGroup tid (fun g => { g with held := tablePut reg (h ++ [x]) g.held }))
        if va % size ≠ 0 then put s (0, some { kind := 3, va := va, info := 0 })
        else match translate s (vecAccessor s v v.home) va .read with
          | .bad c l => put s (0, some { kind := trKind c, va := va, info := 4 * c + l })
          | .poison ea => put (logWalk s ea v.t.lnum) (0, some { kind := 6, va := va, info := 5 })
          | .ok pa =>
            match lostNode s pa with
            | some n => put (lostRoute s n v.t.lnum false) (0, some { kind := 6, va := va, info := 0 })
            | none =>
              let s := touchAccess s (vecAccessor s v v.home) va pa size v.t.lnum
              match poisonAt s.sys pa size with
              | some (p, unit) => put s (0, some { kind := 6, va := va + (p - pa), info := unit })
              | none => put s (s.numAt pa size, none)

/-- VGATHERB (13 R218). -/
def execVgatherb (f : VFields) (s : State) : Out :=
  runVector (.vgatherb f) s (fun s v =>
    let reg := f.vd.toNat
    let m := v.convMode f
    if reg < 48 then v.illegal 6 0
    else if v.vl = 0 then .ok (v.next (v.counted s m) 8)
    else do
      v.checkFormat f .indexed
      let w := typeWidth f
      let iw := fnField f 18 17
      v.widths [w, indexWidth iw]
      let mf := v.g.core.mfmt
      let bits := storedBits mf f.ty.toNat (sgOf f)
      let es := v.active s f w
      let xs ← checkElements s v w .read false (storedAlign bits) (es.map (fun e => (e, (v.pieces s f .indexed bits e).1)))
      let idx := es.map (fun e => (e, v.index s f iw e))
      let dup := fun e => idx.any (fun x => x.1 < e && idx.any (fun y => y.1 == e && x.2 == y.2))
      let s' := v.putMask s w f.vs3.toNat ((List.range v.vl).map (fun e => (e, dup e)))
      let job : Gather := {
        reg := reg,
        addrs := (List.range v.vl).map (fun e =>
          (xs.find? (fun x => x.1 == e)).bind (fun x => x.2.head?.map (fun p => (p.1, p.2.1)))),
        ty := f.ty.toNat, sg := sgOf f, mfmt := mf, fmode := v.fmode,
        rand := (List.range v.vl).map (fun e => (v.rounding (v.mode 0) e 0).rand), delivered := none }
      let s' ← v.hold s' [.gather v.iaddr [v.w f.vs1] job]
      pure (v.next (v.counted s' m) 8))

/-- GATHER_DELIVERY: a pending gather has read every address; what meets poison is marked (13 R218, 07 R131). -/
def execGatherDelivery (tid reg : Nat) (s : State) : Out :=
  match s.thread tid with
  | none => .next s
  | some t => match t.group with
    | none => .next s
    | some g => match g.gathers.find? (fun x => x.reg == reg && x.delivered.isNone) with
      | none => .next s
      | some x =>
        let size := max 1 (storedBits x.mfmt x.ty x.sg / 8)
        let (s, vals) := x.addrs.foldl (fun (acc : State × List (Nat × Option Mark)) a =>
          match a with
          | none => (acc.1, acc.2 ++ [(0, none)])
          | some (pa, va) =>
            match lostNode acc.1 pa with
            | some n => (lostRoute acc.1 n t.lnum false, acc.2 ++ [(0, some { kind := 6, va := va, info := 0 })])
            | none =>
              let s := touchUnits acc.1 pa size t.lnum
              match poisonAt s.sys pa size with
              | some (p, unit) => (s, acc.2 ++ [(0, some { kind := 6, va := va + (p - pa), info := unit })])
              | none => (s, acc.2 ++ [(s.numAt pa size, none)])) (s, [])
        .next (s.modGroup tid (fun g => { g with gathers := g.gathers.map (fun y =>
          if y.reg = reg && y.delivered.isNone then { y with delivered := some vals } else y) }))

/-- SBAR: what the named registers read ahead is dropped at commit (13 R219, 07 R125). -/
def execSbar (f : VFields) (s : State) : Out :=
  runVector (.sbar f) s (fun s v => do
    let s' ← v.hold s [.sbar (fnField f 15 0) (fnField f 23 16)]
    pure (v.next s' 8))

/-- VCOPY (13 R220). -/
def execVcopy (f : VFields) (s : State) : Out :=
  runVector (.vcopy f) s (fun s v =>
    let va := (v.w f.vs1).toNat
    if va % 16 ≠ 0 then raise 3 [0, va, 0]
    else do
      let (s', x) ← loadVectorMany s v va 8 6
      let words := fun (n x : Nat) => (List.range n).map (fun k => field x (64 * k + 63) (64 * k))
      let ws := words 6 x
      let n := 2 * min 8 (field (ws.getD 5 0) 3 0)
      let (s', y) ← loadVectorMany s' v ((va + 48) % 2 ^ 64) 8 n
      let ws := ws ++ words n y
      if copyBad ws then v.illegal 3 va
      else match copyMisaligned ws with
        | some x => raise 3 [0, x, 0]
        | none => do
          let s' ← v.hold s' [.copy v.iaddr [v.w f.vs1] (copyOf ws)]
          pure (v.next s' 8))

/-- VSETMF (13 R208). -/
def execVsetmf (f : VFields) (s : State) : Out :=
  runVector (.vsetmf f) s (fun s v =>
    let x := v.w f.vs1
    if mfmtIllegal x then v.illegal 8 0
    else .ok (v.next (s.modGroup v.tid (fun g => { g with core := { g.core with mfmt := x } })) 8))

/-! Atomics and memory reductions. -/

/-- The checked elements of VAMO: element, physical and virtual address (13 R222). -/
def vamoElements (f : VFields) (s : State) (v : VCtx) : Except Stop (List (Nat × Nat × Nat)) := do
  let n := if f.ty = 14 then 4 else 8
  let w := 8 * n
  v.widths [w, indexWidth (fnField f 13 12)]
  let es := v.active s f w
  let xs ← checkElements s v w (.atomic (fnField f 22 19 == 10)) false n (es.map (fun e => (e, [(v.atomicAddr s f n e, n)])))
  pure (xs.filterMap (fun x => x.2.head?.map (fun p => (x.1, p.1, p.2.1))))

/-- VAMO's elements in increasing order, from the values of the registers before it; an element given a value takes it instead
of performing. A poison fault leaves the elements below it performed (13 R222, 07 R131). -/
def vamoPerform (f : VFields) (v : VCtx) (before : State) (given : List (Nat × Nat)) :
    List (Nat × Nat × Nat) → State → List (Nat × Nat) → State × List (Nat × Nat) × Option Stop
  | [], s, out => (s, out, none)
  | (e, pa, va) :: rest, s, out =>
    let n := if f.ty = 14 then 4 else 8
    let w := 8 * n
    match given.find? (fun x => x.1 == e) with
    | some x => vamoPerform f v before given rest s (out ++ [x])
    | none =>
      let s := touchAccess s (v.accessor s w e) va pa n v.t.lnum
      match poisonAt s.sys pa n, lostNode s pa with
      | some (p, unit), _ => (s, out, some (.fault { poisonFault (va + (p - pa)) e unit with edie := v.dieOf w e }))
      | none, some node => (s, out, some (.fault { poisonFault va e 0 with edie := v.dieOf w e, node := some node }))
      | none, none =>
        let old := s.numAt pa n
        let s := match amoNew (fnField f 22 19) n old (v.get before f.vs3.toNat w e) (v.get before f.vd.toNat w e) with
          | some x => s.store pa (leBytes n x) false
          | none => s
        vamoPerform f v before given rest s (out ++ [(e, old)])

/-- What ends VAMO: the results stand in vd, and a new strip opens with the same VL, or a pre-emption stops the group before
it opens (13 R222, 03 R46, 23 R354). -/
def vamoFinish (f : VFields) (v : VCtx) (s : State) (out : List (Nat × Nat)) : State × Option Stop :=
  let w := if f.ty = 14 then 32 else 64
  let s := v.next (v.putElems s f.vd.toNat w out) 8
  match vctx s v.tid with
  | none => (s, none)
  | some v' =>
    if v'.g.stopping then stopHere s v' true
    else (openStrip s v.tid (checkpointNow s v') v.vl false, none)

/-- ORD asks for release, in FN[15:14]; acquire needs nothing here, since a later access of the stream is a later step
(13 R222, 07 R124). -/
def releases (f : VFields) : Bool := 2 ≤ fnField f 15 14

/-- VAMO (13 R222; 23 R366, R367): with release it waits until the entries of earlier VQPOSTs are posted, which are accesses of
the vector stream (07 R121). A paired member first waits for its closed strips; where an address leaves the scratchpad
window, it waits for the other member's VAMO. -/
def execVamo (f : VFields) (s : State) : Out :=
  runBoundary (.vamo f) s (fun s v =>
    if !v.g.closed.isEmpty || (releases f && !v.g.posts.isEmpty) then (s, some .wait)
    else match vamoElements f s v with
      | .error e => (s, some e)
      | .ok xs =>
        if v.t.isPaired && xs.any (fun x => x.2.2 < windowBase) then (s, some .wait)
        else match vamoPerform f v s [] xs s [] with
          | (s', out, some e) => (v.putElems s' f.vd.toNat (if f.ty = 14 then 32 else 64) out, some e)
          | (s', out, none) => vamoFinish f v s' out)

/-- VREDM (13 R223). -/
def execVredm (f : VFields) (s : State) : Out :=
  runVector (.vredm f) s (fun s v =>
    if v.vl = 0 then .ok (v.next s 8)
    else do
      let w := typeWidth f
      v.widths [w, indexWidth (fnField f 13 12)]
      let n := w / 8
      let es := v.active s f w
      let xs ← checkElements s v w (.atomic false) false n (es.map (fun e => (e, [(v.atomicAddr s f n e, n)])))
      let effects := xs.flatMap (fun x => x.2.map (fun p =>
        Effect.redm (v.laneOf w x.1) p.1 p.2.1 n f.ty.toNat (sgOf f) (fnField f 22 19) (v.get s f.vs3.toNat w x.1) v.fmode))
      let s' ← v.hold s effects
      pure (v.next s' 8))

/-! Accumulation windows. -/

/-- The identity of a window's operation (13 R224). -/
def windowIdentity (ty sg op : Nat) : Nat :=
  match typeOf ty sg with
  | .flt f => if op = 4 then f.inf false else if op = 5 then f.inf true else 0
  | .int s w =>
    let (lo, hi) := intRange s w
    if op = 4 then keep hi w else if op = 5 then keep lo w else 0

/-- The lanes of every part in lane order: core and lane (13 R226). -/
def VCtx.allLanes (v : VCtx) : List (Nat × Nat) :=
  v.parts.flatMap (fun p => (List.range p.lanes).map (fun l => (p.core, p.base + l)))

/-- VWIN (13 R224). -/
def execVwin (f : VFields) (s : State) : Out :=
  runVector (.vwin f) s (fun s v =>
    let n := typeWidth f / 8
    let off := (v.w f.vs1).toNat
    let bins := (v.w f.vs2).toNat
    if off % n ≠ 0 || bins = 0 || 4096 < off + bins * n then raise 3 [40, off, 0]
    else do
      let win : Window := { off := off, bins := bins, ty := f.ty.toNat, sg := sgOf f, op := fnField f 22 19 }
      let one := windowIdentity win.ty win.sg win.op
      let effects := v.allLanes.flatMap (fun l => (List.range bins).map (fun b => Effect.slice l.1 l.2 (off + b * n) n one false))
      let s' ← v.hold s effects
      pure (v.next (s'.modGroup v.tid (fun g => { g with core := { g.core with window := some win } })) 8))

/-- The group's window, or the faults of 13 R225. -/
def needWindowOf (v : VCtx) (f : VFields) : Except Stop Window :=
  match v.g.core.window with
  | none => v.illegal 13 0
  | some win => if win.ty = f.ty.toNat && win.sg = sgOf f then .ok win else v.illegal 12 0

/-- The poison fault of a lane-slice access (07 R130, R131; log 23). -/
def slicePoisoned (s : State) (core lane off n : Nat) : Option Nat :=
  ((unitsOf 8 off n).find? (fun u => s.sys.slicePoison.contains (sliceKey core lane u))).map (fun u => max off (8 * u))

/-- VACC (13 R225): each element's bin in its lane, in increasing e. -/
def execVacc (f : VFields) (s : State) : Out :=
  runVector (.vacc f) s (fun s v =>
    if v.vl = 0 then .ok (v.next s 8)
    else do
      let win ← needWindowOf v f
      let w := typeWidth f
      let n := w / 8
      v.widths [w, 32]
      let es := v.active s f w
      match es.find? (fun e => win.bins ≤ v.get s f.vs1.toNat 32 e) with
      | some e =>
        .error (.fault { faultOf 3 [41, win.off + v.get s f.vs1.toNat 32 e * n, e] with edie := v.dieOf w e })
      | none => do
        let (cells, fl) ← es.foldlM (fun (acc : Table Nat × Flags) e =>
          let off := win.off + v.get s f.vs1.toNat 32 e * n
          let key := v.laneOf w e * 4096 + off
          let core := v.laneOf w e / 256
          let lane := v.laneOf w e % 256
          match slicePoisoned s core lane off n with
          | some p => .error (.fault { poisonFault p e 3 with edie := v.dieOf w e })
          | none =>
            let old := (tableGet key acc.1).getD (readSlice s v.g core lane off n)
            let (x, g) := reduceOp win.ty win.sg win.op v.fmode old (v.get s f.vs2.toNat w e)
            .ok (tablePut key x acc.1, acc.2 ||| g)) ([], 0#7)
        let s' ← v.hold s (cells.map (fun c => .slice (c.1 / 4096 / 256) (c.1 / 4096 % 256) (c.1 % 4096) n c.2 true))
        pure (v.next (v.flags s' fl) 8))

/-- VMERGE (13 R226). -/
def execVmerge (f : VFields) (s : State) : Out :=
  runVector (.vmerge f) s (fun s v => do
    let win ← needWindowOf v f
    let n := typeWidth f / 8
    let a : Nat := (v.w f.vs1 + BitVec.ofInt 64 (sext (fnField f 15 0) 16)).toNat
    let xs ← checkElements s v 0 (.atomic false) false n [(0, (List.range win.bins).map (fun b => ((a + b * n) % 2 ^ 64, n)))]
    let ps := xs.flatMap (fun x => x.2)
    match v.allLanes.findSome? (fun l => slicePoisoned s l.1 l.2 win.off (win.bins * n)) with
    | some p => .error (.fault (poisonFault p 0 3))
    | none => do
      let folded := (List.range win.bins).map (fun b =>
        match v.allLanes with
        | [] => (0, 0#7)
        | l :: rest =>
          let bin := fun (l : Nat × Nat) => readSlice s v.g l.1 l.2 (win.off + b * n) n
          rest.foldl (fun (acc : Nat × Flags) m =>
            let (x, g) := reduceOp win.ty win.sg win.op v.fmode acc.1 (bin m)
            (x, acc.2 ||| g)) (bin l, 0#7))
      let lane := v.home.core * 256 + v.home.base
      let effects := (ps.zip folded).map (fun x =>
        Effect.redm lane x.1.1 x.1.2.1 n win.ty win.sg win.op x.2.1 v.fmode)
      let s' ← v.hold s effects
      pure (v.next (v.flags s' (folded.foldl (fun g x => g ||| x.2) 0#7)) 8))

/-! Lane slices. -/

/-- The checked offset of element e of VLDL and VSTL: range, then alignment (07 R107, R108; 13 R227). -/
def sliceOffset (f : VFields) (s : State) (v : VCtx) (w e : Nat) : Except Stop Nat :=
  let off := v.get s f.vs1.toNat 32 e + fnField f 15 0
  if 4096 ≤ off then .error (.fault { faultOf 3 [40, off, e] with edie := v.dieOf w e })
  else if off % (w / 8) ≠ 0 then .error (.fault { faultOf 3 [0, off, e] with edie := v.dieOf w e })
  else .ok off

/-- VLDL (13 R227). -/
def execVldl (f : VFields) (s : State) : Out :=
  runVector (.vldl f) s (fun s v =>
    if v.vl = 0 then .ok (v.next s 8)
    else do
      let w := typeWidth f
      v.widths [w, 32]
      let es := v.active s f w
      let offs ← es.mapM (fun e => (sliceOffset f s v w e).map (fun o => (e, o)))
      let rs ← offs.mapM (fun x =>
        let core := v.laneOf w x.1 / 256
        let lane := v.laneOf w x.1 % 256
        match slicePoisoned s core lane x.2 (w / 8) with
        | some p => .error (.fault { poisonFault p x.1 3 with edie := v.dieOf w x.1 })
        | none => .ok (x.1, readSlice s v.g core lane x.2 (w / 8) % 2 ^ (typeOf f.ty.toNat (sgOf f)).bits))
      let s' ← v.write s f.vd.toNat w rs
      pure (v.next s' 8))

/-- VSTL (13 R227); bits [7:6] of a 6-bit element are written as zero (05 R69). -/
def execVstl (f : VFields) (s : State) : Out :=
  runVector (.vstl f) s (fun s v =>
    if v.vl = 0 then .ok (v.next s 8)
    else do
      let w := typeWidth f
      v.widths [w, 32]
      let es := v.active s f w
      let offs ← es.mapM (fun e => (sliceOffset f s v w e).map (fun o => (e, o)))
      let s' ← v.hold s (offs.map (fun x =>
        .slice (v.laneOf w x.1 / 256) (v.laneOf w x.1 % 256) x.2 (w / 8)
          (v.get s f.vs3.toNat w x.1 % 2 ^ (typeOf f.ty.toNat (sgOf f)).bits) true))
      pure (v.next s' 8))

/-! Pigeonhole posts. -/

/-- VQPOST (13 R228; 11 R186, R187). -/
def execVqpost (f : VFields) (s : State) : Out :=
  runVector (.vqpost f) s (fun s v =>
    let a := v.agent s
    let n := fnField f 8 0
    match readHandle a (v.w f.vs1) with
    | none => v.illegal 2 0
    | some hole => do
      needHole s a hole mayPost Hole.tail .write
      if 32 * v.lanes * v.parts.length < 64 * n then v.illegal 11 0
      else do
        let byte := fun k => BitVec.ofNat 8 (v.get s f.vs2.toNat 8 k)
        let entries := (List.range n).map (fun j => (List.range 64).map (fun k => byte (64 * j + k)))
        let s' ← v.hold s [.post v.iaddr [v.w f.vs1, w64 n] hole (s.hole hole).gen.toNat (v.w f.vs1) entries]
        pure (v.next s' 8))

end Sys2Proof.Machine
end

