-- ==== Sys2Proof/Machine/Pairs.lean ====
section
/-! DEFINITION. Paired execution of lane groups: the exchange of signatures, what a match commits, mismatches, and VAMO outside the scratchpad (23 R364 to R370, R426). -/

namespace Sys2Proof.Machine

/-- The consumed entries at the front of a link buffer that a strip took. -/
def dropTaken : Nat → List LinkEntry → List LinkEntry
  | 0, es => es
  | _ + 1, [] => []
  | n + 1, e :: es => if e.consumed then dropTaken n es else e :: dropTaken (n + 1) es

/-- What a matched strip leaves of its group: nothing of what it consumed, in later checkpoints too (23 R366, 17 R283). -/
def afterMatch (t : Thread) (c : ClosedStrip) (was : Bool) (g : Group) : Group :=
  let keepReg := fun (r : Nat) => !c.gread.contains r
  let trim := fun (k : GroupCore) => { k with gread := k.gread.filter keepReg }
  let trimStrip := fun (st : Strip) => { st with ckpt := { st.ckpt with core := trim st.ckpt.core } }
  let taken := fun (d : Nat) => (tableGet d c.consumed).getD 0
  let rest := g.closed.drop 1
  let n := (rest.head?.map ClosedStrip.blocks).getD g.redo.length
  let later := rest.map (fun d => { d with
    strip := trimStrip d.strip, blocks := d.blocks - n, gread := d.gread.filter keepReg,
    consumed := d.consumed.map (fun e => (e.1, e.2 - taken e.1)) })
  let g := { g with
    closed := later, strip := g.strip.map trimStrip, core := trim g.core, redo := g.redo.drop n, committing := was,
    gathers := g.gathers.filter (fun x => keepReg x.reg), leaving := joinEntries g.leaving c.links,
    buffers := g.buffers.map (fun b => (b.1, dropTaken (taken b.1) b.2)), mismatches := 0 }
  let cores := g.core :: (later.map (fun d => d.strip.ckpt.core) ++ (g.strip.map (fun st => st.ckpt.core)).toList)
  forgetTrap t c.ssn (unbindRuns cores g)

/-- A matched strip commits in a member (23 R366). -/
def commitClosed (s : State) (tid : Nat) (c : ClosedStrip) : State :=
  match s.thread tid with
  | none => s
  | some t => match t.group with
    | none => s
    | some g =>
      let s := (performStrip s tid c.strip).modGroup tid (afterMatch t c g.committing)
      (settleBoundary s tid).1

/-- A member can commit its oldest closed strip: what earlier strips left to do is done. -/
def commitFree (s : State) (tid : Nat) (g : Group) : Bool :=
  g.issues.isEmpty && g.leaving.isEmpty && (livePosts s g.posts).isEmpty
    && (g.closed.head?.map (fun c => linksHaveRoom s tid c.links)).getD true

/-- A strip whose signatures differ (23 R370, R373, R426). -/
def mismatch (s : State) (lead shadow : Nat) (lnum : Nat) (g h : Group) (c d : ClosedStrip) : State :=
  let s := s.logRecord 3 (c.inj || d.inj) 0 11 (tidDie shadow) (tidClu shadow) (tidCore shadow) c.ssn
  if 2 ≤ g.mismatches then
    let s := s.machineCheck 0x83 true true (some shadow) 0 (vcpOf h) c.ssn lnum
      [w64 (coordBits lead), c.signature, d.signature] (c.inj || d.inj)
    endKernel s lnum 5 0
  else
    let s := rollbackPair (rollbackPair s lead) shadow
    s.modGroup lead (fun g => { g with mismatches := g.mismatches + 1 })

/-- PAIR_SIGNATURE_EXCHANGE: the oldest closed strips of both members are compared (23 R366, R370). -/
def execPairSignatureExchange (lead : Nat) (s : State) : Out :=
  match s.thread lead with
  | none => .next s
  | some t => match t.role with
    | .lead shadow => match t.group, s.group shadow with
      | some g, some h => match g.closed, h.closed with
        | c :: _, d :: _ =>
          if !commitFree s lead g || !commitFree s shadow h then .next s
          else if c.ssn = d.ssn && c.signature = d.signature then
            .next (commitClosed (commitClosed s lead c) shadow d)
          else .next (mismatch s lead shadow t.lnum g h c d)
        | _, _ => .next s
      | _, _ => .next s
    | _ => .next s

/-! VAMO outside the scratchpad. -/

/-- A member waits in a VAMO with nothing to commit first: its fields, the machine and the context with the instruction's pops
done, its elements. -/
def vamoReady (s : State) (tid : Nat) : Option (VFields × State × VCtx × List (Nat × Nat × Nat)) :=
  match s.group tid with
  | none => none
  | some g => match g.waiting, g.closed with
    | some (.vamo f), [] => match toBoundary s tid with
      | (s, true) => match vctx s tid with
        | none => none
        | some v => match prepare s v (.vamo f) with
          | .error _ => none
          | .ok (_, _ :: _) => none
          | .ok (s, []) => match vctx s tid with
            | none => none
            | some v => match vamoElements f s v with
              | .ok xs => some (f, s, v, xs)
              | .error _ => none
      | _ => none
    | _, _ => none

/-- What the members compare of a VAMO: the elements that leave the scratchpad window, with their addresses and operands. -/
def vamoExternal (f : VFields) (s : State) (v : VCtx) (xs : List (Nat × Nat × Nat)) : List (Nat × Nat × Nat × Nat × Nat) :=
  let w := if f.ty = 14 then 32 else 64
  (xs.filter (fun x => x.2.2 < windowBase)).map (fun x =>
    (x.1, x.2.1, x.2.2, v.get s f.vs3.toNat w x.1, v.get s f.vd.toNat w x.1))

/-- One member's part of a matched VAMO: its own elements, or the values given (23 R367). -/
def vamoMember (f : VFields) (s : State) (v : VCtx) (given : List (Nat × Nat)) (xs : List (Nat × Nat × Nat)) :
    State × List (Nat × Nat) :=
  let s := s.modGroup v.tid (fun g => { g with waiting := none })
  match vamoPerform f v s given xs s [] with
  | (s', out, some (.fault x)) => (deliverFault (v.putElems s' f.vd.toNat (if f.ty = 14 then 32 else 64) out) v.tid true x, out)
  | (s', out, some _) => (s', out)
  | (s', out, none) => ((vamoFinish f v s' out).1, out)

/-- External events of the members did not match; `inj` where an injection struck one of them (23 R368, R375, R426). -/
def eventMismatch (s : State) (lead shadow lnum : Nat) (iaddr : Word) (no : Nat) (inj : Bool) : State :=
  let s := s.machineCheck 0x84 true true (some shadow) iaddr 0 0 lnum [w64 (coordBits lead), w64 no] inj
  endKernel s lnum 5 0

/-- Both members wait in the same VAMO: the lead performs its elements once, and the shadow takes the lead's results (23 R367);
none where they do not both wait in one. -/
def matchVamo (s : State) (lead shadow lnum : Nat) : Option State :=
  match vamoReady s lead with
  | none => none
  | some (f, s1, v, xs) => match vamoReady s1 shadow with
    | none => none
    | some (h, s2, u, ys) =>
      let mine := vamoExternal f s2 v xs
      if f ≠ h || (mine.map (fun x => (x.1, x.2.2)) ≠ (vamoExternal h s2 u ys).map (fun x => (x.1, x.2.2))) then
        some (eventMismatch s lead shadow lnum u.iaddr ((s.thread lead).map Thread.eventNo |>.getD 0) false)
      else
        let (s3, out) := vamoMember f s2 v [] xs
        if (s3.thread shadow).isNone then some s3
        else some (vamoMember h s3 u (out.filter (fun o => mine.any (fun x => x.1 == o.1))) ys).1

end Sys2Proof.Machine
end

