-- ==== Sys2Proof/Machine/Services.lean ====
section
/-! DEFINITION. The Proctor's memory and services: frames, translation tables, regions, ALLOC to LOGEV, demand mapping, invalidation, walks, and the external events of pairs (25 R401 to R404; 07 R99 to R104; 21 R339; 23 R343, R368). -/

namespace Sys2Proof.Machine

/-! Frames. -/

/-- The first number from k that a table does not list. -/
def firstFree {α : Type} (k : Nat) : Table α → Nat
  | [] => k
  | (j, _) :: rest => if j < k then firstFree k rest else if j = k then firstFree (k + 1) rest else k

/-- The frames of a die: 95 times 1,024 of 2 MiB below its protected region (25 R377, R404). -/
def dieFrames (die : Nat) : Nat × Nat := (die * 0x20000, die * 0x20000 + 97280)

/-- A free frame of a die (log 9). -/
def freeFrame (s : State) (die : Nat) : Option Nat :=
  let k := firstFree (dieFrames die).1 s.proctor.frames
  if k < (dieFrames die).2 then some k else none

/-- The first of 1,024 free frames of a die that a 2 GiB page can take. -/
def freeFrames (s : State) (die : Nat) : Option Nat :=
  ((List.range 95).map (fun i => (dieFrames die).1 + 1024 * i)).find?
    (fun k => s.proctor.frames.all (fun f => f.1 < k || k + 1024 ≤ f.1))

/-- The tags of a frame's lines leave the shared cache without write-back (25 R404). -/
def dropLines (sys : MemSys) (k : Nat) : MemSys :=
  let lines := sys.cache.flatMap (fun c => c.2.tags.filterMap (fun t => if t.1 / 16384 = k then some t.1 else none))
  { lines.foldl evictTag sys with poison := sys.poison }

/-- A domain takes a frame: written zero, its lines evicted (25 R404). -/
def claimFrame (s : State) (dom : Nat) (nsh : Bool) (k : Nat) : State :=
  let sys := dropLines s.sys k
  let sys := { sys with mem := cellsWhere sys.mem (fun a => a / 0x200000 != k),
                        poison := sys.poison.filter (fun l => l / 16384 != k) }
  { s with sys := sys, proctor := { s.proctor with frames := tablePut k { dom := dom, nsh := nsh } s.proctor.frames } }

/-- A released frame (25 R404). -/
def releaseFrame (s : State) (k : Nat) : State :=
  { s with sys := dropLines s.sys k, proctor := { s.proctor with frames := tableDel k s.proctor.frames } }

/-- The frame or frames of a page: the die's own, or else the lowest die's that has them (25 R401). -/
def takePage (s : State) (dom die page : Nat) (nsh : Bool) : Option (State × Nat) :=
  let dies := die :: (List.range 4).filter (fun d => d != die)
  if page = 2 then
    (dies.findSome? (freeFrames s)).map (fun k => ((List.range 1024).foldl (fun s i => claimFrame s dom nsh (k + i)) s, k * 0x200000))
  else (dies.findSome? (freeFrame s)).map (fun k => (claimFrame s dom nsh k, k * 0x200000))

/-! Translation tables: the Proctor makes them in the protected region of die 0 (25 R377, R404; log 9). -/

/-- A table of a level, all zero. -/
def takeTable (s : State) (level : Nat) : Option (State × Nat) :=
  let size := if level = 0 then 65536 else 2 ^ tableBits (level - 1)
  let at' := alignUp s.proctor.tableNext size
  if at' + size ≤ 0x80000000 then
    some ({ s with proctor := { s.proctor with tableNext := at' + size } }, 0x2F80000000 + at')
  else none

/-- The level whose leaf maps a page of an encoded size (07 R100, 25 R401): 0 64 KiB, 1 2 MiB, 2 2 GiB. -/
def leafLevel (page : Nat) : Nat := 3 - page

/-- Bytes of a page of an encoded size. -/
def pageSize (page : Nat) : Nat := 2 ^ pageBits (leafLevel page)

/-- A leaf (07 R101): readable, and as the flags say. -/
def leafWord (pa : Nat) (wr ex nsh : Bool) : Nat :=
  pa + 1 + 4 + (if wr then 8 else 0) + (if ex then 16 else 0) + (if nsh then 2 ^ 52 else 0)

/-- Writes a leaf at a level, with the tables above it where they are absent (07 R100, R102). -/
def writeLeaf (va target leaf : Nat) : Nat → State → Nat → Nat → Option State
  | 0, _, _, _ => none
  | fuel + 1, s, base, level =>
    let ea := base + 8 * tableIndex va level
    if level = target then some (s.store ea (leBytes 8 leaf) false)
    else
      let e := readNat s.sys.mem ea 8
      if bitOf e 0 then (if bitOf e 1 then writeLeaf va target leaf fuel s (field e 51 8 * 256) (level + 1) else none)
      else match takeTable s (level + 1) with
        | none => none
        | some (s, t) => writeLeaf va target leaf fuel (s.store ea (leBytes 8 (t + 3)) false) t (level + 1)

/-- The address of a page's leaf entry with its level, where it has one. -/
def leafAt (m : Memory) (va : Nat) : Nat → Nat → Nat → Option (Nat × Nat)
  | 0, _, _ => none
  | fuel + 1, base, level =>
    let ea := base + 8 * tableIndex va level
    let e := readNat m ea 8
    if !bitOf e 0 then none
    else if bitOf e 1 then leafAt m va fuel (field e 51 8 * 256) (level + 1)
    else some (ea, level)

/-- The root table of a domain. -/
def domRoot (s : State) (dom : Nat) : Option Nat := (tableGet dom s.proctor.domains).map Domain.root

/-- Maps the page of a region that holds an address, at frames of a die; an existing leaf stays (25 R402). -/
def mapOne (s : State) (r : Region) (root die va : Nat) : Option State :=
  let page := va / pageSize r.page * pageSize r.page
  if (leafAt s.sys.mem page 4 root 0).isSome then some s
  else match takePage s r.dom die r.page r.nsh with
    | none => none
    | some (s, pa) => writeLeaf page (leafLevel r.page) (leafWord pa r.wr r.ex r.nsh) 4 s root 0

/-- Maps every page of a region; pages of 64 KiB share frames, 32 to a frame. -/
def mapAll (s : State) (r : Region) (root : Nat) : Option State :=
  let size := pageSize r.page
  (((List.range (r.len / size)).foldlM (fun (acc : State × Nat) i =>
    let put := fun (s : State) (pa : Nat) =>
      (writeLeaf (r.base + size * i) (leafLevel r.page) (leafWord pa r.wr r.ex r.nsh) 4 s root 0).map (fun s => (s, pa))
    if r.page = 0 && i % 32 ≠ 0 then put acc.1 (acc.2 + size)
    else (takePage acc.1 r.dom r.die r.page r.nsh).bind (fun x => put x.1 x.2)) (s, 0)) : Option (State × Nat)).map Prod.fst

/-! Regions. -/

/-- The page that no region may hold (19 R310). -/
def loaderPage : Nat := 0x00FFFFFFFEFF0000

def overlaps (a n b m : Nat) : Bool := a < b + m && b < a + n

/-- Ranges of a domain's address space that are taken: regions, images, ranges under invalidation. -/
def takenRanges (s : State) (dom : Nat) : List (Nat × Nat) :=
  s.proctor.regions.filterMap (fun r => if r.dom = dom then some (r.base, r.len) else none)
    ++ s.proctor.images.flatMap (fun e => if e.2.dom = dom then e.2.sections else [])
    ++ s.sys.invalidations.filterMap (fun i => if i.dom = dom then some (i.lo, i.hi - i.lo) else none)

/-- A range that a region may take. -/
def baseFits (s : State) (dom base len : Nat) : Bool :=
  base + len ≤ windowBase && !overlaps base len loaderPage 65536
    && (takenRanges s dom).all (fun r => !overlaps base len r.1 r.2)

/-- The base that ALLOC gives a region: the fabric's own choice where that fits, else the lowest that follows a taken range;
never 0 (25 R401; log 9). -/
def chooseBase (s : State) (dom len size : Nat) : Option Nat :=
  let cands := [size, alignUp (loaderPage + 65536) size]
    ++ (takenRanges s dom).map (fun r => alignUp (r.1 + r.2) size)
  let wish := Config.allocBase s.tick / size * size
  if wish ≠ 0 && baseFits s dom wish len then some wish
  else (cands.filter (fun b => b != 0 && baseFits s dom b len)).foldl (fun (m : Option Nat) b => match m with
    | some x => some (min x b)
    | none => some b) none

/-- A region joins a domain's address space: mapped now, or on demand where LAZY (25 R401, R402). -/
def addRegion (s : State) (r : Region) : Option State :=
  match domRoot s r.dom with
  | none => none
  | some root =>
    (if r.lazy then some s else mapAll s r root).map (fun s =>
      { s with proctor := { s.proctor with regions := s.proctor.regions ++ [r] } })

/-- The threads that are resident, and those of stopped forms. -/
def allThreads (s : State) : List Thread :=
  s.threads.map Prod.snd ++ s.sched.kernels.flatMap (fun k => k.2.forms.flatMap (fun f => f.2.saved.map SavedThread.thread))

/-- A page of a domain holds part of the satchel of a form that is resident or stopped, so that it is pinned (23 R357; log 13). -/
def satchelPinned (s : State) (dom va size : Nat) : Bool :=
  (allThreads s).any (fun t =>
    (trCtx s t).dom == dom && overlaps va size (field t.satb.toNat 55 16 * 65536) (field t.satb.toNat 15 0 * 65536))

/-- Removes the leaf of a page, adding its frames to a list. -/
def dropLeaf (acc : State × List Nat) (root va : Nat) : State × List Nat :=
  match leafAt acc.1.sys.mem va 4 root 0 with
  | none => acc
  | some (ea, level) =>
    let pa := field (readNat acc.1.sys.mem ea 8) 51 8 * 256
    let mine := (List.range ((2 ^ pageBits level + 0x1FFFFF) / 0x200000)).map (fun j => pa / 0x200000 + j)
    (acc.1.store ea (leBytes 8 0) false, mine.foldl (fun fs k => setAdd k fs) acc.2)

/-- Removes the leaves of a range, whose frames an invalidation then releases (25 R402); a page that a satchel pins keeps its leaf
until the invalidation can complete (23 R357). -/
def unmapRange (s : State) (dom base len page : Nat) (seq : Option Nat) (last : Bool) : State :=
  match domRoot s dom with
  | none => s
  | some root =>
    let size := pageSize page
    let pages := (List.range ((len + size - 1) / size)).map (fun i => base + size * i)
    let kept := pages.filter (fun va => satchelPinned s dom va size)
    let (s, frames) := (pages.filter (fun va => !kept.contains va)).foldl (fun acc va => dropLeaf acc root va) (s, [])
    let i : Invalidation := { dom := dom, lo := base, hi := base + len, release := frames, kept := kept.map (fun va => (va, size)), seq := seq, last := last }
    { s with sys := { s.sys with invalidations := s.sys.invalidations ++ [i] } }

/-- Removes a whole region, none where there is no such region (25 R401). -/
def dropRegion (s : State) (dom base len : Nat) (seq : Option Nat) : Option State :=
  match s.proctor.regions.find? (fun r => r.dom == dom && r.base == base && r.len == len) with
  | none => none
  | some r =>
    let s := { s with proctor := { s.proctor with regions := s.proctor.regions.filter (fun x => x != r) } }
    some (unmapRange s dom base len r.page seq false)

/-! Services. -/

/-- ALLOC's region and its base, or 0 (25 R401). -/
def allocService (s : State) (dom die bytes flags page : Nat) : State × Nat :=
  if 3 ≤ page || 16 ≤ flags then (s, 0)
  else
    let size := pageSize page
    if bytes = 0 || 2 ^ 40 < bytes || bytes % size ≠ 0 || (bitOf flags 2 && bitOf flags 3) then (s, 0)
    else match chooseBase s dom bytes size with
      | none => (s, 0)
      | some b =>
        let r : Region := { dom := dom, base := b, len := bytes, page := page, lazy := bitOf flags 0, nsh := bitOf flags 1,
                            wr := bitOf flags 2, ex := bitOf flags 3, die := die }
        match addRegion s r with
        | some s => (s, b)
        | none => (s, 0)

/-- What a service does for a thread: its result in g4 (25 R401). -/
def serve (s : State) (tid : Nat) (t : Thread) (code : Nat) (args : List Word) : State × Word :=
  let dom := (trCtx s t).dom
  let arg := fun (i : Nat) => (args.getD i 0).toNat
  let mine := (s.kernel (arg 0)).bind (fun k => if k.dom = dom then some k else none)
  match code with
  | 1 =>
    let (s, b) := allocService s dom (tidDie tid) (arg 0) (arg 1) (arg 2)
    (s, w64 b)
  | 2 => match dropRegion s dom (arg 0) (arg 1) none with
    | some s => (s, 0)
    | none => (s, 1)
  | 3 => (s, (mine.bind Kernel.done).getD 0)
  | 4 => match mine with
    | some _ => (endKernel s (arg 0) 5 0, 0)
    | none => (s, 1)
  | 5 => (s, flvlOf s (tidDie tid))
  | _ => (s.logRecord 6 false 0 11 (tidDie tid) (tidClu tid) (tidCore tid) (args.getD 0 0), 0)

/-- A service's arguments from g4 on: three of ALLOC, two of FREE, none of FEAT, one of the others. -/
def serviceArgs (code : Nat) (c : ScalarCtx) : List Word :=
  match code with
  | 1 => [c.rd 4, c.rd 5, c.rd 6]
  | 2 => [c.rd 4, c.rd 5]
  | 5 => []
  | _ => [c.rd 4]

/-- TRAP with a code that names a service (11 R197, 25 R401). A paired member's is an external event (23 R367, R368); on a
Proctor core TRAP enters the handler (23 R352). -/
def serviceTrap (i : Instr) (code : Nat) (s : State) : Out :=
  runScalar i s (fun a =>
    match a.slot, s.actor with
    | some (tid, t), _ =>
      let args := serviceArgs code a.ctx
      if t.isPaired then
        if eventPending a i then .error .wait
        else do
          let s' ← pushEvent s a 4 code 0 args i
          pure (s'.setWaiting (some i))
      else
        let (s', r) := serve s tid t code args
        pure (s'.setCtx (a.ctx.wr 4 r).step)
    | none, .proctor k => pure (proctorTrap s k code)
    | none, _ => pure s)

/-- ALLOC, TRAP 1 (25 R401). -/
def execAlloc (s : State) : Out := serviceTrap .alloc 1 s

/-- FREE, TRAP 2 (25 R401, R402). -/
def execFree (s : State) : Out := serviceTrap .free 2 s

/-- KSTAT, TRAP 3 (25 R401). -/
def execKstat (s : State) : Out := serviceTrap .kstat 3 s

/-- KCANCEL, TRAP 4 (25 R401, 21 R323). -/
def execKcancel (s : State) : Out := serviceTrap .kcancel 4 s

/-- FEAT, TRAP 5 (25 R401). -/
def execFeat (s : State) : Out := serviceTrap .feat 5 s

/-- LOGEV, TRAP 6 (25 R401, 23 R373). -/
def execLogev (s : State) : Out := serviceTrap .logev 6 s

/-! Faults that the Proctor resolves. -/

/-- The agent of a fault record goes on: its access or strip replays (23 R343, R350); where a pre-emption waits, the group
stops as its strip has rolled back (R355). -/
def releaseAgent (s : State) (r : Delivered) : State :=
  let s := if r.vec then (s.modGroup r.tid (fun g =>
      { g with faulted := false, stop := if g.stopping then some (g.replay.isNone && g.strip.isNone) else g.stop })).stampStop r.tid
    else s.modThread r.tid (fun t => { t with faulted := false })
  { s with sched := { s.sched with rescan := true } }

/-- The pages that a translation fault's record lists (07 R106). -/
def listedPages (words : List Word) : List Nat :=
  let d := words.drop 6
  ((d.drop 2).take (field (d.getD 1 0).toNat 31 28)).map (fun w => field w.toNat 55 0)

/-- Maps the pages of a fault on demand, none where a frame is wanting (25 R402). -/
def mapListed (s : State) (tid : Nat) (t : Thread) (pages : List Nat) : Option State :=
  let dom := (trCtx s t).dom
  pages.foldlM (fun (s : State) va => match lazyRegion s dom va, domRoot s dom with
    | some r, some root => mapOne s r root (tidDie tid) va
    | _, _ => none) s

/-- A form that may go to another die: it spans none, though partners may be reserved, holds no chain link, takes part in no
pigeonhole (21 R339; log 34). -/
def formMovable (s : State) (f : Form) : Bool :=
  f.tids.all (fun tid => match s.thread tid with
    | none => true
    | some t =>
      t.pend == 0 && t.att == BitVec.ofNat 4 (2 ^ tidDie tid)
        && (match t.group with
            | some g => g.core.links.all (fun l => l.2.up.isNone && l.2.down.isNone)
            | none => true)
        && s.fabric.holes.all (fun h => h.2.owner != some (t.owner tid) && (h.2.owner.isNone || h.2.remote != some tid)))

/-- A form that took a feature-level fault stops, and with its kernel moves to a die that provides the feature, or waits for
it on its own (21 R339). -/
def resolveFeature (s : State) (r : Delivered) (t : Thread) : State :=
  match (s.kernel t.lnum).bind (fun k => tableGet t.form k.forms) with
  | none => s
  | some f =>
    match r.feature.bind (fun x => (providingDie s (kernelLevel s t.lnum) x).map (fun d => (x, d))) with
    | none => endKernel s t.lnum 2 9
    | some (x, d) =>
      let moves := formMovable s f
      let s := s.modKernel t.lnum (fun k => { k with
        unit := if moves then d else k.unit,
        since := if moves then ((s.cycle d).toNat : Int) - k.age s else k.since,
        forms := tableMod t.form (fun f => { f with moveTo := if moves then some d else none, needs := if moves then none else some x }) k.forms })
      let s := requestStop s t.lnum { f with status := .resident }
      let halt := fun (s : State) (tid : Nat) => (s.modGroup tid (fun g =>
        if g.stopping then { g with stop := some (g.replay.isNone && g.strip.isNone), waiting := none } else g)).stampStop tid
      (r.tid :: (partnerOf t).toList).foldl halt s

/-- FAULT_RESOLVE: the Proctor handles a delivered fault (25 R402, 21 R339). -/
def execFaultResolve (index : Nat) (s : State) : Out :=
  match s.proctor.faults[index]? with
  | none => .next s
  | some r =>
    let s := { s with proctor := { s.proctor with faults := s.proctor.faults.eraseIdx index } }
    match s.thread r.tid with
    | none => .next s
    | some t =>
      if r.kind = 4 then
        match mapListed s r.tid t (listedPages r.words) with
        | some s' => .next (releaseAgent s' r)
        | none => .next (endKernel s t.lnum 2 4)
      else .next (resolveFeature (releaseAgent s r) r t)

/-! Invalidation and walks. -/

/-- The frames of the physical addresses that an effect holds. -/
def effectFrames (e : Effect) : List Nat :=
  match e with
  | .store _ pa _ _ _ _ _ => [pa / 0x200000]
  | .redm _ pa _ _ _ _ _ _ _ => [pa / 0x200000]
  | .notify pa _ _ => [pa / 0x200000]
  | .gather _ _ g => g.addrs.filterMap (fun a => a.map (fun x => x.1 / 0x200000))
  | _ => []

/-- The frames of the accesses that a thread has translated and not yet performed (25 R402). -/
def pendingFrames (t : Thread) : List Nat :=
  t.events.filterMap (fun e => if e.kind ≤ 1 then some (e.addr / 0x200000) else none)
    ++ (match t.group with
        | none => []
        | some g =>
          (g.visible ++ g.issues).flatMap effectFrames ++ g.notifies.map (fun n => n.pa / 0x200000)
            ++ g.gathers.flatMap (fun x => if x.delivered.isSome then [] else x.addrs.filterMap (fun a => a.map (fun y => y.1 / 0x200000))))

/-- Entries of an invalidation leave every TLB (25 R402). -/
def invalidateTlbs (sys : MemSys) (i : Invalidation) : MemSys :=
  let keep := fun (e : TlbEntry) =>
    !(e.dom == i.dom && e.asid == i.dom && e.page * 2 ^ pageBits e.level < i.hi && i.lo < (e.page + 1) * 2 ^ pageBits e.level)
  { sys with tlb1 := sys.tlb1.map (fun t => (t.1, t.2.filter keep)), tlb2 := sys.tlb2.map (fun t => (t.1, t.2.filter keep)) }

/-- The number of a domain is free (25 R407): its keys are gone with it, and its kernels, all done, belong to no domain, so that a
new one of the number finds none of them (25 R401). -/
def forgetDomain (s : State) (dom : Nat) : State :=
  { s with
    proctor := { s.proctor with domains := tableDel dom s.proctor.domains }
    sched := { s.sched with kernels := s.sched.kernels.map (fun k => if k.2.dom = dom then (k.1, { k.2 with dom := 64 }) else k) } }

/-- INVALIDATION_COMPLETE: once every access translated with a removed entry is performed or discarded, and no satchel pins a page
of the range, the frames are free and what waited for this goes on (25 R402, R404, R407; 23 R357). -/
def execInvalidationComplete (index : Nat) (s : State) : Out :=
  match s.sys.invalidations[index]? with
  | none => .next s
  | some i =>
    let (s', release) := match domRoot s i.dom with
      | some root => i.kept.foldl (fun acc (x : Nat × Nat) => dropLeaf acc root x.1) (s, i.release)
      | none => (s, i.release)
    let busy := (allThreads s).any (fun t => (pendingFrames t).any (fun k => release.contains k))
      || i.kept.any (fun x => satchelPinned s i.dom x.1 x.2)
    let others := i.last && (s.sys.invalidations.eraseIdx index).any (fun j => j.dom == i.dom)
    if busy || others then .next s
    else
      let s := { s' with sys := { invalidateTlbs s'.sys i with invalidations := s'.sys.invalidations.eraseIdx index } }
      let s := release.foldl releaseFrame s
      let s := if i.last then forgetDomain s i.dom else s
      .next (match i.seq with
        | some n => finishEntry s n 4 0 none
        | none => s)

/-- A leaf enters a TLB of a size; the oldest entry leaves a full one (07 R104). -/
def tlbInsert (size : Nat) (e : TlbEntry) (es : List TlbEntry) : List TlbEntry :=
  let es := es.filter (fun x => !(x.dom == e.dom && x.asid == e.asid && x.page == e.page && x.level == e.level))
  (es ++ [e]).drop (es.length + 1 - size)

/-- PAGE_WALK_COMPLETE: a walk for a thread reaches a leaf, which its core's and its die's TLBs take; a walk that stops raises
its fault at the access (07 R103, R104). -/
def execPageWalkComplete (tid : Nat) (va : Word) (s : State) : Out :=
  match s.thread tid with
  | none => .next s
  | some t =>
    let tr := trCtx s t
    let a := va.toNat
    if windowBase ≤ a then .next s
    else
      let s := if bitOf s.proctor.finj.toNat 63 then (walkReads s.sys a 4 tr.root 0).foldl (fun s ea => touchUnits s ea 8 t.lnum) s
        else s
      match walk s.sys tr.root a with
      | .leaf e level =>
        if pageBlocked s tr.dom (field e.toNat 51 8 * 256) (pageBits level) then .next s
        else
          let x : TlbEntry := { dom := tr.dom, asid := tr.asid, page := a / 2 ^ pageBits level, level := level, leaf := e }
          let c := coreOf tid
          let d := tidDie tid
          .next { s with sys := { s.sys with
            tlb1 := tablePut c (tlbInsert 128 x ((tableGet c s.sys.tlb1).getD [])) s.sys.tlb1,
            tlb2 := tablePut d (tlbInsert 8192 x ((tableGet d s.sys.tlb2).getD [])) s.sys.tlb2 } }
      | _ => .next s

/-! External events of a pair (23 R367, R368). -/

/-- An atomic's operation, as 11 R180 numbers it, its destination and its address register. -/
def atomicShape : Instr → Option (Nat × BitVec 5 × BitVec 5)
  | .amoswap rd rs1 _ _ _ _ => some (0, rd, rs1)
  | .amoadd rd rs1 _ _ _ _ => some (1, rd, rs1)
  | .amoand rd rs1 _ _ _ _ => some (2, rd, rs1)
  | .amoor rd rs1 _ _ _ _ => some (3, rd, rs1)
  | .amoxor rd rs1 _ _ _ _ => some (4, rd, rs1)
  | .amomin rd rs1 _ _ _ _ => some (5, rd, rs1)
  | .amomax rd rs1 _ _ _ _ => some (6, rd, rs1)
  | .amominu rd rs1 _ _ _ _ => some (7, rd, rs1)
  | .amomaxu rd rs1 _ _ _ _ => some (8, rd, rs1)
  | .amocas rd rs1 _ _ _ _ => some (9, rd, rs1)
  | .amold rd rs1 _ _ _ => some (10, rd, rs1)
  | .amost rs1 _ _ _ _ => some (11, 0, rs1)
  | _ => none

/-- A member's oldest event is done: its instruction, where it waited for this, completes with a result, and any other that
waited executes again. -/
def answer (s : State) (tid : Nat) (result : Option (BitVec 5 × Word)) : State :=
  s.modThread tid (fun t =>
    { t with events := t.events.drop 1, waiting := none,
             ctx := match result with
               | some (rd, v) => (t.ctx.wr rd v).step
               | none => t.ctx })

/-- Both members' oldest events are done. -/
def answerBoth (s : State) (lead shadow : Nat) (result : Option (BitVec 5 × Word)) : State :=
  answer (answer s lead result) shadow result

/-- The lead performs a matched event (23 R368); none while a launch must wait (11 R192). -/
def performEvent (s : State) (lead shadow : Nat) (t : Thread) (e : ExtEvent) : State :=
  let d := fun (i : Nat) => (e.data.getD i 0).toNat
  match e.kind with
  | 0 =>
    let s := answerBoth s lead shadow none
    (match lostNode s e.addr with
      | some n => lostRoute s n t.lnum true
      | none => (touchUnits s e.addr e.size t.lnum).store e.addr (leBytes e.size (d 0 + 2 ^ 64 * d 1)) false)
  | 1 => (match atomicShape e.instr with
      | none => answerBoth s lead shadow none
      | some (op, rd, rs1) =>
        let s := touchUnits s e.addr e.size t.lnum
        let va := (t.ctx.rd rs1).toNat
        match poisonAt s.sys e.addr e.size, lostNode s e.addr with
        | some (p, unit), _ => deliverFault s lead false (poisonFault (va + (p - e.addr)) 0 unit)
        | none, some n => deliverFault s lead false { poisonFault va 0 0 with node := some n }
        | none, none =>
          let old := s.numAt e.addr e.size
          let s := match amoNew op e.size old (d 0) (d 1) with
            | some x => s.store e.addr (leBytes e.size x) false
            | none => s
          answerBoth s lead shadow (some (rd, BitVec.ofInt 64 (sext old (8 * e.size)))))
  | 2 =>
    answerBoth (issueCopy s (t.owner lead) (trCtx s t) (clusterOf lead) false (copyOf (e.data.map BitVec.toNat))) lead shadow none
  | 3 =>
    if 1024 ≤ unitLoad s (tidDie lead) then s
    else
      let (s, n) := klaunchSubmit s lead t (e.data.map BitVec.toNat)
      answerBoth s lead shadow (some (match e.instr with
        | .klaunch rd _ => rd
        | _ => 0, w64 n))
  | _ =>
    let (s, r) := serve s lead t e.addr e.data
    answerBoth s lead shadow (some (4, r))

/-- PAIR_EVENT_MATCH: the oldest events of both members are compared and performed once, or else a VAMO in which both wait
(23 R367, R368). -/
def execPairEventMatch (lead : Nat) (s : State) : Out :=
  match s.thread lead with
  | none => .next s
  | some t => match t.role with
    | .lead shadow => match s.thread shadow with
      | none => .next s
      | some u => match t.events, u.events with
        | e :: _, x :: _ =>
          if e.kind = x.kind && e.addr = x.addr && e.size = x.size && e.data = x.data
              && (atomicShape e.instr).map Prod.fst = (atomicShape x.instr).map Prod.fst then .next (performEvent s lead shadow t e)
          else .next (eventMismatch s lead shadow t.lnum x.iaddr e.no (e.inj || x.inj))
        | _, _ => .next ((matchVamo s lead shadow t.lnum).getD s)
    | _ => .next s

end Sys2Proof.Machine
end

