-- ==== Sys2Proof/Machine/Nests.lean ====
section
/-! DEFINITION. Byte strings of the host, and the loop nests of a Gozan container: their records, what makes them malformed, and whether a set is bounded for given parameters (25 R412 to R415). -/

namespace Sys2Proof.Machine

/-! Fields of byte strings. -/

/-- The n bytes at an offset; short where the string ends. -/
def sub (bs : List Byte) (off n : Nat) : List Byte := (bs.drop off).take n

/-- The little-endian value of n bytes at an offset. -/
def num (bs : List Byte) (off n : Nat) : Nat := leValue (sub bs off n)

/-- Bytes off to off + n - 1 are there and zero. -/
def zeroAt (bs : List Byte) (off n : Nat) : Bool := off + n ≤ bs.length && (sub bs off n).all (fun b => b == 0)

/-- A string with some of its bytes replaced. -/
def patch (bs : List Byte) (off : Nat) (new : List Byte) : List Byte := bs.take off ++ new ++ bs.drop (off + new.length)

/-! Records. -/

/-- An affine row: the coefficients of its indices, of p0 to p7, and the constant (25 R412). -/
structure AffineRow where
  index : List Int
  param : List Int
  const : Int
  deriving DecidableEq, Repr

/-- An array: its element type, its dimensions, the parameter that holds its base address, and its extents (25 R412). -/
structure ArrayRecord where
  ty : Nat
  sg : Nat
  rank : Nat
  base : Nat
  extents : List AffineRow
  deriving DecidableEq, Repr

/-- A set: its dimensions and its constraints, each with whether the row equals 0 (25 R412). -/
structure SetRecord where
  dims : Nat
  rows : List (Bool × AffineRow)
  deriving DecidableEq, Repr

/-- A map: its inputs and outputs, and the row of each output (25 R412). -/
structure MapRecord where
  ins : Nat
  outs : Nat
  rows : List AffineRow
  deriving DecidableEq, Repr

/-- An access of a statement: its array, its map, whether it writes, and the value that a write stores. -/
structure NestAccess where
  array : Nat
  map : Nat
  write : Bool
  value : Nat
  deriving DecidableEq, Repr

/-- An operation of a statement (25 R412); `red` lets the Proctor reassociate a chain of ACC operations (R413). -/
structure NestOp where
  op : Nat
  ty : Nat
  sg : Nat
  rounding : Nat
  code : Nat
  red : Bool
  a : Nat
  b : Nat
  c : Nat
  imm : Nat
  deriving DecidableEq, Repr

/-- A statement. -/
structure Statement where
  set : Nat
  accesses : List NestAccess
  ops : List NestOp
  deriving DecidableEq, Repr

/-- A node of a schedule tree; `filter` has bit s set for statement s, and `perm` is PERM, to which the spec gives no effect
(log 27). -/
structure ScheduleNode where
  kind : Nat
  perm : Nat
  children : Nat
  first : Nat
  map : Nat
  filter : Nat
  deriving DecidableEq, Repr

/-- The loop nests of a container: arrays, sets, maps, statements, nodes, and the root of each kernel. -/
structure Nests where
  arrays : List ArrayRecord
  sets : List SetRecord
  maps : List MapRecord
  statements : List Statement
  nodes : List ScheduleNode
  roots : List Nat
  deriving DecidableEq, Repr

/-- A 4-byte signed value at an offset. -/
def signed32 (bs : List Byte) (off : Nat) : Int := sext (num bs off 4) 32

/-- Bytes of a row over m indices. -/
def rowBytes (m : Nat) : Nat := 4 * (m + 9)

def readRow (bs : List Byte) (off m : Nat) : AffineRow :=
  { index := (List.range m).map (fun i => signed32 bs (off + 4 * i)),
    param := (List.range 8).map (fun i => signed32 bs (off + 4 * (m + i))), const := signed32 bs (off + 4 * (m + 8)) }

/-- The element types that loop nests take: TY and SG of 09 R145 but for codes 5, 6, 7, 10 and 11 (25 R412). -/
def nestType (ty sg : Nat) : Bool := typeOk .graph ty sg

/-- An array record at an offset, none where it is malformed (25 R412, R415). -/
def readArray (bs : List Byte) (o : Nat) : Option ArrayRecord :=
  let rank := num bs (o + 2) 1
  if nestType (num bs o 1) (num bs (o + 1) 1) && num bs (o + 1) 1 ≤ 1 && 1 ≤ rank && rank ≤ 6 && num bs (o + 3) 1 ≤ 7
      && zeroAt bs (o + 4) 4 && o + 8 + rank * rowBytes 0 ≤ bs.length then
    some { ty := num bs o 1, sg := num bs (o + 1) 1, rank := rank, base := num bs (o + 3) 1,
           extents := (List.range rank).map (fun i => readRow bs (o + 8 + i * rowBytes 0) 0) }
  else none

/-- A set record (25 R412, R415). -/
def readSet (bs : List Byte) (o : Nat) : Option SetRecord :=
  let dims := num bs o 1
  let n := num bs (o + 1) 1
  let size := 4 + rowBytes dims
  let at' := fun (i : Nat) => o + 4 + i * size
  if 1 ≤ dims && dims ≤ 6 && n ≤ 64 && zeroAt bs (o + 2) 2 && o + 4 + n * size ≤ bs.length
      && (List.range n).all (fun i => num bs (at' i) 1 ≤ 1 && zeroAt bs (at' i + 1) 3) then
    some { dims := dims, rows := (List.range n).map (fun i => (num bs (at' i) 1 == 0, readRow bs (at' i + 4) dims)) }
  else none

/-- A map record (25 R412, R415). -/
def readMap (bs : List Byte) (o : Nat) : Option MapRecord :=
  let ins := num bs o 1
  let outs := num bs (o + 1) 1
  if 1 ≤ ins && ins ≤ 6 && 1 ≤ outs && outs ≤ 6 && zeroAt bs (o + 2) 2 && o + 4 + outs * rowBytes ins ≤ bs.length then
    some { ins := ins, outs := outs, rows := (List.range outs).map (fun i => readRow bs (o + 4 + i * rowBytes ins) ins) }
  else none

/-- A statement record (25 R412, R415). -/
def readStatement (bs : List Byte) (o : Nat) : Option Statement :=
  let na := num bs (o + 2) 1
  let nop := num bs (o + 3) 1
  let acc := fun (i : Nat) => o + 8 + 8 * i
  let op := fun (i : Nat) => o + 8 + 8 * na + 16 * i
  if 1 ≤ na && na ≤ 16 && 1 ≤ nop && zeroAt bs (o + 4) 4 && o + 8 + 8 * na + 16 * nop ≤ bs.length
      && (List.range na).all (fun i => num bs (acc i + 4) 1 ≤ 1 && zeroAt bs (acc i + 6) 2)
      && (List.range nop).all (fun i => num bs (op i + 1) 1 < 32 && num bs (op i + 2) 1 % 8 ≤ 3 && zeroAt bs (op i + 3) 1
        && zeroAt bs (op i + 10) 2) then
    some {
      set := num bs o 2,
      accesses := (List.range na).map (fun i =>
        { array := num bs (acc i) 2, map := num bs (acc i + 2) 2, write := num bs (acc i + 4) 1 == 1, value := num bs (acc i + 5) 1 }),
      ops := (List.range nop).map (fun i =>
        { op := num bs (op i) 1, ty := num bs (op i + 1) 1 % 16, sg := num bs (op i + 1) 1 / 16, rounding := num bs (op i + 2) 1 % 8,
          code := num bs (op i + 2) 1 / 8 % 16, red := num bs (op i + 2) 1 / 128 == 1, a := num bs (op i + 4) 2, b := num bs (op i + 6) 2, c := num bs (op i + 8) 2,
          imm := num bs (op i + 12) 4 }) }
  else none

/-- A schedule node (25 R412, R415). -/
def readNode (bs : List Byte) (o : Nat) : Option ScheduleNode :=
  let kind := num bs o 1
  if 1 ≤ kind && kind ≤ 4 && o + 16 ≤ bs.length then
    some { kind := kind, perm := num bs (o + 1) 1, children := num bs (o + 2) 2, first := num bs (o + 4) 2, map := num bs (o + 6) 2, filter := num bs (o + 8) 8 }
  else none

/-- A kernel's root node; its other fields are read where the image is chosen. -/
def readRoot (bs : List Byte) (o : Nat) : Option Nat :=
  if o + 32 ≤ bs.length && zeroAt bs (o + 2) 2 && zeroAt bs (o + 16) 16 then some (num bs o 2) else none

/-- The record offsets of a section of types 1 to 6 (25 R412): none where a reserved byte is set or one lies outside. -/
def recordOffsets (bs : List Byte) : Option (List Nat) :=
  let n := num bs 0 4
  if bs.length < 8 + 4 * n || !zeroAt bs 4 4 then none
  else
    let os := (List.range n).map (fun i => num bs (8 + 4 * i) 4)
    if os.all (fun o => alignUp (8 + 4 * n) 8 ≤ o && o < bs.length) then some os else none

/-- The records of a section. -/
def readRecords {α : Type} (read : List Byte → Nat → Option α) (bs : List Byte) : Option (List α) :=
  (recordOffsets bs).bind (fun os => os.mapM (read bs))

/-! Values and operations. -/

/-- The types of values that an operation takes (25 R414), by the native instruction's own types; none for a code that names
no operation. -/
def nestOpTypes (op : Nat) : Option TypeSet :=
  if op = 0 || 22 < op then none
  else if [5, 10].contains op then some .f
  else if op = 8 then some .absT
  else if [11, 13, 21].contains op then some .all
  else if (14 ≤ op && op ≤ 19) then some .i
  else if op = 20 then some .f32
  else some .fi

/-- Which of A, B and C an operation uses (25 R414). -/
def nestUses (op : Nat) : Bool × Bool × Bool :=
  if op = 21 then (false, false, false)
  else if [8, 9, 10, 11, 20].contains op then (true, false, false)
  else if op = 4 || op = 13 then (true, true, true)
  else (true, true, false)

/-- An operation given the types of the values before it: the type of its result, none where it is malformed (25 R414, R415). A
value that an operation does not use is none; SEL's A may have any type. -/
def checkOp (vals : List (Nat × Nat)) (x : NestOp) : Option (Nat × Nat) :=
  let t := (x.ty, x.sg)
  let used := nestUses x.op
  let own := fun (v : Nat) => vals[v]? == some t
  let known := fun (v : Nat) => (vals[v]?).isSome
  let first := if x.op = 11 then known x.a && vals[x.a]? != some t else if x.op = 13 then known x.a else own x.a
  let types := match nestOpTypes x.op with
    | some ts => nestType x.ty x.sg && typeOk ts x.ty x.sg
    | none => false
  let codes :=
    if x.op = 12 then x.code ≤ (if intCode x.ty then 5 else 6)
    else if x.op = 22 then x.code ≤ 2
    else if x.op = 20 then x.imm ≤ 15
    else true
  if types && codes && (if used.1 then first else x.a == 0xFFFF) && (if used.2.1 then own x.b else x.b == 0xFFFF)
      && (if used.2.2 then own x.c else x.c == 0xFFFF) then
    some (if x.op = 12 then (9, 0) else t)
  else none

/-- A statement whose indices, values and types are in order (25 R415). -/
def statementOk (n : Nests) (st : Statement) : Bool :=
  match n.sets[st.set]? with
  | none => false
  | some set =>
    let mapped := st.accesses.all (fun a => match n.arrays[a.array]?, n.maps[a.map]? with
      | some x, some m => m.ins == set.dims && m.outs == x.rank
      | _, _ => false)
    let typ := fun (a : NestAccess) => ((n.arrays[a.array]?).map (fun x => (x.ty, x.sg))).getD (0, 0)
    let reads := (st.accesses.filter (fun a => !a.write)).map typ
    let all := st.ops.foldlM (fun (vals : List (Nat × Nat)) x => (checkOp vals x).map (fun t => vals ++ [t])) reads
    mapped && (match all with
      | none => false
      | some vals => st.accesses.all (fun a => !a.write || vals[a.value]? == some (typ a)))

/-! Trees. -/

/-- The statements that each leaf under a node runs, none where the tree is malformed: a child is missing, a band's map does not
fit a statement that it runs, or the nodes form no tree (25 R413, R415). The fuel is the number of nodes. -/
def leavesOf (n : Nests) : Nat → List Nat → Nat → Option (List (List Nat))
  | 0, _, _ => none
  | fuel + 1, sts, k => do
    let x ← n.nodes[k]?
    let below := fun (sts : List Nat) =>
      ((List.range x.children).mapM (fun i => leavesOf n fuel sts (x.first + i))).map List.flatten
    match x.kind with
    | 1 =>
      let m ← n.maps[x.map]?
      let fits := sts.all (fun s => match (n.statements[s]?).bind (fun st => n.sets[st.set]?) with
        | some set => set.dims == m.ins
        | none => false)
      if x.children = 1 && fits then below sts else none
    | 2 => below sts
    | 3 => if x.children = 1 && x.filter < 2 ^ n.statements.length then below (sts.filter (bitOf x.filter)) else none
    | _ => if x.children = 0 then some [sts] else none

/-- A node's indices and counts lie in range, whether or not a tree reaches it (25 R413, R415): a band and a filter have one child, a
leaf none. -/
def nodeOk (n : Nests) (x : ScheduleNode) : Bool :=
  (x.children == 0 || x.first + x.children ≤ n.nodes.length) &&
  (match x.kind with
    | 1 => x.children == 1 && x.map < n.maps.length
    | 2 => true
    | 3 => x.children == 1 && x.filter < 2 ^ n.statements.length
    | _ => x.children == 0)

/-- A kernel's tree reaches each statement through exactly one leaf (25 R415). -/
def treeOk (n : Nests) (root : Nat) : Bool :=
  match leavesOf n n.nodes.length (List.range n.statements.length) root with
  | none => false
  | some ls => (List.range n.statements.length).all (fun s => (ls.filter (fun l => l.contains s)).length == 1)

/-- The loop nests of a container's sections of types 1 to 6, given in order, or none where 25 R412 or R415 refuses them. -/
def readNests (ss : List (List Byte)) : Option Nests := do
  let s := fun (i : Nat) => ss.getD i []
  let n : Nests := {
    arrays := ← readRecords readArray (s 0), sets := ← readRecords readSet (s 1), maps := ← readRecords readMap (s 2),
    statements := ← readRecords readStatement (s 3), nodes := ← readRecords readNode (s 4), roots := ← readRecords readRoot (s 5) }
  if n.statements.length ≤ 64 && n.statements.all (statementOk n) && n.nodes.all (nodeOk n) && n.roots.all (treeOk n) then some n
  else none

/-! Bounds. -/

/-- A linear constraint over the unknowns that are left: coefficients and constant, whose sum is at least 0. -/
abbrev Linear := List Int × Int

/-- The constraints without their first unknown (Fourier and Motzkin's elimination). -/
def eliminate (rows : List Linear) : List Linear :=
  let head := fun (r : Linear) => r.1.headD 0
  let tail := fun (r : Linear) => ((r.1.drop 1, r.2) : Linear)
  let join := fun (p q : Linear) =>
    ((((tail p).1.zip (tail q).1).map (fun x => -(head q) * x.1 + head p * x.2), -(head q) * p.2 + head p * q.2) : Linear)
  (rows.filter (fun r => head r == 0)).map tail
    ++ (rows.filter (fun r => 0 < head r)).flatMap (fun p => (rows.filter (fun r => head r < 0)).map (fun q => join p q))

/-- Some point of n unknowns satisfies every constraint. -/
def solvable : Nat → List Linear → Bool
  | 0, rows => rows.all (fun r => 0 ≤ r.2)
  | n + 1, rows => solvable n (eliminate rows)

/-- The constraints of a set for given parameters (25 R412): a row that equals 0 is two constraints. -/
def setLinear (params : List Word) (x : SetRecord) : List Linear :=
  x.rows.flatMap (fun r =>
    let k := (r.2.param.zip params).foldl (fun (n : Int) y => n + y.1 * y.2.toInt) r.2.const
    (r.2.index, k) :: (if r.1 then [(r.2.index.map (fun c => -c), -k)] else []))

/-- A set is bounded for given parameters: it has no point, or no direction along which it goes on without end (25 R413). -/
def setBounded (params : List Word) (x : SetRecord) : Bool :=
  let rows := setLinear params x
  let ways := rows.map (fun r => ((r.1, 0) : Linear))
  let along := fun (i : Nat) (c : Int) => (((List.range x.dims).map (fun j => if j = i then c else 0), -1) : Linear)
  !solvable x.dims rows || (List.range x.dims).all (fun i =>
    !solvable x.dims (along i 1 :: ways) && !solvable x.dims (along i (-1) :: ways))

end Sys2Proof.Machine
end

