-- ==== Sys2Proof/Machine/Digest.lean ====
section
/-! DEFINITION. The digests and ciphers that the spec takes by name: SHA-256 and SHA-384 (FIPS 180-4), HMAC (FIPS 198-1), HKDF (RFC 5869), AES-256 (FIPS 197) and GCM (SP 800-38D) (25 R394, R408, R410; log 7). -/

namespace Sys2Proof.Machine

/-! Bytes and big-endian numbers. -/

/-- The value of bytes, most significant first. -/
def beValue (bs : List Byte) : Nat := bs.foldl (fun x b => 256 * x + b.toNat) 0

/-- The n bytes of a value, most significant first. -/
def beBytes (n v : Nat) : List Byte := (leBytes n v).reverse

/-- The bytes of two strings, one with the other. -/
def xorBytes (a b : List Byte) : List Byte := List.zipWith (fun x y => x ^^^ y) a b

/-- A string cut into pieces of n bytes; the fuel is their number. -/
def chunks (n : Nat) : Nat → List Byte → List (List Byte)
  | 0, _ => []
  | k + 1, bs => bs.take n :: chunks n k (bs.drop n)

/-! SHA-2. -/

/-- The greatest x below 2^bits with x^k at most y. -/
def rootFloor (k y : Nat) : Nat → Nat
  | 0 => 0
  | bits + 1 =>
    let x := rootFloor k (y / 2 ^ k) bits
    if (2 * x + 1) ^ k ≤ y then 2 * x + 1 else 2 * x

/-- The primes below 410, from which SHA-2 takes its constants. -/
def sha2Primes : List Nat := (List.range 410).filter (fun p => decide (2 ≤ p) && (List.range 20).all (fun d => d < 2 || p ≤ d || p % d != 0))

/-- The first w bits of the fraction of a prime's square or cube root. -/
def rootFraction (k w p : Nat) : BitVec w := BitVec.ofNat w (rootFloor k (p * 2 ^ (k * w)) (w + 10))

/-- A member of the SHA-2 family on w-bit words: its rounds, the rotations of its functions, the last a shift in the small ones,
and its first hash value. -/
structure Sha2 (w : Nat) where
  rounds : Nat
  big0 : Nat × Nat × Nat
  big1 : Nat × Nat × Nat
  small0 : Nat × Nat × Nat
  small1 : Nat × Nat × Nat
  start : List (BitVec w)

def sha256Of : Sha2 32 :=
  { rounds := 64, big0 := (2, 13, 22), big1 := (6, 11, 25), small0 := (7, 18, 3), small1 := (17, 19, 10),
    start := (sha2Primes.take 8).map (rootFraction 2 32) }

def sha384Of : Sha2 64 :=
  { rounds := 80, big0 := (28, 34, 39), big1 := (14, 18, 41), small0 := (1, 8, 7), small1 := (19, 61, 6),
    start := ((sha2Primes.drop 8).take 8).map (rootFraction 2 64) }

/-- Three rotations of a word, one with the others. -/
def rotations {w : Nat} (r : Nat × Nat × Nat) (x : BitVec w) : BitVec w := x.rotateRight r.1 ^^^ x.rotateRight r.2.1 ^^^ x.rotateRight r.2.2

/-- Two rotations and a shift. -/
def rotShift {w : Nat} (r : Nat × Nat × Nat) (x : BitVec w) : BitVec w := x.rotateRight r.1 ^^^ x.rotateRight r.2.1 ^^^ (x >>> r.2.2)

/-- The eight working variables after one round with its constant and message word. -/
def sha2Round {w : Nat} (f : Sha2 w) (v : List (BitVec w)) (kw : BitVec w × BitVec w) : List (BitVec w) :=
  match v with
  | [a, b, c, d, e, g, h, l] =>
    let t1 := l + rotations f.big1 e + ((e &&& g) ^^^ (~~~e &&& h)) + kw.1 + kw.2
    let t2 := rotations f.big0 a + ((a &&& b) ^^^ (a &&& c) ^^^ (b &&& c))
    [t1 + t2, a, b, c, d + t1, e, g, h]
  | v => v

/-- The message words of a block, the latest sixteen kept: the next is computed from them; the fuel is their number. -/
def sha2Words {w : Nat} (f : Sha2 w) : Nat → List (BitVec w) → List (BitVec w)
  | 0, _ => []
  | k + 1, ws =>
    let at' := fun (i : Nat) => ws.getD i 0
    ws.getD 0 0 :: sha2Words f k (ws.drop 1 ++ [rotShift f.small1 (at' 14) + at' 9 + rotShift f.small0 (at' 1) + at' 0])

/-- The hash value after one block. -/
def sha2Block {w : Nat} (f : Sha2 w) (h : List (BitVec w)) (block : List Byte) : List (BitVec w) :=
  let ws := (chunks (w / 8) 16 block).map (fun b => BitVec.ofNat w (beValue b))
  let ks := (sha2Primes.take f.rounds).map (rootFraction 3 w)
  List.zipWith (fun x y => x + y) h ((ks.zip (sha2Words f f.rounds ws)).foldl (sha2Round f) h)

/-- The digest before it is cut: the padded message, block by block. -/
def sha2 {w : Nat} (f : Sha2 w) (bs : List Byte) : List Byte :=
  let size := 2 * w
  let zeros := (2 * size - 1 - w / 4 - bs.length % size) % size
  let padded := bs ++ [0x80] ++ List.replicate zeros 0 ++ beBytes (w / 4) (8 * bs.length)
  ((chunks size (padded.length / size) padded).foldl (sha2Block f) f.start).flatMap (fun x => beBytes (w / 8) x.toNat)

def sha256 (bs : List Byte) : List Byte := sha2 sha256Of bs

def sha384 (bs : List Byte) : List Byte := (sha2 sha384Of bs).take 48

/-- HMAC-SHA-384; its block is 128 bytes. -/
def hmac384 (key text : List Byte) : List Byte :=
  let k := if 128 < key.length then sha384 key else key
  let k := k ++ List.replicate (128 - k.length) 0
  sha384 (k.map (fun b => b ^^^ 0x5C) ++ sha384 (k.map (fun b => b ^^^ 0x36) ++ text))

/-- HKDF-SHA-384 of at most 48 bytes: one block of its expansion. -/
def hkdf384 (salt secret info : List Byte) (n : Nat) : List Byte := (hmac384 (hmac384 salt secret) (info ++ [1])).take n

/-! AES-256. -/

/-- Multiplication by x in GF(2^8). -/
def gfDouble (a : Byte) : Byte := (a <<< 1) ^^^ (if a.msb then 0x1B else 0)

/-- Multiplication in GF(2^8); the fuel is the bits of the second factor. -/
def gfMul : Nat → Byte → Byte → Byte
  | 0, _, _ => 0
  | k + 1, a, b => (if b.getLsbD 0 then a else 0) ^^^ gfMul k (gfDouble a) (b >>> 1)

/-- The inverse in GF(2^8), 0 of 0: a^254 = a^2 a^4 … a^128. -/
def gfInverse (a : Byte) : Byte :=
  ((List.range 7).foldl (fun (p : Byte × Byte) _ => let sq := gfMul 8 p.1 p.1; (sq, gfMul 8 p.2 sq)) (a, 1)).2

/-- The S-box. -/
def aesSub (a : Byte) : Byte :=
  let b := gfInverse a
  b ^^^ b.rotateLeft 1 ^^^ b.rotateLeft 2 ^^^ b.rotateLeft 3 ^^^ b.rotateLeft 4 ^^^ 0x63

/-- The words of the key schedule from the latest eight; the fuel is their number and `i` the number of the first. -/
def aesSchedule : Nat → Nat → Byte → List (List Byte) → List (List Byte)
  | 0, _, _, _ => []
  | k + 1, i, rcon, ws =>
    let last := ws.getD 7 []
    let turned := (last.drop 1 ++ last.take 1).map aesSub
    let mixed := if i % 8 = 0 then xorBytes turned [rcon, 0, 0, 0] else if i % 8 = 4 then last.map aesSub else last
    ws.getD 0 [] :: aesSchedule k (i + 1) (if i % 8 = 0 then gfDouble rcon else rcon) (ws.drop 1 ++ [xorBytes (ws.getD 0 []) mixed])

/-- The fifteen round keys. -/
def aesKeys (key : List Byte) : List (List Byte) :=
  chunks 16 15 (aesSchedule 60 8 1 (chunks 4 8 key)).flatten

/-- SubBytes and ShiftRows: byte r of column c comes from column c + r. -/
def aesShift (st : List Byte) : List Byte :=
  (List.range 16).map (fun i => aesSub (st.getD (4 * ((i / 4 + i % 4) % 4) + i % 4) 0))

/-- MixColumns. -/
def aesMix (st : List Byte) : List Byte :=
  (List.range 16).map (fun i =>
    let b := fun (k : Nat) => st.getD (4 * (i / 4) + (i + k) % 4) 0
    gfDouble (b 0) ^^^ (gfDouble (b 1) ^^^ b 1) ^^^ b 2 ^^^ b 3)

/-- AES-256 of one block. -/
def aes256 (key block : List Byte) : List Byte :=
  match aesKeys key with
  | [] => block
  | k0 :: ks =>
    let st := (ks.take 13).foldl (fun st k => xorBytes (aesMix (aesShift st)) k) (xorBytes block k0)
    xorBytes (aesShift st) (ks.getD 13 [])

/-! GCM. -/

/-- Multiplication in GF(2^128), a block's first bit being its lowest power; the fuel is the bits of the first factor. -/
def ghashMul : Nat → BitVec 128 → BitVec 128 → BitVec 128
  | 0, _, _ => 0
  | k + 1, x, v =>
    (if x.msb then v else 0) ^^^ ghashMul k (x <<< 1) ((v >>> 1) ^^^ (if v.getLsbD 0 then 0xE1000000000000000000000000000000 else 0))

/-- GHASH of whole blocks under a hash key. -/
def ghash (h : BitVec 128) (bs : List Byte) : BitVec 128 :=
  (chunks 16 (bs.length / 16) bs).foldl (fun y b => ghashMul 128 (y ^^^ BitVec.ofNat 128 (beValue b)) h) 0

/-- A string padded with zeros to whole blocks. -/
def padBlocks (bs : List Byte) : List Byte := bs ++ List.replicate ((16 - bs.length % 16) % 16) 0

/-- A text under the key stream of a 12-byte IV. -/
def gcmCrypt (key iv text : List Byte) : List Byte :=
  xorBytes text ((List.range ((text.length + 15) / 16)).flatMap (fun i => aes256 key (iv ++ beBytes 4 (i + 2))))

/-- The tag of a ciphertext and its associated data. -/
def gcmTag (key iv aad cipher : List Byte) : List Byte :=
  let h := BitVec.ofNat 128 (beValue (aes256 key (List.replicate 16 0)))
  let y := ghash h (padBlocks aad ++ padBlocks cipher ++ beBytes 8 (8 * aad.length) ++ beBytes 8 (8 * cipher.length))
  xorBytes (beBytes 16 y.toNat) (aes256 key (iv ++ beBytes 4 1))

/-- AES-256-GCM: the ciphertext followed by its 16-byte tag. -/
def gcmSeal (key iv aad plain : List Byte) : List Byte :=
  let cipher := gcmCrypt key iv plain
  cipher ++ gcmTag key iv aad cipher

/-- The plaintext of n bytes of a ciphertext followed by its tag, none where the tag does not verify. -/
def gcmOpen (key iv aad : List Byte) (n : Nat) (bs : List Byte) : Option (List Byte) :=
  let cipher := bs.take n
  if bs.drop n == gcmTag key iv aad cipher then some (gcmCrypt key iv cipher) else none

end Sys2Proof.Machine
end

