-- ==== Sys2Proof/Machine/Trust.lean ====
section
/-! DEFINITION. Keys and signatures: P-384 with ECDSA (FIPS 186-5) and ECDH, HSS of two LMS levels (RFC 8554, SP 800-208), and the keys of a domain (25 R387, R408 to R410; log 7). -/

namespace Sys2Proof.Machine

/-! P-384: y² = x³ - 3x + b modulo p. -/

def p384 : Nat := 2 ^ 384 - 2 ^ 128 - 2 ^ 96 + 2 ^ 32 - 1

def curveB : Nat := 0xb3312fa7e23ee7e4988e056be3f82d19181d9c6efe8141120314088f5013875ac656398d8a2ed19d2a85c8edd3ec2aef

/-- The order of the base point. -/
def curveOrder : Nat := 0xffffffffffffffffffffffffffffffffffffffffffffffffc7634d81f4372ddf581a0db248b0a77aecec196accc52973

/-- A point, none being the one at infinity. -/
abbrev CurvePoint := Option (Nat × Nat)

def curveBase : CurvePoint :=
  some (0xaa87ca22be8b05378eb1c71ef320ad746e1d3b628ba79b9859f741e082542a385502f25dbf55296c3a545e3872760ab7,
        0x3617de4a96262c6f5d9e98bf9292dc29f8f41dbd289a147ce9da3113b5f0b8c00a60b1ce1d7e819d7a431d7c90ea0e5f)

/-- x^n modulo m; the fuel is the bits of n. -/
def powMod (m : Nat) : Nat → Nat → Nat → Nat
  | 0, _, _ => 1 % m
  | k + 1, x, n => let y := powMod m k (x * x % m) (n / 2); if n % 2 = 1 then x * y % m else y

/-- The inverse modulo a prime below 2^384. -/
def inverseMod (m x : Nat) : Nat := powMod m 384 (x % m) (m - 2)

/-- The sum of two points. -/
def curveAdd (a b : CurvePoint) : CurvePoint :=
  match a, b with
  | none, q => q
  | q, none => q
  | some (x1, y1), some (x2, y2) =>
    let p := p384
    if x1 = x2 && (y1 + y2) % p = 0 then none
    else
      let l := if x1 = x2 then (3 * x1 * x1 + (p - 3)) * inverseMod p (2 * y1) % p
        else (y2 + (p - y1)) * inverseMod p (x2 + (p - x1)) % p
      let x3 := (l * l + (p - x1) + (p - x2)) % p
      some (x3, (l * (x1 + (p - x3)) + (p - y1)) % p)

/-- A multiple of a point; the fuel is the bits of the multiplier. -/
def curveMul : Nat → Nat → CurvePoint → CurvePoint
  | 0, _, _ => none
  | k + 1, n, a =>
    let half := curveMul k (n / 2) (curveAdd a a)
    if n % 2 = 1 then curveAdd a half else half

/-- The point that 96 bytes x‖y give, where it lies on the curve. -/
def pointOf (bs : List Byte) : CurvePoint :=
  let x := beValue (bs.take 48)
  let y := beValue (bs.drop 48)
  if bs.length == 96 && x < p384 && y < p384 && y * y % p384 == (x * x * x + (p384 - 3) * x + curveB) % p384 then some (x, y) else none

/-- A point as 96 bytes x‖y. -/
def pointBytes : CurvePoint → List Byte
  | some (x, y) => beBytes 48 x ++ beBytes 48 y
  | none => List.replicate 96 0

/-- An ECDSA signature r‖s of a SHA-384 digest verifies under a key x‖y. -/
def ecdsaVerifies (key digest sig : List Byte) : Bool :=
  let r := beValue (sig.take 48)
  let s := beValue (sig.drop 48)
  let n := curveOrder
  let w := inverseMod n s
  match pointOf key with
  | none => false
  | some q =>
    sig.length == 96 && 0 < r && r < n && 0 < s && s < n &&
      (match curveAdd (curveMul 384 (beValue digest * w % n) curveBase) (curveMul 384 (r * w % n) (some q)) with
      | some (x, _) => x % n == r
      | none => false)

/-! LMS and HSS. -/

/-- An LM-OTS chain from step j on, as many steps as the fuel: identifier, leaf, chain. -/
def otsChain (id : List Byte) (q i : Nat) : Nat → Nat → List Byte → List Byte
  | 0, _, x => x
  | k + 1, j, x => otsChain id q i k (j + 1) (sha256 (id ++ beBytes 4 q ++ beBytes 2 i ++ beBytes 1 j ++ x))

/-- The LM-OTS key (N32, W8) that a signature C ‖ y0 … y33 of a message gives. -/
def otsKey (id : List Byte) (q : Nat) (sig msg : List Byte) : List Byte :=
  let h := sha256 (id ++ beBytes 4 q ++ beBytes 2 0x8181 ++ sig.take 32 ++ msg)
  let digits := h ++ beBytes 2 ((h.map (fun b => 255 - b.toNat)).sum)
  let ends := (digits.zip (chunks 32 34 (sig.drop 32))).zipIdx.map (fun x =>
    otsChain id q x.2 (255 - x.1.1.toNat) x.1.1.toNat x.1.2)
  sha256 (id ++ beBytes 4 q ++ beBytes 2 0x8080 ++ ends.flatten)

/-- The root that a node and the path above it give. -/
def lmsRoot (id : List Byte) : Nat → List Byte → List (List Byte) → List Byte
  | _, x, [] => x
  | node, x, sibling :: path =>
    let pair := if node % 2 = 1 then sibling ++ x else x ++ sibling
    lmsRoot id (node / 2) (sha256 (id ++ beBytes 4 (node / 2) ++ beBytes 2 0x8383 ++ pair)) path

/-- Bytes of an LMS signature at H20 with LM-OTS W8, and of an LMS public key. -/
def lmsSigBytes : Nat := 1772
def lmsKeyBytes : Nat := 56

/-- An LMS signature (type 8, SHA-256 M32 H20; LM-OTS type 4) of a message verifies under a public key: types, identifier,
root. -/
def lmsVerifies (key sig msg : List Byte) : Bool :=
  let id := (key.drop 8).take 16
  let q := beValue (sig.take 4)
  let types := beBytes 4 8 ++ beBytes 4 4
  let leaf := sha256 (id ++ beBytes 4 (2 ^ 20 + q) ++ beBytes 2 0x8282 ++ otsKey id q ((sig.drop 8).take 1120) msg)
  key.length == lmsKeyBytes && sig.length == lmsSigBytes && key.take 8 == types && (sig.drop 4).take 4 == types.drop 4
    && (sig.drop 1128).take 4 == types.take 4 && q < 2 ^ 20
    && lmsRoot id (2 ^ 20 + q) leaf (chunks 32 20 (sig.drop 1132)) == key.drop 24

/-- Bytes of an HSS signature of two levels: the number of signed keys, a signature and the key that it signs, a signature. -/
def hssSigBytes : Nat := 4 + lmsSigBytes + lmsKeyBytes + lmsSigBytes

/-- An HSS signature of two levels verifies under a 60-byte public key. -/
def hssVerifies (key sig msg : List Byte) : Bool :=
  let upper := (sig.drop 4).take lmsSigBytes
  let lower := (sig.drop (4 + lmsSigBytes)).take lmsKeyBytes
  key.take 4 == beBytes 4 2 && sig.take 4 == beBytes 4 1 && lmsVerifies (key.drop 4) upper lower
    && lmsVerifies lower (sig.drop (4 + lmsSigBytes + lmsKeyBytes)) msg

/-! Signatures (25 R408). -/

/-- A signature: its ECDSA part r‖s and its HSS part. -/
structure Signature where
  ec : List Byte
  hss : List Byte
  deriving DecidableEq, Repr

/-- The two public keys that verify a signer's signatures: ECDSA x‖y, HSS. -/
structure SignerKeys where
  ec : List Byte
  hss : List Byte
  deriving DecidableEq, Repr

/-- A signature of the SHA-384 digest of bytes verifies: both parts do (25 R408). -/
def signatureVerifies (k : SignerKeys) (bytes : List Byte) (s : Signature) : Bool :=
  let digest := sha384 bytes
  ecdsaVerifies k.ec digest s.ec && hssVerifies k.hss s.hss digest

/-- A tenant's keys, in its key block (25 R409). -/
def tenantKeys (block : List Byte) : SignerKeys := { ec := block.take 96, hss := (block.drop 96).take 60 }

/-- A firmware or microcode package verifies under Brynpol's fused keys (25 R408). Where its signature lies is not in the spec
(log 7). -/
def brynpolVerifies (bs : List Byte) : Bool :=
  let (signed, ec, hss) := Config.brynpolParts bs
  signatureVerifies { ec := Config.brynpolKey, hss := Config.brynpolHss } signed { ec := ec, hss := hss }

/-! The keys of a domain (25 R410). -/

/-- The private key of EPUB that DCREATE generates, from 1 to the order less 1. -/
def ecdhPrivate (tick : Nat) : Nat := Config.ecdhSecret tick % (curveOrder - 1) + 1

/-- EPUB (25 R409). -/
def ecdhPublic (tick : Nat) : List Byte := pointBytes (curveMul 384 (ecdhPrivate tick) curveBase)

/-- Z: the ECDH secret of EPUB's private key and the tenant's key. The spec states none for a key that is no point of the curve
(DESIGN CHOICE, log 7: a free value). -/
def ecdhShared (tick : Nat) (block : List Byte) : List Byte :=
  match pointOf ((block.drop 160).take 96) with
  | none => Config.offCurveSecret tick
  | some q => match curveMul 384 (ecdhPrivate tick) (some q) with
    | some (x, _) => beBytes 48 x
    | none => Config.offCurveSecret tick

/-- The characters of "SAHRAX-CMD" and "SAHRAX-XFER". -/
def infoCommand : List Byte := [0x53, 0x41, 0x48, 0x52, 0x41, 0x58, 0x2D, 0x43, 0x4D, 0x44]
def infoTransfer : List Byte := [0x53, 0x41, 0x48, 0x52, 0x41, 0x58, 0x2D, 0x58, 0x46, 0x45, 0x52]

/-- The command key, 48 bytes, and the transfer key, 32 bytes, of a domain that a DCREATE at this tick makes (25 R410). -/
def commandKey (tick : Nat) (block : List Byte) : List Byte := hkdf384 ((block.drop 256).take 48) (ecdhShared tick block) infoCommand 48
def transferKey (tick : Nat) (block : List Byte) : List Byte := hkdf384 ((block.drop 256).take 48) (ecdhShared tick block) infoTransfer 32

end Sys2Proof.Machine
end

