-- ==== Sys2Proof/Machine/Images.lean ====
section
/-! DEFINITION. Gozan containers and native images: their headers and tables, what LOAD verifies, relocation and placing (09 R159 to R164; 25 R411 to R417). -/

namespace Sys2Proof.Machine

/-! Native images. -/

/-- A section of a native image (09 R161). -/
structure NativeSection where
  typ : Nat
  voff : Nat
  bytes : List Byte
  deriving DecidableEq, Repr

/-- A native image with its header's fields (09 R159, R162). -/
structure Native where
  level : Nat
  vllo : Nat
  vlhi : Nat
  tver : List Nat
  sections : List NativeSection
  kernels : List KernelEntry
  deriving DecidableEq, Repr

/-- An offset of n bytes lies inside a section of a type. -/
def insideType (ss : List NativeSection) (typ off n : Nat) : Bool :=
  ss.any (fun x => x.typ == typ && x.voff ≤ off && off + n ≤ x.voff + x.bytes.length)

/-- The sections of an image, or none where the table breaks 09 R161 or R164. -/
def readSections (bs : List Byte) (nsec : Nat) : Option (List NativeSection) :=
  let entries := (List.range nsec).map (fun i => 128 + 32 * i)
  let good := fun (e : Nat) =>
    let typ := num bs e 4
    let size := num bs (e + 16) 8
    1 ≤ typ && typ ≤ 6 && zeroAt bs (e + 4) 4 && num bs (e + 8) 8 + size ≤ bs.length
      && num bs (e + 24) 8 % 65536 == 0 && (typ != 6 || num bs (e + 24) 8 == 0)
  if bs.length < 128 + 32 * nsec || !entries.all good then none
  else
    let ss := entries.map (fun e =>
      ({ typ := num bs e 4, voff := num bs (e + 24) 8, bytes := sub bs (num bs (e + 8) 8) (num bs (e + 16) 8) } : NativeSection))
    let loaded := ss.filter (fun x => x.typ != 6)
    let apart := (loaded.zipIdx).all (fun x => (loaded.zipIdx).all (fun y =>
      x.2 == y.2 || !overlaps x.1.voff x.1.bytes.length y.1.voff y.1.bytes.length))
    if apart then some ss else none

/-- A kernel-table entry, or none where it breaks 09 R162 or R164. -/
def readKernel (ss : List NativeSection) (bs : List Byte) : Option KernelEntry :=
  let entry := num bs 0 8
  let sldr := num bs 16 8
  let n := num bs 24 4
  let seat := (sub bs 64 64).map BitVec.toNat
  let good := entry % 4 == 0 && insideType ss 1 entry 4 && insideType ss 3 (num bs 8 8) 1
    && (sldr == 0xFFFFFFFFFFFFFFFF || insideType ss 1 sldr 4) && 1 ≤ n && n ≤ 64 && zeroAt bs 28 4 && zeroAt bs 56 8
    && (seat.take n).all (fun b => b ≤ 8) && (seat.drop n).all (fun b => b == 0)
  if good then
    some { entry := w64 entry, sldr := w64 sldr, threads := n, framea := num bs 32 8, frameb := num bs 40 8, spillb := num bs 48 8,
           seat := seat.take n }
  else none

/-- The first parcels of the instructions of a vector code section, by walking it (09 R136). -/
def vectorStarts (bs : List Byte) : Nat → Nat → List Nat
  | 0, _ => []
  | fuel + 1, off =>
    if bs.length < off + 4 then []
    else off :: vectorStarts bs fuel (off + 4 * vectorLength (BitVec.ofNat 32 (num bs off 4)))

/-- How an RI instruction extends imm16, by its opcode (09 R139, R141): signed, unsigned, a shift amount; none for another
format. -/
def immRange (op : Nat) : Option (Int × Int) :=
  if op = 2 || op = 6 || op = 7 || (0x10 ≤ op && op ≤ 0x1C) || op = 0x28 then some (-32768, 32767)
  else if (3 ≤ op && op ≤ 5) || op = 0x0D || op = 0x0E || op = 0x32 then some (0, 65535)
  else if 8 ≤ op && op ≤ 0x0A then some (0, 63)
  else none

/-- One relocation applied to the sections at a load base, or none where 09 R164 refuses it (R163). -/
def relocate (base vlb : Nat) (ss : List NativeSection) (e : List Byte) : Option (List NativeSection) :=
  let off := num e 0 8
  let kind := num e 8 2
  let v : Int := sext (num e 12 4) 32 + sext (num e 10 2) 16 * vlb
  let holds := fun (x : NativeSection) (n : Nat) => x.typ != 6 && x.voff ≤ off && off + n ≤ x.voff + x.bytes.length
  let put := fun (typ n : Nat) (value : NativeSection → Option (List Byte)) =>
    match ss.findIdx? (fun x => (typ == 0 || x.typ == typ) && holds x n) with
    | none => none
    | some i => (ss[i]?).bind (fun x => (value x).map (fun b => ss.set i { x with bytes := patch x.bytes (off - x.voff) b }))
  match kind with
  | 1 => if off % 4 ≠ 0 then none else put 1 4 (fun x =>
      let p := num x.bytes (off - x.voff) 4
      match immRange (p / 2 ^ 26) with
      | some (lo, hi) => if lo ≤ v && v ≤ hi then some (leBytes 4 (p / 65536 * 65536 + keep v 16)) else none
      | none => none)
  | 3 => put 2 8 (fun x =>
      let o := off - x.voff
      let p := num x.bytes o 4
      let q := num x.bytes (o + 4) 4
      let wli := match vectorOpcode (p / 2 ^ 24) (vectorFields (BitVec.ofNat 32 p) (BitVec.ofNat 32 q)) with
        | some (.vwli _) => true
        | _ => false
      if wli && (vectorStarts x.bytes (x.bytes.length / 4) 0).contains o && -(2 ^ 23 : Int) ≤ v && v < 2 ^ 23 then
        some (leBytes 4 p ++ leBytes 4 (q / 2 ^ 24 * 2 ^ 24 + keep v 24))
      else none)
  | 4 => put 0 8 (fun _ => some (leBytes 8 (keep v 64)))
  | 5 => put 0 8 (fun _ => some (leBytes 8 (keep (v + base) 64)))
  | _ => none

/-- A native image at a load base, or none where 09 R164 refuses it. The kernel-table entries are read, and checked, as the
relocations leave them (09 R163). DESIGN CHOICE (log 43): a relocation section that does not hold whole entries is refused; the spec
is silent on its size. -/
def readNative (bs : List Byte) (base : Nat) : Option Native :=
  let nsec := num bs 12 4
  let vllo := num bs 16 4
  let vlhi := num bs 20 4
  let nker := num bs 24 4
  let good := 128 ≤ bs.length && num bs 0 4 == 0x464E4E49 && num bs 4 2 == 1 && num bs 6 2 == 1 && 1 ≤ nsec && nsec ≤ 16
    && 1 ≤ vllo && vllo ≤ vlhi && vlhi ≤ 8192 && 1 ≤ nker && nker ≤ 1024 && zeroAt bs 28 4 && zeroAt bs 64 64
  if !good then none
  else match readSections bs nsec with
    | none => none
    | some ss => match ss.filter (fun x => x.typ == 5) with
      | [t] =>
        if t.bytes.length ≠ 128 * nker then none
        else
          let relocs := (ss.filter (fun x => x.typ == 6)).flatMap (fun x =>
            (List.range (x.bytes.length / 16)).map (fun i => sub x.bytes (16 * i) 16))
          if ss.any (fun x => x.typ == 6 && x.bytes.length % 16 != 0) then none
          else match relocs.foldlM (relocate base (4 * vlhi)) ss with
            | none => none
            | some ss =>
              let table := ((ss.find? (fun x => x.typ == 5)).map (fun x => x.bytes)).getD []
              ((List.range nker).mapM (fun i => readKernel ss (sub table (128 * i) 128))).map (fun ks =>
                { level := num bs 8 4, vllo := vllo, vlhi := vlhi, tver := (List.range 16).map (fun i => num bs (32 + 2 * i) 2),
                  sections := ss.filter (fun x => x.typ != 6), kernels := ks })
      | _ => none

/-! What a native section must pass beyond that (25 R417). -/

/-- A scalar instruction that LOAD lets pass. -/
def scalarPasses (i : Instr) : Bool :=
  match i with
  | .undefinedEncoding _ _ => false
  | .tret => false
  | .trap _ => false
  | .csrr _ c => c != 0x032
  | .csrw _ _ c => c != 0x032 && c != 0x030 && c != 0x031
  | .csrs _ rs1 c => c != 0x032 && (rs1 == 0 || (c != 0x030 && c != 0x031))
  | .csrc _ rs1 c => c != 0x032 && (rs1 == 0 || (c != 0x030 && c != 0x031))
  | _ => true

/-- Where a scalar branch goes, in bytes from itself (09 R139). -/
def scalarTarget : Instr → Option Int
  | .beq _ _ off => some (4 * off.toInt)
  | .bne _ _ off => some (4 * off.toInt)
  | .blt _ _ off => some (4 * off.toInt)
  | .bge _ _ off => some (4 * off.toInt)
  | .bltu _ _ off => some (4 * off.toInt)
  | .bgeu _ _ off => some (4 * off.toInt)
  | .jal off => some (4 * off.toInt)
  | .j off => some (4 * off.toInt)
  | _ => none

/-- Where a vector branch goes, in bytes from itself (09 R145). -/
def vectorTarget : Instr → Option Int
  | .vbany f => some (4 * sext (fnField f 23 0) 24)
  | .vball f => some (4 * sext (fnField f 23 0) 24)
  | .vbnone f => some (4 * sext (fnField f 23 0) 24)
  | .vbrD f => some (4 * sext (fnField f 23 0) 24)
  | .vloop f => some (4 * sext (fnField f 23 0) 24)
  | .vendlp f => some (4 * sext (fnField f 23 0) 24)
  | .vjmp f => some (4 * sext (fnField f 19 0) 20)
  | _ => none

/-- A branch at an offset of a section of n bytes stays in it. -/
def staysIn (n off : Nat) (t : Option Int) : Bool :=
  match t with
  | none => true
  | some d => 0 ≤ (off : Int) + d && (off : Int) + d < n

/-- The vector instruction at an offset of a section. -/
def vectorAt (bs : List Byte) (off : Nat) : Instr :=
  let hi := BitVec.ofNat 32 (num bs off 4)
  if vectorLength hi = 2 && bs.length < off + 8 then .undefinedEncoding hi 0
  else decodeSequencer hi (BitVec.ofNat 32 (num bs (off + 4) 4))

/-- A vector instruction that LOAD lets pass in an image of a level. -/
def vectorPasses (level : Nat) (i : Instr) : Bool :=
  match i with
  | .undefinedEncoding _ _ => false
  | .microcodeOpcode op _ => (Config.levelOpcodes level).getLsbD op.toNat
  | _ => true

/-- What a vector instruction takes from microcode. -/
def featureOf : Instr → Option Feature
  | .microcodeOpcode op _ => some (.opcode op.toNat)
  | .vldz f => some (.vldz (fnField f 7 0))
  | _ => none

/-- The vector instructions of a section with their offsets. -/
def vectorCode (x : NativeSection) : List (Nat × Instr) :=
  if x.typ = 2 then (vectorStarts x.bytes (x.bytes.length / 4) 0).map (fun o => (o, vectorAt x.bytes o)) else []

/-- 25 R417: every parcel decodes, nothing privileged, services and branches in bounds, no strip shown to pass a limit. -/
def nativePasses (n : Native) (bs : List Byte) : Bool :=
  let scalar := fun (x : NativeSection) => x.typ != 1 || (x.bytes.length % 4 == 0 &&
    (List.range (x.bytes.length / 4)).all (fun k =>
      let p : Parcel := BitVec.ofNat 32 (num x.bytes (4 * k) 4)
      match decodeMajor p with
      | some i => scalarPasses i && staysIn x.bytes.length (4 * k) (scalarTarget i)
      | none => integerLegal p))
  let vector := fun (x : NativeSection) => (x.typ != 2 || x.bytes.length % 4 == 0) &&
    (vectorCode x).all (fun e => vectorPasses n.level e.2 && staysIn x.bytes.length e.1 (vectorTarget e.2))
  n.sections.all (fun x => scalar x && vector x) && !Config.boundsStripOver bs

/-- What an image's code takes from microcode: opcodes, VLDZ versions, table versions (25 R423). -/
def nativeUses (n : Native) : List Feature :=
  n.sections.flatMap (fun x => (vectorCode x).filterMap (fun e => featureOf e.2))
    ++ (n.tver.zipIdx).filterMap (fun v => if v.1 = 0 then none else some (.table v.2 v.1))

/-! Containers. -/

/-- A section of a container (25 R411). -/
structure ContainerSection where
  typ : Nat
  fam : Nat
  level : Nat
  bytes : List Byte
  deriving DecidableEq, Repr

/-- A container: its version, what is signed, its signature, its sections, the native kernel of each kernel, its loop nests. -/
structure Container where
  gver : Nat
  signed : List Byte
  signature : Signature
  sections : List ContainerSection
  kernels : List Nat
  nests : Nests
  deriving DecidableEq, Repr

/-- The sections of types 1 to 6 in order, of which a container holds one each. -/
def nestSections (ss : List ContainerSection) : List (List Byte) :=
  [1, 2, 3, 4, 5, 6].map (fun t => ((ss.find? (fun x => x.typ == t)).map (fun x => x.bytes)).getD [])

/-- The names of kernels lie in read-only data of the container (25 R412). -/
def namesOk (ss : List ContainerSection) (kernels : List Byte) (os : List Nat) : Bool :=
  os.all (fun o => ss.any (fun x => x.typ == 8 && num kernels (o + 8) 8 < x.bytes.length))

/-- The native kernels that a container's kernel records name are there in each native image of this family (25 R412, R415). -/
def nativeKernels (ss : List ContainerSection) (kernels : List Nat) : Bool :=
  ss.all (fun x => x.typ != 7 || x.fam != 1 || (match readNative x.bytes 0 with
    | some n => kernels.all (fun k => k < n.kernels.length)
    | none => true))

/-- A container, or none where LOAD refuses it as malformed (25 R411, R412, R415). -/
def readContainer (bs : List Byte) : Option Container :=
  let nsec := num bs 6 2
  let sigoff := num bs 16 8
  let entries := (List.range nsec).map (fun i => 64 + 32 * i)
  let goodHeader := 64 ≤ bs.length && num bs 0 4 == 0x4E5A4F47 && 6 ≤ nsec && nsec ≤ 64 && num bs 8 8 == bs.length
    && sigoff % 16 == 0 && sigoff + 100 ≤ bs.length && 1 ≤ num bs 24 8 && num bs 24 8 ≤ 1024 && zeroAt bs 32 32
    && 64 + 32 * nsec ≤ bs.length && sigoff + 100 + num bs (sigoff + 96) 4 == bs.length
  let goodEntry := fun (e : Nat) =>
    let typ := num bs e 4
    1 ≤ typ && typ ≤ 8 && zeroAt bs (e + 6) 2 && zeroAt bs (e + 12) 4 && num bs (e + 16) 8 % 16 == 0
      && num bs (e + 16) 8 + num bs (e + 24) 8 ≤ sigoff && (typ == 7 || (num bs (e + 4) 2 == 0 && num bs (e + 8) 4 == 0))
  let count := fun (t : Nat) => (entries.filter (fun e => num bs e 4 == t)).length
  if !goodHeader || !entries.all goodEntry || !([1, 2, 3, 4, 5, 6].all (fun t => count t == 1)) then none
  else
    let ss := entries.map (fun e =>
      ({ typ := num bs e 4, fam := num bs (e + 4) 2, level := num bs (e + 8) 4, bytes := sub bs (num bs (e + 16) 8) (num bs (e + 24) 8) } :
        ContainerSection))
    let ks := (nestSections ss).getD 5 []
    match readNests (nestSections ss), recordOffsets ks with
    | some n, some os =>
      let kernels := os.map (fun o => num ks (o + 4) 4)
      if os.length == num bs 24 8 && namesOk ss ks os && nativeKernels ss kernels then
        some { gver := num bs 4 2, signed := bs.take sigoff,
               signature := { ec := sub bs sigoff 96, hss := sub bs (sigoff + 100) (num bs (sigoff + 96) 4) },
               sections := ss, kernels := kernels, nests := n }
      else none
    | _, _ => none

/-- The image that LOAD chooses (25 R416): its bytes, the image, 0 or one plus its section's index, the native kernel of each
kernel. DESIGN CHOICE (log 43): the image's FLEVEL is that of its container entry (25 R411), which the choice goes by, whatever its
own header says (09 R159); a translation's is the level that it is made for. -/
def chooseImage (c : Container) (bs : List Byte) (base level : Nat) : Option (List Byte × Native × Nat × List Nat) :=
  let natives := (c.sections.zipIdx).filterMap (fun x =>
    if x.1.typ = 7 && x.1.fam = 1 && x.1.level ≤ level then
      match readNative x.1.bytes base with
      | some n => if nativePasses { n with level := x.1.level } x.1.bytes && c.kernels.all (fun k => k < n.kernels.length) then some (x.1, n, x.2 + 1) else none
      | none => none
    else none)
  let best := natives.foldl (fun (b : Option (ContainerSection × Native × Nat)) x => match b with
    | some y => if y.1.level < x.1.level then some x else b
    | none => some x) none
  match best with
  | some (x, n, k) => some (x.bytes, { n with level := x.level }, k, c.kernels)
  | none => match Config.translateNests bs (BitVec.ofNat 32 level) with
    | none => none
    | some t => (readNative t base).bind (fun n =>
        if c.kernels.length ≤ n.kernels.length then some (t, { n with level := level }, 0, List.range c.kernels.length) else none)

/-! Placing. -/

/-- Bytes at mapped virtual addresses of a domain, by physical address, page by page. -/
def pokeBytes (s : State) (root va : Nat) (bs : List Byte) : State :=
  (List.range ((bs.length + 65535) / 65536)).foldl (fun s i =>
    match leafAt s.sys.mem (va + 65536 * i) 4 root 0 with
    | some (ea, _) => s.store (field (readNat s.sys.mem ea 8) 51 8 * 256) (sub bs (65536 * i) 65536) false
    | none => s) s

/-- The pages of a section (09 R161): code RD and EX, read-only data and the kernel table RD, data RD and WR. -/
def sectionRegion (dom base : Nat) (x : NativeSection) : Region :=
  { dom := dom, base := base + x.voff, len := alignUp x.bytes.length 65536, page := 0, lazy := false, nsh := false,
    wr := x.typ == 4, ex := x.typ == 1 || x.typ == 2, die := 0 }

/-- Places an image's sections at its load base (09 R161, R163); none where frames or tables are wanting. -/
def placeImage (s : State) (dom root base : Nat) (n : Native) : Option State :=
  n.sections.foldlM (fun (s : State) x =>
    (mapAll s (sectionRegion dom base x) root).map (fun s => pokeBytes s root (base + x.voff) x.bytes)) s

/-- The ranges that an image takes. -/
def nativeRanges (base : Nat) (n : Native) : List (Nat × Nat) :=
  n.sections.map (fun x => (base + x.voff, alignUp x.bytes.length 65536))

end Sys2Proof.Machine
end

