-- ==== Sys2Proof/Machine/Forms.lean ====
section
/-! DEFINITION. What the timetable units and the save engine do on their own: preloads, ageing, deadlines, the satchel, the end of a kernel, the retirement of a core (21 R322, R333, R336; 23 R354 to R363, R374). -/

namespace Sys2Proof.Machine

/-! Preloads. -/

/-- The source of one 16-byte piece of a preload, or its fault (21 R333). -/
def preloadSource (k : Kernel) (s : State) (src : Nat) : Except FaultInfo Nat :=
  match translate s (engineAccessor k.dom k.asid k.root) src .read with
  | .bad c l => .error (trFault c l .read src 0)
  | .poison ea => .error (walkFault src 0 ea)
  | .ok pa => match physKind pa with
    | .device _ => .error (trFault 8 0 .read src 0)
    | _ => .ok pa

/-- A form's preloads into the range of a cluster, chunk by chunk (21 R333, 07 R132). -/
def preloadAll (k : Kernel) (lnum cluster : Nat) (s : State) : Except FaultInfo State :=
  k.card.preloads.foldlM (fun (s : State) p =>
    (List.range ((p.2.1 + 127) / 128)).foldlM (fun (s : State) i => do
      let n := min 128 (p.2.1 - 128 * i) / 16
      let ps ← (List.range n).mapM (fun j => do
        let pa ← preloadSource k s (p.1 + 128 * i + 16 * j)
        pure (pa, aperture cluster (p.2.2 + 128 * i + 16 * j)))
      pure (copyPieces s lnum ps).1) s) s

/-- PRELOAD_COMPLETE: a form's preloads are done and its threads are seated; a source that fails translation ends the kernel
by that fault (21 R333). A pair's shadow is loaded likewise (23 R364). -/
def execPreloadComplete (lnum form : Nat) (s : State) : Out :=
  match s.kernel lnum with
  | none => .next s
  | some k => match tableGet form k.forms, s.image k.image with
    | some f, some im => match im.kernels[k.kidx]? with
      | none => .next s
      | some e =>
        if f.status ≠ .preloading then .next s
        else
          let homes := (f.place.clusters.take 1) ++ (f.place.shadow.take 1)
          match homes.foldlM (fun (s : State) cl => preloadAll k lnum cl s) s with
          | .ok s => .next (seatForm s lnum k f im e)
          | .error x =>
            let tid := ((f.place.seats.head?).map Seat.tid).getD 0
            let s := match x.walked with
              | some ea => logWalk s ea lnum
              | none => s
            let words := recordWords x.kind false true false (coordBits tid) (tidDie tid) 0 0 0 lnum (s.cycle (tidDie tid)) x.d
            let s := { s with proctor := { s.proctor with checks := s.proctor.checks ++ [words] } }
            .next (endKernel s lnum 2 x.kind)
    | _, _ => .next s

/-! Ageing and deadlines. -/

/-- AGEING_STEP: a kernel's effective priority has fallen by a level since the last step, and the unit scans (21 R336). -/
def execAgeingStep (lnum : Nat) (s : State) : Out :=
  match s.kernel lnum with
  | none => .next s
  | some k =>
    let n := k.age s / 2 ^ 21
    if k.done.isSome || n ≤ k.aged then .next s
    else
      let s := s.modKernel lnum (fun k => { k with aged := n })
      .next { s with sched := { s.sched with rescan := true } }

/-- PDL.DEADLINE of a die (23 R353). -/
def deadlineOf (s : State) (die : Nat) : Nat := if h : die < 4 then (s.sched.pdl[die]).toNat else 0

/-- A group whose deadline has passed stops: an open strip, or a pair's closed ones, are abandoned (23 R354, R370). -/
def abandon (s : State) (tid : Nat) : State :=
  match s.group tid with
  | none => s
  | some g =>
    if g.stop.isSome || !g.stopping then s
    else
      let open' := g.strip.isSome || !g.closed.isEmpty || g.replay.isSome
      ((rollbackPair s tid).modGroup tid (fun g => { g with stop := some !open', waiting := none })).stampStop tid

/-- PREEMPT_DEADLINE: DEADLINE cycles have passed since the request (23 R353, R354); a pair's members stop together
(R370). A fault under handling comes first (R355). -/
def execPreemptDeadline (tid : Nat) (s : State) : Out :=
  match s.thread tid with
  | none => .next s
  | some t => match t.group, (s.kernel t.lnum).bind (fun k => tableGet t.form k.forms) with
    | some g, some f =>
      let late := f.stopAt + deadlineOf s (tidDie tid) ≤ (s.cycle (tidDie tid)).toNat
      if f.status ≠ .stopping || !late || g.faulted || g.stop.isSome then .next s
      else match partnerOf t with
        | none => .next (abandon s tid)
        | some q => if ((s.group q).map Group.faulted).getD false then .next s else .next (abandon (abandon s tid) q)
    | _, _ => .next s

/-! The satchel. -/

/-- A delivered gather's value as its register takes it, 32 bytes a lane for each die position (23 R360, 13 R218). -/
def gatherWords (x : SatchelShape) (g : Gather) : List Nat :=
  let w := (typeOf g.ty g.sg).width
  let vals := (g.delivered.getD []).mapIdx (fun e v =>
    (convLoad g.mfmt g.ty g.sg ⟨(roundModeOf g.fmode.toNat).getD .rne, g.rand.getD e 0⟩ v.1).1)
  (List.range x.dies).flatMap (fun p => (List.range x.lanes).flatMap (fun l => (List.range 4).map (fun b =>
    (List.range (64 / w)).foldr (fun j acc =>
      vals.getD (p * (x.lanes * 256 / w) + (b * (64 / w) + j) * x.lanes + l) 0 % 2 ^ w + 2 ^ w * acc) 0)))

/-- Every word of sections 0 to 10 that a save writes, with its offset (23 R358, R360, R361). `all` says that the save acts as
though every DT and LDT were 1. -/
def sectionWords (s : State) (tid : Nat) (t : Thread) (all : Bool) : List (Nat × Nat) :=
  let x := satchelShape t
  let at' := sectionAt t
  let zero := wordsAt (at' 0) (threadWords tid t)
  match t.group with
  | none => zero
  | some g =>
    let parts := (partsOf tid t).zipIdx
    let dies := parts.map (fun p => p.1.die)
    let seq := coreWords g.core (vcpOf g) (g.replay.getD g.core.vl) dies
    let slots := parts.flatMap (fun p => (List.range 8).flatMap (fun i =>
      ((tableGet i g.slots).map (slotWords g.core p.2 i)).getD (List.replicate 48 0)))
    let pending := g.gathers.mergeSort (fun a b => a.reg ≤ b.reg)
    let records := g.core.streams.map (fun e => streamWords e.1 e.2) ++ pending.map pendingWords
    let streams := ((List.range 16).map (fun i => records.getD i (List.replicate 16 0))).flatten ++ pending.flatMap (gatherWords x)
    let entries := g.buffers.flatMap (fun b => b.2)
    let chain := if x.chain then (List.range 4).flatMap (fun i => ((entries[i]?).map entryWords).getD (List.replicate 1032 0)) else []
    let masks := parts.flatMap (fun p => (List.range 7).flatMap (fun m => (List.range x.lanes).map (fun l =>
      (cellGet s.lanes.masks (maskKey p.1.core (m + 1) (p.1.base + l))).toNat)))
    let regs := parts.flatMap (fun p => (List.range 64).flatMap (fun v =>
      let (vb, dt) := regTag g.core p.1.die v
      if !all && !dt then []
      else (List.range x.lanes).flatMap (fun l => (List.range vb).map (fun b =>
        (at' 7 + (64 * p.2 + v) * 32 * x.lanes + 32 * l + 8 * b,
          field (cellGet s.lanes.vregs (vregKey p.1.core v (p.1.base + l))).toNat (64 * b + 63) (64 * b))))))
    let slices := parts.flatMap (fun p => (List.range x.lanes).flatMap (fun l => (List.range 16).flatMap (fun k =>
      if !all && !g.core.ldt.getLsbD k then []
      else (List.range 32).map (fun b =>
        (at' 8 + (p.2 * x.lanes + l) * 4096 + 256 * k + 8 * b,
          (cellGet s.lanes.slices (sliceKey p.1.core (p.1.base + l) (32 * k + b))).toNat)))))
    zero ++ wordsAt (at' 1) (seq ++ List.replicate (64 - seq.length) 0) ++ wordsAt (at' 2) (queueWords g)
      ++ wordsAt (at' 3) (tagWords g.core dies) ++ wordsAt (at' 4) (holdWords t dies) ++ wordsAt (at' 5) slots
      ++ wordsAt (at' 6) masks ++ wordsAt (at' 9) streams ++ wordsAt (at' 10) chain ++ regs ++ slices

/-- One word of a satchel at an offset from its base, as an engine write; fails where its page does not translate or has no
route (23 R362; log 13). -/
def satchelWrite (k : Kernel) (lnum base : Nat) (s : State) (w : Nat × Nat) : Option State :=
  let a := engineAccessor k.dom k.asid k.root
  match translate s a (base + w.1) .write with
  | .ok pa =>
    if (lostNode s pa).isSome then none else some ((touchAccess s a (base + w.1) pa 8 lnum).store pa (leBytes 8 w.2) true)
  | _ => none

/-- Words of a satchel in order, up to one whose page faults: the machine, the words written, whether all were. -/
def satchelWrites (k : Kernel) (lnum base : Nat) : List (Nat × Nat) → Nat → State → State × Nat × Bool
  | [], n, s => (s, n, true)
  | w :: ws, n, s => match satchelWrite k lnum base s w with
    | some s => satchelWrites k lnum base ws (n + 1) s
    | none => (s, n, false)

/-- The header written at the satchel's base; nothing where its page faults. -/
def writeHeader (k : Kernel) (lnum base : Nat) (ws : List Nat) (s : State) : State :=
  (satchelWrites k lnum base (ws.mapIdx (fun i w => (8 * i, w))) 0 s).1

/-- The save of one thread (23 R361, R362): the machine, and whether it completed. -/
def saveThread (s : State) (k : Kernel) (tid : Nat) (t : Thread) : State × Bool :=
  let base := t.satchelBase
  let x := satchelShape t
  let need := (sectionOffsets (sectionLengths x t.group.isSome)).2
  let all := t.lastSave != some (x.lanes, x.dies, t.satb)
  let header := fun (s : State) (complete : Bool) (written : Nat) =>
    writeHeader k t.lnum base (headerWords tid t k.paired complete written) s
  let stop := fun (s : State) (written cause : Nat) =>
    let s := header s false written
    (s.machineCheck 0x81 false t.isShadow (some tid) t.ctx.pc ((t.group.map vcpOf).getD 0)
      ((t.group.map (fun g => g.core.vssn)).getD 0) t.lnum [w64 written, w64 need, w64 cause] false, false)
  let s := header s false 0
  if t.satchelLen < need then stop s 0 1
  else
    let (s, n, done) := satchelWrites k t.lnum base (sectionWords s tid t all) 0 s
    if done then (header s true (8 * n), true) else stop s (8 * n) 0

/-- A group has stopped so far that it can be saved: no operation runs, no gather is under way (23 R354). -/
def groupSaveable (g : Group) : Bool :=
  g.stop.isSome && !g.faulted && g.closed.isEmpty && g.queue.all (fun o => !o.started)
    && g.gathers.all (fun x => x.delivered.isSome)

/-- SATB as the Proctor writes it before it reissues a save that stopped (23 R362; log 13). -/
def regrown (s : State) (lnum form : Nat) (tid : Nat) (t : Thread) : State × Thread :=
  let t := { t with satb := w64 ((Config.satchelGrown t.isShadow s.tick lnum form t.f).toNat % 2 ^ 56) }
  (s.putThread tid t, t)

/-- LSEAT of the blocks that a form's threads hold or that a pending move names, as it is at the stop (21 R335). -/
def formChart (s : State) (slots : List (Nat × Nat)) : List BlockSeat :=
  (slots.map Prod.fst).eraseDups.flatMap (fun core =>
    let c := s.core core
    let ours := fun (o : Nat) => o != 15 && slots.contains (core, o)
    ((positions 8 (fun b => ours (chartOwner c.cur b) || ours (chartOwner c.nxt b))).map (fun b =>
      ({ core := core, block := b, cur := chartOwner c.cur b, nxt := chartOwner c.nxt b } : BlockSeat))))

/-- The seats of a placement whose threads a form still has, with the runs of blocks that they hold. -/
def stopSeats (mine : List (Nat × Thread)) (seats : List Seat) : List Seat :=
  seats.filterMap (fun x => (mine.find? (fun y => y.1 == x.tid)).map (fun y =>
    { x with block0 := ((y.2.group.map Group.block0).getD 0), nblk := ((y.2.group.map Group.nblk).getD 0) }))

/-- What is kept of a saved thread: its tags cleared, what its streams read ahead discarded (23 R354, R361). -/
def keptThread (t : Thread) : Thread :=
  let x := satchelShape t
  { t with lastSave := some (x.lanes, x.dies, t.satb),
           group := t.group.map (fun g =>
             { g with held := [], notifies := [], posts := [],
                      core := { g.core with ldt := 0, tags := g.core.tags.map (fun e => (e.1, (e.2.1, false))) } }) }

/-- A saved thread gives up its slot, blocks and lanes; its committed writes and posts go on without it (21 R335, 23
R354). -/
def parkThread (s : State) (tid : Nat) (t : Thread) : State :=
  let s := match t.group with
    | none => s
    | some g =>
      let s := g.notifies.foldl (fun s n => performNotify s n t.lnum) s
      { s with fabric := { s.fabric with latePosts := s.fabric.latePosts ++ g.posts.map (fun p => (t.lnum, p)) } }
  let s := freeBlocks s (coreOf tid) (tidSlot tid)
  let s := t.partners.foldl (fun s p => freeBlocks s p.core p.slot) s
  { s with threads := tableDel tid s.threads }

/-- SATCHEL_SAVE: once every agent of a form has stopped, the save engine writes each thread's satchel and the form gives up
its resources; where a save stops, the form stays as it is until the Proctor reissues the save, SATB written anew (23 R354, R361,
R362; 21 R335). -/
def execSatchelSave (lnum form : Nat) (s : State) : Out :=
  match s.kernel lnum with
  | none => .next s
  | some k => match tableGet form k.forms with
    | none => .next s
    | some f =>
      let mine := f.tids.filterMap (fun tid => match s.thread tid with
        | some t => if t.lnum = lnum && t.form = form then some (tid, t) else none
        | none => none)
      let ready := mine.all (fun x => x.2.stopped && !x.2.faulted && (match x.2.group with
        | some g => groupSaveable g
        | none => true))
      if f.status ≠ .stopping || !ready then .next s
      else
        let (s, mine) := if f.short then
            mine.foldl (fun (acc : State × List (Nat × Thread)) x =>
              let (s, t) := regrown acc.1 lnum form x.1 x.2
              (s, acc.2 ++ [(x.1, t)])) (s, [])
          else (s, mine)
        let (s, ok) := mine.foldl (fun (acc : State × Bool) x =>
          if acc.2 then saveThread acc.1 k x.1 x.2 else acc) (s, true)
        if !ok then .next (s.modKernel lnum (fun k => { k with forms := tableMod form (fun f => { f with short := true }) k.forms }))
        else
          let saved := mine.map (fun x => ({ tid := x.1, thread := keptThread x.2 } : SavedThread))
          let slots := mine.flatMap (fun x => (coreOf x.1, tidSlot x.1) :: x.2.partners.map (fun p => (p.core, p.slot)))
          let chart := formChart s slots
          let place := { f.place with seats := stopSeats mine f.place.seats, shadowSeats := stopSeats mine f.place.shadowSeats }
          let s := mine.foldl (fun s x => parkThread s x.1 x.2) s
          let s := s.modKernel lnum (fun k => { k with
            stopOrder := k.stopOrder + 1,
            forms := tableMod form (fun f => { f with
              status := .stopped, short := false, saved := saved, chart := chart, place := place, order := k.stopOrder }) k.forms })
          .next { s with sched := { s.sched with rescan := true } }

/-! The end of a kernel, and retirement. -/

/-- KERNEL_DONE: every form has ended and the work they issued is over (21 R322, R319). -/
def execKernelDone (lnum : Nat) (s : State) : Out :=
  match s.kernel lnum with
  | none => .next s
  | some k =>
    let through := k.forms.isEmpty && (k.ended.isSome || k.nextForm == k.card.nform) && workOver s lnum
    if k.done.isSome || !through then .next s
    else
      let (cause, det) := k.ended.getD (0, 0)
      .next (finishKernel (s.sched.kernels.length + 1) s lnum cause det)

/-- CORE_RETIRE_COMPLETE: no form is resident or stopped on a retiring core (23 R374, 01 R33); BSTAT changes, and vector 2
signals it, where the module was not degraded before (25 R393). A kernel that the remaining cores cannot admit stays queued: its
LAUNCH entry keeps STATE 1 or 3, since R397 has no other for it (DESIGN CHOICE, log 43). -/
def execCoreRetireComplete (core : Nat) (s : State) : Out :=
  let c := s.core core
  let used := s.sched.kernels.any (fun k => k.2.forms.any (fun f => f.2.place.slots.any (fun x => x.1 == core)))
  if !c.retiring || c.retired || used then .next s
  else
    let s := s.putCore core { c with retired := true }
    let s := s.logRecord 5 false 0 11 (core / 48) (core % 48 / 8) (core % 8) 0
    let new := !s.host.degr
    let s := { s with host := { s.host with degr := true }, sched := { s.sched with rescan := true } }
    .next (if new then s.signal 2 else s)

end Sys2Proof.Machine
end

