-- ==== Sys2Proof/Machine/Module.lean ====
section
/-! DEFINITION. The module around its dies: power, bring-up, heat, errors, cache lines, links, the host port's registers (01 R30 to R33; 07 R117 to R120, R130, R133; 23 R351, R372 to R374; 25 R379 to R393, R400). -/

namespace Sys2Proof.Machine

/-! Power. -/

/-- The machine without power: everything is lost but the configuration flash (01 R30). -/
def powerLost (s : State) : State :=
  { State.reset with
    actor := s.actor, agenda := s.agenda, tick := s.tick,
    host := { HostSys.reset with flashNode := s.host.flashNode, hssUsed := s.host.hssUsed, staged := s.host.staged,
                                 msix := s.host.msix, writes := s.host.writes } }

/-- POWER_OFF (01 R30). -/
def execPowerOff (s : State) : Out := .next (powerLost s)

/-- The microcode of the dies as bring-up loads it (25 R381, R420). -/
def bootMicrocode (b : BringUp) : Vector Microcode 4 :=
  Vector.ofFn (fun i =>
    let (level, emask) := b.levels.getD i.val (0, 0)
    { upd := false, emask := emask, level := level, vldz := b.vldz, graphs := b.graphs, tables := b.tables })

/-- PXFRAME and PXHAND as the firmware writes them (25 R378, R381). -/
def bootCores (b : BringUp) : Vector ProctorCore 16 :=
  Vector.ofFn (fun i =>
    let (f, h) := b.frames.getD i.val (0, 0)
    { ProctorCore.reset with pxframe := w64 (field f.toNat 51 4 * 16), pxhand := w64 (field h.toNat 51 4 * 16) })

/-- A peer whose key the module does not hold is keyed at a port's training: the module signs a report, its HSS state advanced
first, and verifies the peer's (25 R387, R408); none where either is not possible. -/
def keyPeer (h : HostSys) (tick peer : Nat) : HostSys × Bool :=
  if 1024 ≤ peer || h.keyed.contains peer then (h, true)
  else if Config.hssSignatures ≤ h.hssUsed then (h, false)
  else
    let h := { h with hssUsed := h.hssUsed + 1 }
    if Config.peerReportVerifies tick peer then ({ h with keyed := setAdd peer h.keyed, lost := setDel peer h.lost }, true)
    else (h, false)

/-- A link port trains: LSTAT and the peer's key (25 R380, R387); a switch port has no node at its far end. A port to a module of
the own number trains for no traffic (25 R384). -/
def trainPort (h : HostSys) (tick port peer : Nat) (sw : Bool) : HostSys :=
  if p : port < 24 then
    if peer = h.node.toNat then h
    else
      let (h, keyed) := keyPeer h tick peer
      if !keyed then h
      else
        let x := h.ports[port]
        { h with ports := h.ports.set port { x with up := true, sw := sw, peer := if sw then 0xFFFF else BitVec.ofNat 16 peer } }
  else h

/-- Step 6 for a module with a node number: ports train and the bridge is chosen (25 R383, R384, R390). -/
def joinGroup (h : HostSys) (b : BringUp) (tick node : Nat) : HostSys :=
  let h := b.ports.foldl (fun h p => trainPort h tick p.1 p.2.1 p.2.2) { h with node := BitVec.ofNat 11 node }
  let mine := if b.hostTrained then [node] else []
  let brn := (mine ++ b.bridges).foldl (fun (m : Option Nat) n => match m with
    | some x => some (min x n)
    | none => some n) none
  { h with brn := BitVec.ofNat 11 (brn.getD 0x7FF), bridge := brn == some node }

/-- Another module that this one reaches announces its node number, and has the lower serial number (25 R384). -/
def numberTaken (h : HostSys) (b : BringUp) : Bool :=
  match h.flashNode with
  | none => false
  | some n => b.announced.any (fun a => a.1 == n && decide (a.2.toNat < b.serial.toNat))

/-- The code of the step that fails, none where bring-up completes: the first of a firmware in flash that does not verify, what
the outside meets in steps 1 to 4, and a node number that is taken (25 R381, R382, R384). -/
def bringUpFails (h : HostSys) (b : BringUp) : Option Nat :=
  if (match h.staged with | some f => !brynpolVerifies f | none => false) then some 1
  else if 1 ≤ b.fail && b.fail ≤ 4 then some b.fail
  else if numberTaken h b then some 5
  else none

/-- POWER_ON: the bring-up steps in order, or a stop at the one that fails, what the steps before it did being kept
(25 R381 to R384). -/
def execPowerOn (b : BringUp) (s : State) : Out :=
  if s.power ≠ .off then .next s
  else
    let s := powerLost s
    let h := { s.host with serial := b.serial, hostPort := if b.hostTrained then some (1024 + s.host.node.toNat) else none }
    let firmware := { h with running := h.staged }
    let started := { s.proctor with cores := bootCores b, micro := bootMicrocode b }
    match bringUpFails h b with
    | some code =>
      let h := { (if code = 1 then h else firmware) with fail := BitVec.ofNat 8 code }
      .next ({ s with power := .failed code, host := h, proctor := if code = 5 then started else s.proctor }.signal 2)
    | none =>
      let h := match h.flashNode with
        | none => { firmware with bridge := b.hostTrained }
        | some n => joinGroup firmware b s.tick n
      let h := { h with ready := true, hostPort := if b.hostTrained then some (1024 + h.brn.toNat) else none }
      .next ({ s with power := .up, host := h, proctor := started }.signal 2)

/-! Heat. -/

/-- A sensor's number in the table: eight to a die, the hub die's last (25 R379). -/
def sensorKey (r : SensorReading) : Nat := r.die * 8 + r.sensor

def setSensor (s : State) (r : SensorReading) : State :=
  if r.die < 5 && r.sensor < 8 then
    { s with proctor := { s.proctor with sensors := tablePut (sensorKey r) (BitVec.ofNat 16 r.temp) s.proctor.sensors } }
  else s

/-- A junction is above a temperature in °C. -/
def hotter (s : State) (t : Nat) : Option (Nat × BitVec 16) := s.proctor.sensors.find? (fun x => t * 256 < x.2.toNat)

/-- BSTAT.HOT follows the junctions, and vector 2 its changes (25 R392, R393). -/
def setHot (s : State) (v : Bool) : State :=
  if s.host.hotBit = v then s else { s with host := { s.host with hotBit := v } }.signal 2

/-- What the sensors' readings bring about (01 R31; 23 R426; 25 R392): power is removed at 112 °C; above 105 °C admission and the
arrays hold, and once every junction is at 100 °C or below they go on. The Proctor logs each entry and exit, and raises a machine
check at the entry. -/
def senseHeat (rs : List SensorReading) (s : State) : State :=
  let s := rs.foldl setSensor s
  if s.proctor.sensors.any (fun x => 112 * 256 ≤ x.2.toNat) then powerLost s
  else match hotter s 105 with
    | some (k, t) =>
      let s := setHot s true
      if s.sched.hot then s
      else { s with sched := { s.sched with hot := true } }.machineCheck 0x82 false false none 0 0 0 0
        [w64 (k / 8), w64 (k % 8), w64 t.toNat] false
    | none =>
      let s := setHot s false
      if !s.sched.hot || (hotter s 100).isSome then s
      else { s with sched := { s.sched with hot := false, rescan := true } }.logRecord 4 false 0 11 4 0 0 0

/-- THERMAL_HOLD: a junction above 105 °C (01 R31). -/
def execThermalHold (r : SensorReading) (s : State) : Out := .next (senseHeat [r] s)

/-- THERMAL_RELEASE: every junction at 100 °C or below (01 R31). -/
def execThermalRelease (rs : List SensorReading) (s : State) : Out := .next (senseHeat rs s)

/-- THERMAL_TRIP: 112 °C removes power (01 R31). -/
def execThermalTrip (r : SensorReading) (s : State) : Out := .next (senseHeat [r] s)

/-! Errors. -/

/-- The place and kernel that a log record of an error names (23 R373): unit, physical address, die, cluster, core, launch
number. -/
def errorPlace (s : State) (u : ErrUnit) : Nat × Nat × Nat × Nat × Nat × Nat :=
  let core := if u.unit = 5 || u.unit = 6 || u.unit = 11 then u.agent / 8 else u.agent
  let lnum := if u.unit = 5 || u.unit = 6 || u.unit = 11 then ((s.thread u.agent).map Thread.lnum).getD 0 else 0
  if u.unit ≤ 3 || u.unit = 10 then
    let (_, d, c, k) := paPlace u.addr
    let slice := if u.unit = 1 || u.unit = 2 then sliceOf (u.addr / 128) % 48 else k
    (u.unit, u.addr, d, c, slice, lnum)
  else if u.unit = 8 && 192 ≤ u.agent then (u.unit, 0, (u.agent - 192) % 4, 0, 0, 0)
  else if u.unit = 11 && 1536 ≤ u.agent then (u.unit, 0, 4, 0, (u.agent - 1536) % 16, 0)
  else (u.unit, 0, core / 48 % 4, core % 48 / 8, core % 8, lnum)

def logError (s : State) (typ : Nat) (u : ErrUnit) : State :=
  let (unit, pa, d, c, k, lnum) := errorPlace s u
  s.logRecord typ false pa unit d c k (w64 lnum)

/-- The core whose registers, spares, lane slices or Slate an error struck. -/
def errorCore (u : ErrUnit) : Option Nat :=
  if u.unit = 4 || u.unit = 7 then some u.agent
  else if u.unit = 5 || u.unit = 6 then some (u.agent / 8)
  else none

/-- Errors count towards a core's retirement: 256 corrected within 2^32 cycles, or one uncorrectable (23 R374). -/
def countError (s : State) (u : ErrUnit) (corrected : Bool) : State :=
  match errorCore u with
  | none => s
  | some k =>
    let c := s.core k
    let now := (s.cycle (k / 48)).toNat
    let errs := if corrected then c.errors.filter (fun x => now - x < 2 ^ 32) ++ [now] else c.errors
    s.putCore k { c with errors := errs, retiring := c.retiring || !corrected || 256 ≤ errs.length }

/-- CORRECTABLE_ERROR: corrected, written back and logged (07 R133, 23 R372). -/
def execCorrectableError (u : ErrUnit) (s : State) : Out := .next (countError (logError s 1 u) u true)

/-- An uncorrectable error in a shared-cache data entry poisons every tag that points to it, which POISN counts; a poisoned
line is not shared further (07 R118, R130). -/
def poisonEntry (sys : MemSys) (line : Nat) : MemSys :=
  match tagOf sys line with
  | none => sys
  | some t =>
    if t.zero then poisonLine sys line
    else
      let k := sliceOf line
      let sl := (tableGet k sys.cache).getD .reset
      let lines := ((tableGet t.entry sl.entries).map CacheEntry.lines).getD [line]
      let sys := lines.foldl poisonLine sys
      let sl := (tableGet k sys.cache).getD .reset
      let sl := { sl with entries := tableMod t.entry (fun e => { e with indexed := false }) sl.entries,
                          poisn := sl.poisn + w64 lines.length }
      { sys with cache := tablePut k sl sys.cache }

/-- The thread whose group holds the lanes of a slot: its own, or one whose partner lies there (03 R55, 23 R351). -/
def groupAt (s : State) (agent : Nat) : Nat :=
  match s.threads.find? (fun x => x.2.partners.any (fun p => p.core * 8 + p.slot == agent)) with
  | some (tid, _) => tid
  | none => agent

/-- The committed state of the group that lies in a slot is poisoned (23 R351). -/
def poisonGroup (s : State) (agent : Nat) : State := s.modGroup (groupAt s agent) (fun g => { g with poisoned := true })

/-- UNCORRECTABLE_ERROR: it poisons its unit, rolls back the strip of a spare register, discards a TLB or loop-buffer entry, or
is corrected from a tag's other copy; logged accordingly (07 R130; 23 R351, R372). -/
def execUncorrectableError (u : ErrUnit) (s : State) : Out :=
  let corrected := fun (s : State) => countError (logError s 1 u) u true
  let lost := fun (s : State) => countError (logError s 2 u) u false
  match u.unit with
  | 0 => .next (lost { s with sys := { s.sys with poison := setAdd (u.addr / 128) s.sys.poison } })
  | 1 => .next (lost { s with sys := poisonEntry s.sys (u.addr / 128) })
  | 2 => .next (corrected s)
  | 3 => .next (lost { s with sys := poisonUnit s.sys u.addr })
  | 4 => .next (lost { s with sys := { s.sys with slicePoison := setAdd (sliceKey u.agent (u.index / 512) (u.index % 512)) s.sys.slicePoison } })
  | 5 => .next (lost (poisonGroup s u.agent))
  | 6 => match (s.group (groupAt s u.agent)).bind Group.strip with
    | some st => if st.written.contains u.index then .next (corrected (rollback s (groupAt s u.agent))) else .next s
    | none => .next s
  | 7 => .next (lost (poisonGroup s (u.agent * 8 + u.index % 8)))
  | 8 =>
    let drop := fun (t : Table (List TlbEntry)) (k : Nat) => tableMod k (fun es => es.eraseIdx u.index) t
    .next (corrected { s with sys :=
      if u.agent < 192 then { s.sys with tlb1 := drop s.sys.tlb1 u.agent }
      else { s.sys with tlb2 := drop s.sys.tlb2 (u.agent - 192) } })
  | 9 => .next (corrected s)
  | 10 => .next (lost { s with sys := poisonUnit s.sys u.addr })
  | _ =>
    if 1536 ≤ u.agent then match s.pcore (u.agent - 1536) with
      | some p => .next (lost (s.putPcore (u.agent - 1536) { p with poisoned := true }))
      | none => .next s
    else .next (lost (s.modThread u.agent (fun t => { t with poisoned := true })))

/-! Shared-cache lines. -/

/-- LINE_FILL: a line filled from HBM is installed, with an entry of its own where it is poisoned or its page has NSH
(07 R118, R130). -/
def execLineFill (line : Nat) (s : State) : Out :=
  match physKind (line * 128) with
  | .hbm _ _ =>
    if (tagOf s.sys line).isSome then .next s
    else
      let bad := s.sys.poison.contains line
      .next { s with sys := cacheInstall s.sys (lineShare s.proctor (line * 128)) line false bad }
  | _ => .next s

/-- LINE_EVICT: a tag leaves its slice, or a data entry with every tag that points to it (07 R119). -/
def execLineEvict (line : Nat) (wholeEntry : Bool) (s : State) : Out :=
  match tagOf s.sys line with
  | none => .next s
  | some t =>
    if wholeEntry && !t.zero then .next { s with sys := evictEntry s.sys (sliceOf line) t.entry }
    else .next { s with sys := evictTag s.sys line }

/-! Links. -/

/-- FLIT_RETRY: LSTAT.RETRY counts, saturating; timing only (25 R380, R387). -/
def execFlitRetry (port : Nat) (s : State) : Out :=
  if p : port < 24 then
    let x := s.host.ports[port]
    let n := if x.retry = 0xFFFF then x.retry else x.retry + 1
    .next { s with host := { s.host with ports := s.host.ports.set port { x with retry := n } } }
  else .next s

/-- LINK_REKEY: a new key for a pair of modules changes nothing that a program or the host sees (25 R387). -/
def execLinkRekey (_node : Nat) (s : State) : Out := .next s

/-- LINK_PORT_FAIL: traffic moves to the other ports of the route, every access already sent being performed (25 R388). -/
def execLinkPortFail (port : Nat) (s : State) : Out :=
  if p : port < 24 then
    let x := s.host.ports[port]
    .next { s with host := { s.host with ports := s.host.ports.set port { x with up := false, sw := false, peer := 0xFFFF } } }
  else .next s

/-- LINK_PORT_TRAIN (25 R387); a module without a node number trains none for traffic (R384). -/
def execLinkPortTrain (port peer : Nat) (sw : Bool) (s : State) : Out :=
  if s.host.node = 0x7FF then .next s else .next { s with host := trainPort s.host s.tick port peer sw }

/-- HOST_PORT_TRAIN: a module of one, or the chosen module, acts as bridge (25 R384, R390). -/
def execHostPortTrain (host : Nat) (s : State) : Out :=
  let h := { s.host with hostPort := some host }
  let alone := h.node = 0x7FF || (h.brn = 0x7FF && h.keyed.isEmpty)
  let h := if alone then { h with bridge := true, brn := h.node } else { h with bridge := h.brn == h.node }
  let s' := { s with host := h }
  .next (if h.bridge = s.host.bridge then s' else s'.signal 2)

/-- ROUTE_LOSS: no route to a node for 10 ms; kernels that have written to it meanwhile end (25 R388). -/
def execRouteLoss (node : Nat) (s : State) : Out :=
  if s.host.ports.any (fun p => p.up && !p.sw && p.peer.toNat == node) || 1024 ≤ node || s.host.lost.contains node then .next s
  else
    let wrote := (s.sched.kernels.map Prod.fst).filter (fun n => s.lives n && Config.wroteUnrouted s.tick n)
    let s := { s with host := { s.host with lost := setAdd node s.host.lost } }
    let s := s.machineCheck 0x87 (!wrote.isEmpty) false none 0 0 0 0 [w64 node] false
    .next (endTogether s wrote 5)

/-- The frame of an address belongs to the system domain of a request: its domain here has the same group tag and key block
(25 R386, R396). -/
def remoteOwns (r : RemoteRequest) (p : Proctor) (pa : Nat) : Bool :=
  match (frameOwner p pa).bind (fun d => tableGet d p.domains) with
  | some d => d.tag == r.tag && d.keyBlock == r.keyBlock
  | none => false

/-- REMOTE_ACCESS: a load, store or atomic of another module is performed at this home; one that names a frame its domain does
not own performs nothing (25 R385, R386, R388; 07 R131). -/
def execRemoteAccess (r : RemoteRequest) (s : State) : Out :=
  let mine := match physKind r.addr, physKind (r.addr + r.size - 1) with
    | .hbm _ false, .hbm _ false => remoteOwns r s.proctor r.addr && remoteOwns r s.proctor (r.addr + r.size - 1)
    | _, _ => false
  if !mine || r.size = 0 || 16 < r.size then .next s
  else
    let s := touchUnits s r.addr r.size 0
    if r.op = 1 then .next (s.store r.addr (leBytes r.size r.data) false)
    else if r.op = 0 || (poisonAt s.sys r.addr r.size).isSome then .next s
    else match amoNew (r.op - 2) r.size (readNat s.sys.mem r.addr r.size) (r.data % 2 ^ (8 * r.size)) (r.compare % 2 ^ (8 * r.size)) with
      | some x => .next (s.store r.addr (leBytes r.size x) false)
      | none => .next s

/-! Registers. -/

/-- DEVICE_REGISTER_WRITE (25 R379). -/
def execDeviceRegisterWrite (off : Nat) (v : Word) (s : State) : Out := .next ((writeDevice s off v).getD s)

/-- BAR0 takes writes: a host port that has trained and that the module serves (01 R27; 25 R382, R391). -/
def portServes (h : HostSys) : Bool := h.hostPort.isSome && h.serves

/-- RING_CONFIG_WRITE: RINGB or RINGN, only while HEAD equals TAIL (25 R391). -/
def execRingConfigWrite (ringn : Bool) (v : Word) (s : State) : Out :=
  let n := v.toNat
  let legal := if ringn then 16 ≤ n && n ≤ 65536 && 2 ^ n.log2 == n else n % 4096 == 0
  if !portServes s.host || s.host.head ≠ s.host.tail || !legal then .next s
  else .next { s with host := if ringn then { s.host with ringn := v } else { s.host with ringb := v } }

/-- JWIN_WRITE: VALID clears (25 R400). -/
def execJwinWrite (v : Word) (s : State) : Out :=
  if !portServes s.host then .next s
  else .next { s with host := { s.host with jwin := v &&& 0x3FFFFFFFFFFFFFFF, jvalid := false } }

/-- JOURNAL_WINDOW_READY: the window holds the entries selected (25 R400). -/
def execJournalWindowReady (s : State) : Out := .next { s with host := { s.host with jvalid := true } }

/-- LWIN_WRITE (25 R391). -/
def execLwinWrite (v : Word) (s : State) : Out :=
  if !portServes s.host then .next s else .next { s with host := { s.host with lwin := v &&& 0x3FF000000000FFFF } }

end Sys2Proof.Machine
end

