-- ==== Sys2Proof/Machine/Commands.lean ====
section
/-! DEFINITION. The submission ring, the journal, BAR0 as the host reads it, and every command (25 R391 to R410, R416 to R423). -/

namespace Sys2Proof.Machine

/-! Host memory and the ring. -/

/-- Bytes of host memory as the bridge reads them now (log 5; 25 R406). -/
def hostBytes (s : State) (a n : Nat) : List Byte := (List.range n).map (fun i => Config.hostByte s.tick (a + i))

/-- The bridge writes bytes to host memory. -/
def hostWrite (s : State) (a : Nat) (bs : List Byte) : State := { s with host := { s.host with writes := s.host.writes ++ [(a, bs)] } }

/-- A command slot (25 R394). -/
def commandOf (bs : List Byte) : Command :=
  let w := fun (o : Nat) => w64 (num bs o 8)
  { typ := BitVec.ofNat 16 (num bs 0 2), dom := BitVec.ofNat 8 (num bs 2 1), flg := BitVec.ofNat 8 (num bs 3 1),
    tgt := BitVec.ofNat 16 (num bs 4 2), htag := w 8, op0 := w 16, op1 := w 24, op2 := w 32, op3 := w 40, op4 := w 48, op5 := w 56,
    cseq := w 64, zeros := zeroAt bs 6 2 && zeroAt bs 72 8, mac := BitVec.ofNat 384 (num bs 80 48) }

/-- The bytes that a command's MAC covers (25 R394). -/
def commandHead (c : Command) : List Byte :=
  leBytes 2 c.typ.toNat ++ leBytes 1 c.dom.toNat ++ leBytes 1 c.flg.toNat ++ leBytes 2 c.tgt.toNat ++ leBytes 2 0
    ++ [c.htag, c.op0, c.op1, c.op2, c.op3, c.op4, c.op5, c.cseq].flatMap (fun w => leBytes 8 w.toNat) ++ leBytes 8 0

/-- The MAC of a command under a domain's command key (25 R394, R410). -/
def commandMac (key : List Byte) (c : Command) : BitVec 384 := BitVec.ofNat 384 (leValue (hmac384 key (commandHead c)))

/-- The bridge reads slots from HEAD on up to one that this module executes; it forwards the others, and passes each once its
entry is written (25 R390, R393, R398). The fuel is RINGN. -/
def readSlots : Nat → State → State
  | 0, s => s
  | fuel + 1, s =>
    let h := s.host
    if h.pending.isSome || h.head = h.tail || h.ringn = 0 then s
    else
      let c := commandOf (hostBytes s (h.ringb.toNat + 128 * (h.head.toNat % h.ringn.toNat)) 128)
      if h.node = 0x7FF || c.tgt.toNat = h.node.toNat then { s with host := { h with pending := some c } }
      else if Config.foreignEntered s.tick h.head.toNat then readSlots fuel { s with host := { h with head := h.head + 1 } }
      else s

/-- TAIL_WRITE: the bridge reads the new slots in order (25 R391, R393); a module that failed with FAIL 5 takes them from its
own host port (R382). -/
def execTailWrite (v : BitVec 32) (s : State) : Out :=
  if !portServes s.host then .next s
  else .next (readSlots (s.host.ringn.toNat + 1) { s with host := { s.host with tail := v } })

/-! The journal. -/

/-- The entry that SEQ n overwrites is final (25 R398). -/
def journalRoom (s : State) : Bool :=
  match tableGet (s.host.nextSeq - 2 ^ 20) s.host.journal with
  | some e => s.host.nextSeq ≤ 2 ^ 20 || e.state == 2 || 4 ≤ e.state
  | none => true

/-- The command that the module meets next: of its own ring, or forwarded by the group's bridge (25 R390). -/
def State.command (s : State) : Option Command :=
  match s.host.pending with
  | some c => some c
  | none =>
    if portServes s.host || s.host.brn = 0x7FF then none
    else (Config.forwardedCommand s.tick).bind (fun c => if c.tgt.toNat = s.host.node.toNat then some c else none)

/-- A command gets its entry in a state, with its result; HEAD passes its slot where it is one of the module's own ring, and the
next is read (25 R397, R398). -/
def closeSlot (s : State) (c : Command) (state det : Nat) (result : Word) : State :=
  let now := s.cycle 4
  let seq := s.host.nextSeq
  let final := state == 2 || 4 ≤ state
  let e : JournalEntry := { seq := seq, cmd := c, state := state, det := det, src := 1024 + s.host.brn.toNat, result := result,
                            tacc := now, tend := if final then now else 0 }
  let j := if 2 ^ 20 < seq then tableDel (seq - 2 ^ 20) s.host.journal else s.host.journal
  let head := if s.host.pending.isSome then s.host.head + 1 else s.host.head
  let s := { s with host := { s.host with journal := tablePut seq e j, nextSeq := seq + 1, pending := none, head := head } }
  let s := if final && c.flg.getLsbD 0 then s.signal 0 else s
  readSlots (s.host.ringn.toNat + 1) s

/-- Types that take no MAC (25 R396). -/
def macless (typ : Nat) : Bool := typ == 1 || 11 ≤ typ

/-- Why a command is refused before its operands are looked at, as a DET of 25 R399: malformed, reserved or not accepted in this
state of the module, its domain absent or being destroyed, MAC, CSEQ (R382, R384, R394 to R396). -/
def slotDet (s : State) (c : Command) : Option Nat :=
  let typ := c.typ.toNat
  if !c.zeros || 4 ≤ c.flg.toNat || typ = 0 || 14 < typ then some 3
  else if (s.host.node = 0x7FF && typ ≠ 11 && typ ≠ 13 && typ ≠ 14) || (s.host.fail = 5 && typ ≠ 14) then some 3
  else if macless typ then (if c.dom = 0xFF && c.cseq = 0 && c.mac = 0 then none else some 3)
  else if 64 ≤ c.dom.toNat then some 3
  else match tableGet c.dom.toNat s.proctor.domains with
    | none => some 8
    | some d =>
      if d.dying.isSome then some 8
      else if c.mac ≠ commandMac d.command c then some 1
      else if c.cseq.toNat ≠ d.cseq + 1 then some 2
      else none

/-- What a command comes to: not yet, refused, or accepted in a state with a result. -/
inductive Verdict where
  | later
  | refused (s : State) (det : Nat) (result : Word)
  | accepted (s : State) (state det : Nat) (result : Word)

/-- A command that only takes effect when its slot is next (25 R398): its entry, and CSEQ rises as it is accepted
(R395). With no command to run, the bridge looks at its ring again. -/
def runCommand (typ seq : Nat) (s : State) (body : State → Command → Verdict) : Out :=
  match s.command with
  | none => .next (readSlots (s.host.ringn.toNat + 1) s)
  | some c =>
    if c.typ.toNat ≠ typ || seq ≠ s.host.nextSeq || !journalRoom s then .next s
    else match slotDet s c with
      | some det => .next (closeSlot s c 2 det 0)
      | none => match body s c with
        | .later => .next s
        | .refused s det r => .next (closeSlot s c 2 det r)
        | .accepted s state det r =>
          let s := if macless typ then s
            else { s with proctor := { s.proctor with
              domains := tableMod c.dom.toNat (fun d => { d with cseq := c.cseq.toNat }) s.proctor.domains } }
          .next (closeSlot s c state det r)

/-- RESERVED_COMMAND: a slot with a TYPE that 25 R396 does not name is refused with DET 3. -/
def execReservedCommand (c : Command) (s : State) : Out :=
  if s.command ≠ some c || !journalRoom s || (1 ≤ c.typ.toNat && c.typ.toNat ≤ 14) then .next s
  else .next (closeSlot s c 2 3 0)

/-! BAR0 as the host reads it. -/

/-- A journal entry's 64 bytes (25 R397). -/
def entryBytes (e : JournalEntry) : List Byte :=
  leBytes 8 e.seq ++ leBytes 8 e.cmd.htag.toNat ++ leBytes 2 e.cmd.typ.toNat ++ leBytes 1 e.cmd.dom.toNat ++ leBytes 1 e.state
    ++ leBytes 1 e.det ++ leBytes 1 0 ++ leBytes 2 e.src ++ leBytes 8 e.result.toNat ++ leBytes 8 e.tacc.toNat
    ++ leBytes 8 e.tend.toNat ++ leBytes 8 e.cmd.cseq.toNat ++ leBytes 8 0

/-- Entry i of the journal window, once it holds the entries selected: SEQ FIRST + i, zero where there is none (25 R400). -/
def journalWindow (s : State) (i : Nat) : List Byte :=
  match tableGet (field s.host.jwin.toNat 51 0 + i) s.host.journal with
  | some e => entryBytes e
  | none => leBytes 64 0

/-- The log record at an index of the ring (23 R373): the latest whose number has it, zero where there is none. -/
def logWindow (s : State) (index : Nat) : List Byte :=
  let p := s.proctor
  let first := p.logNext - p.log.length
  match p.log[(index + 65536 - first % 65536) % 65536]? with
  | some r => [r.w0, r.w1, r.cyc, r.tag].flatMap (fun w => leBytes 8 w.toNat)
  | none => leBytes 32 0

/-- A selector names this module: its node, or any node while it has none (25 R384, R391). -/
def ownNode (s : State) (selector : Word) : Bool := s.host.node = 0x7FF || field selector.toNat 61 52 == s.host.node.toNat

/-- The doubleword of BAR0 at an offset (25 R391, R392, R400): none on a port that the module does not serve (01 R27); BSTAT only
where bring-up has failed (R382). Windows of another node show what its bridge forwards. -/
def bar0Read (s : State) (off : Nat) : Option Word :=
  if !portServes s.host || off % 8 ≠ 0 || 0x100000 ≤ off then none
  else if off = 0 then some (bstatOf s)
  else if s.host.fail ≠ 0 then some 0
  else
    let other := Config.remoteWindow s.tick off
    some (match off with
      | 0x08 => nodeidOf s
      | 0x10 => s.host.ringb
      | 0x18 => s.host.ringn
      | 0x20 => w64 s.host.tail.toNat
      | 0x28 => w64 s.host.head.toNat
      | 0x30 => s.host.jwin ||| (if s.host.jvalid then 0x8000000000000000 else 0)
      | 0x38 => s.host.lwin
      | 0x40 => if ownNode s s.host.lwin then w64 s.proctor.overwritten else other
      | _ =>
        if off < 0x10000 then 0
        else if off < 0x80000 then
          if ownNode s s.host.jwin && s.host.jvalid then w64 (num (journalWindow s ((off - 0x10000) / 64)) (off % 64) 8) else other
        else if ownNode s s.host.lwin then
          w64 (num (logWindow s ((field s.host.lwin.toNat 15 0 + (off - 0x80000) / 32) % 65536)) (off % 32) 8)
        else other)

/-! Domains and reports. -/

/-- Report bytes (25 R409) for a domain's number, key block digest, nonce and EPUB. -/
def reportOf (s : State) (dom : Nat) (keydig nonce epub : List Byte) : List Byte :=
  let h := s.host
  let level := fun (d : Nat) => leBytes 4 (dieLevel s d)
  let body := leBytes 4 0x52545441 ++ leBytes 2 1 ++ leBytes 2 1 ++ leBytes 8 h.serial.toNat
    ++ sha384 (h.running.getD Config.shippedFirmware)
    ++ level 0 ++ level 1 ++ level 2 ++ level 3 ++ leBytes 1 dom ++ leBytes 7 0 ++ keydig ++ nonce ++ epub
  body ++ beBytes 96 (Config.reportEc h.hssUsed body).toNat ++ leBytes 4 hssSigBytes
    ++ beBytes hssSigBytes (Config.reportHss h.hssUsed body).toNat

/-- The module signs a report and writes it to the host, its HSS state advanced first (25 R408). -/
def writeReport (s : State) (at' dom : Nat) (keydig nonce epub : List Byte) : State :=
  let r := reportOf s dom keydig nonce epub
  hostWrite { s with host := { s.host with hssUsed := s.host.hssUsed + 1 } } at' r

/-- DCREATE (25 R396, R403, R409). -/
def execDcreate (seq : Nat) (s : State) : Out :=
  runCommand 1 seq s (fun s c =>
    let block := hostBytes s c.op0.toNat 304
    if !zeroAt block 156 4 then .refused s 3 0
    else if Config.hssSignatures ≤ s.host.hssUsed then .refused s 7 0
    else match (List.range 64).find? (fun d => (tableGet d s.proctor.domains).isNone), takeTable s 0 with
      | some d, some (s, root) =>
        let dom : Domain := {
          keyBlock := block, memory := Config.memoryKeys s.tick, sharing := Config.sharingKey s.tick, epub := ecdhPublic s.tick,
          command := commandKey s.tick block, transfer := transferKey s.tick block, tag := c.op1, cseq := 0, root := root, dying := none }
        let s := { s with proctor := { s.proctor with domains := tablePut d dom s.proctor.domains } }
        .accepted (writeReport s c.op2.toNat d (sha384 block) (sub block 256 48) dom.epub) 4 0 (w64 d)
      | _, _ => .refused s 7 0)

/-- ATTEST (25 R396, R409). -/
def execAttest (seq : Nat) (s : State) : Out :=
  runCommand 11 seq s (fun s c =>
    let nonce := hostBytes s c.op0.toNat 48
    if c.op0.toNat % 16 ≠ 0 || 256 ≤ c.op2.toNat then .refused s 3 0
    else if c.op2 ≠ 0xFF && (tableGet c.op2.toNat s.proctor.domains).isNone then .refused s 8 0
    else if Config.hssSignatures ≤ s.host.hssUsed then .refused s 7 0
    else match tableGet c.op2.toNat s.proctor.domains with
      | some d => .accepted (writeReport s c.op1.toNat c.op2.toNat (sha384 d.keyBlock) nonce d.epub) 4 0 0
      | none => .accepted (writeReport s c.op1.toNat 0xFF (leBytes 48 0) nonce (leBytes 96 0)) 4 0 0)

/-- DDESTROY: the domain's kernels end with CAUSE 5 (25 R407). -/
def execDdestroy (seq : Nat) (s : State) : Out :=
  runCommand 2 seq s (fun s c =>
    let dom := c.dom.toNat
    let s := endTogether s ((s.sched.kernels.filter (fun k => k.2.dom == dom)).map Prod.fst) 5
    .accepted { s with proctor := { s.proctor with domains := tableMod dom (fun d => { d with dying := some seq }) s.proctor.domains } } 3 0 0)

/-- DDESTROY_COMPLETE: every kernel of the domain is done; its images go, its address space is invalidated and then its frames
and its number are free (25 R407). -/
def execDdestroyComplete (dom : Nat) (s : State) : Out :=
  match (tableGet dom s.proctor.domains).bind Domain.dying with
  | none => .next s
  | some seq =>
    let busy := s.sched.kernels.any (fun k => k.2.dom == dom && k.2.done.isNone)
    let begun := s.sys.invalidations.any (fun i => i.dom == dom && i.last)
    if busy || begun then .next s
    else
      let waits := s.proctor.images.filterMap (fun e => if e.2.dom = dom then e.2.unloading else none)
      let s := { s with proctor := { s.proctor with
        images := s.proctor.images.filter (fun e => e.2.dom != dom), regions := s.proctor.regions.filter (fun r => r.dom != dom) } }
      let s := waits.foldl (fun s n => finishEntry s n 4 0 none) s
      let frames := s.proctor.frames.filterMap (fun f => if f.2.dom = dom then some f.1 else none)
      let i : Invalidation := { dom := dom, lo := 0, hi := 2 ^ 56, release := frames, kept := [], seq := some seq, last := true }
      .next { s with sys := { s.sys with invalidations := s.sys.invalidations ++ [i] } }

/-! Images. -/

/-- The highest level of a die. -/
def topLevel (s : State) : Nat := (List.range 4).foldl (fun m d => max m (dieLevel s d)) 0

/-- An invalidation of a range of the domain is under way. -/
def invalidating (s : State) (dom base len : Nat) : Bool :=
  s.sys.invalidations.any (fun i => i.dom == dom && overlaps base len i.lo (i.hi - i.lo))

/-- LOAD (25 R396, R415 to R419). -/
def execLoad (seq : Nat) (s : State) : Out :=
  runCommand 3 seq s (fun s c =>
    let base := c.op2.toNat
    let dom := c.dom.toNat
    if 2 ^ 30 < c.op1.toNat || base % 65536 ≠ 0 || windowBase ≤ base then .refused s 3 0
    else
      let bs := hostBytes s c.op0.toNat c.op1.toNat
      let newest := Config.gozanNewest s.host.running
      match readContainer bs, tableGet dom s.proctor.domains with
      | some k, some d =>
        if k.gver < newest - 4 || newest < k.gver then .refused s 5 0
        else if !signatureVerifies (tenantKeys d.keyBlock) k.signed k.signature then .refused s 4 0
        else match chooseImage k bs base (topLevel s) with
          | none => .accepted s 5 6 0
          | some (file, n, flag, order) =>
            let ranges := nativeRanges base n
            if ranges.any (fun r => invalidating s dom r.1 r.2) then .later
            else if !ranges.all (fun r => baseFits s dom r.1 r.2) then .accepted s 5 7 0
            else match placeImage s dom d.root base n with
              | none => .accepted s 5 7 0
              | some s =>
                let handle := s.proctor.nextImage
                let im : Image := {
                  dom := dom, base := base, ktab := ((n.sections.find? (fun x => x.typ == 5)).map NativeSection.voff).getD 0,
                  level := n.level, vllo := n.vllo, vlhi := n.vlhi, tver := n.tver, kernels := n.kernels, order := order,
                  uses := nativeUses n, nests := if flag = 0 then some bs else none, sections := ranges, unloading := none }
                let s := { s with proctor := { s.proctor with images := tablePut handle im s.proctor.images, nextImage := handle + 1 } }
                let digest := sha384 file ++ leBytes 4 n.level ++ leBytes 4 flag
                  ++ leBytes 8 (Config.firmwareVersion s.host.running).toNat
                .accepted (hostWrite s c.op3.toNat digest) 4 0 (w64 handle)
      | _, _ => .refused s 3 0)

/-- The image that a command names in its own domain, not one that is being unloaded. -/
def ownImage (s : State) (c : Command) (handle : Word) : Option Image :=
  (s.image handle.toNat).bind (fun im => if im.dom = c.dom.toNat && im.unloading.isNone then some im else none)

/-- UNLOAD (25 R396). -/
def execUnload (seq : Nat) (s : State) : Out :=
  runCommand 4 seq s (fun s c =>
    match ownImage s c c.op0 with
    | none => .refused s 8 0
    | some _ => .accepted { s with proctor := { s.proctor with
        images := tableMod c.op0.toNat (fun im => { im with unloading := some seq }) s.proctor.images } } 3 0 0)

/-- UNLOAD_COMPLETE: every kernel of the image is done, and it is unmapped (25 R396, R402). -/
def execUnloadComplete (handle : Nat) (s : State) : Out :=
  match s.image handle with
  | none => .next s
  | some im => match im.unloading with
    | none => .next s
    | some seq =>
      if s.sched.kernels.any (fun k => k.2.image == handle && k.2.done.isNone) then .next s
      else
        let s := { s with proctor := { s.proctor with images := tableDel handle s.proctor.images } }
        let ends := im.sections.map (fun r => r.1 + r.2)
        .next (unmapRange s im.dom im.base (ends.foldl max im.base - im.base) 0 (some seq) false)

/-! Kernels. -/

/-- The unit that takes a LAUNCH: of those whose die meets the level, the one with the fewest kernels, the lowest at a tie
(25 R396). -/
def launchUnit (s : State) (level : Nat) : Nat :=
  (((List.range 4).filter (fun d => level ≤ dieLevel s d)).foldl (fun (m : Option Nat) d => match m with
    | some x => if unitLoad s d < unitLoad s x then some d else m
    | none => some d) none).getD 0

/-- The sets of the statements of a translated container are bounded for a card's arguments (25 R413). -/
def nestsBounded (container : List Byte) (params : List Word) : Bool :=
  match readContainer container with
  | none => true
  | some k => k.nests.statements.all (fun st => match k.nests.sets[st.set]? with
    | some x => setBounded params x
    | none => true)

/-- LAUNCH (25 R396, R397, R399). -/
def execLaunch (seq : Nat) (s : State) : Out :=
  runCommand 5 seq s (fun s c =>
    match ownImage s c c.op1 with
    | none => .refused s 8 0
    | some im => match im.order[c.op2.toNat]?, tableGet c.dom.toNat s.proctor.domains with
      | some native, some d =>
        let ws := (List.range 42).map (fun i => num (hostBytes s (c.op0.toNat + 8 * i) 8) 0 8)
        let unit := launchUnit s im.level
        if c.op0.toNat % 16 ≠ 0 || field (cardWord ws 0) 55 0 ≠ 0 then .refused s 3 0
        else if 1024 ≤ unitLoad s unit then .refused s 7 0
        else if (match im.nests with
          | some bs => !nestsBounded bs (cardOf ws).args
          | none => false) then .accepted s 5 6 0
        else
          let ws := ws.set 0 (cardWord ws 0 + im.base + im.ktab + 128 * native)
          let (s, n, det) := submitCard s ws unit c.dom.toNat c.dom.toNat d.root 0 false (c.flg.getLsbD 1) (some seq)
          if n = 0 then .refused s 9 (w64 det) else .accepted s 1 0 (w64 n)
      | _, _ => .refused s 3 0)

/-- CANCEL (25 R396, 21 R323). -/
def execCancel (seq : Nat) (s : State) : Out :=
  runCommand 6 seq s (fun s c =>
    match s.kernel c.op0.toNat with
    | none => .refused s 8 0
    | some k => if k.dom = c.dom.toNat then .accepted (endKernel s c.op0.toNat 5 0) 4 0 0 else .refused s 8 0)

/-! Staging. -/

/-- The physical addresses of a range in 16-byte pieces, LAZY pages mapped on demand; or why not, as a DET (25 R396,
R402). -/
def stageRange (s : State) (dom root va n : Nat) (k : Access) : Except Nat (State × List Nat) :=
  (List.range (n / 16)).foldlM (fun (acc : State × List Nat) i =>
    let a := va + 16 * i
    let tr := fun (s : State) => translate s (engineAccessor dom dom root) a k
    let take := fun (s : State) (pa : Nat) => match physKind pa with
      | .hbm _ _ => Except.ok (s, acc.2 ++ [pa])
      | _ => Except.error 6
    match tr acc.1 with
    | .ok pa => take acc.1 pa
    | .bad 0 _ => (match lazyRegion acc.1 dom a with
      | none => .error 6
      | some r => match mapOne acc.1 r root r.die a with
        | none => .error 7
        | some s => match tr s with
          | .ok pa => take s pa
          | _ => .error 6)
    | _ => .error 6) (s, [])

/-- The IV of a staging command: CSEQ, and four zero bytes (25 R410). -/
def commandIv (c : Command) : List Byte := leBytes 8 c.cseq.toNat ++ leBytes 4 0

/-- The rules of a staging command's operands (25 R396). -/
def stageLegal (c : Command) : Bool :=
  c.op0.toNat % 16 == 0 && c.op1.toNat % 16 == 0 && c.op2.toNat % 16 == 0 && c.op2.toNat ≤ 0x4000000

/-- STAGEIN: the tag is verified before anything is written (25 R396, R410). -/
def execStagein (seq : Nat) (s : State) : Out :=
  runCommand 7 seq s (fun s c =>
    match tableGet c.dom.toNat s.proctor.domains with
    | none => .refused s 8 0
    | some d =>
      if !stageLegal c then .refused s 3 0
      else
        let n := c.op2.toNat
        match gcmOpen d.transfer (commandIv c) (commandHead c) n (hostBytes s c.op0.toNat (n + 16)) with
        | none => .accepted s 5 4 0
        | some plain => match stageRange s c.dom.toNat d.root c.op1.toNat n .write with
          | .error det => .accepted s 5 det 0
          | .ok (s, pas) =>
            .accepted ((pas.zipIdx).foldl (fun s x => s.store x.1 (sub (plain ++ leBytes n 0) (16 * x.2) 16) false) s) 4 0 0)

/-- STAGEOUT (25 R396, R406, R410). -/
def execStageout (seq : Nat) (s : State) : Out :=
  runCommand 8 seq s (fun s c =>
    match tableGet c.dom.toNat s.proctor.domains with
    | none => .refused s 8 0
    | some d =>
      if !stageLegal c then .refused s 3 0
      else match stageRange s c.dom.toNat d.root c.op0.toNat c.op2.toNat .read with
        | .error det => .accepted s 5 det 0
        | .ok (s, pas) => match pas.find? (fun pa => (poisonAt s.sys pa 16).isSome) with
          | some pa => .accepted (logPoison s pa 0) 5 6 0
          | none =>
            let plain := pas.flatMap (fun pa => readBytes s.sys.mem pa 16)
            .accepted (hostWrite s c.op1.toNat (gcmSeal d.transfer (commandIv c) (commandHead c) plain)) 4 0 0)

/-! Regions. -/

/-- MAP (25 R396, R401). -/
def execMap (seq : Nat) (s : State) : Out :=
  runCommand 9 seq s (fun s c =>
    let base := c.op0.toNat
    let len := c.op1.toNat
    let f := c.op2.toNat
    let page := field f 5 4
    let size := pageSize page
    if page = 3 || 64 ≤ f || (bitOf f 2 && bitOf f 3) || base % size ≠ 0 || len = 0 || len % size ≠ 0 || 2 ^ 40 < len
        || windowBase < base + len || overlaps base len loaderPage 65536 then .refused s 3 0
    else if invalidating s c.dom.toNat base len then .later
    else if !baseFits s c.dom.toNat base len then .accepted s 5 7 0
    else
      let r : Region := { dom := c.dom.toNat, base := base, len := len, page := page, lazy := bitOf f 0, nsh := bitOf f 1,
                          wr := bitOf f 2, ex := bitOf f 3, die := 0 }
      match addRegion s r with
      | some s => .accepted s 4 0 0
      | none => .accepted s 5 7 0)

/-- UNMAP: its entry is final once the invalidation is (25 R396, R402). -/
def execUnmap (seq : Nat) (s : State) : Out :=
  runCommand 10 seq s (fun s c =>
    match dropRegion s c.dom.toNat c.op0.toNat c.op1.toNat (some seq) with
    | none => .refused s 8 0
    | some s => .accepted s 3 0 0)

/-! Microcode, firmware, the node number. -/

/-- The microcode that a package carries (25 R420). -/
def packageMicrocode (bs : List Byte) : Microcode :=
  let (level, emask, vldz, graphs, tables) := Config.packageDescriptor bs
  { upd := false, emask := BitVec.ofNat 16 emask, level := BitVec.ofNat 32 level, vldz := vldz, graphs := graphs, tables := tables }

/-- A package that lowers a die's level, or withdraws what the image of a kernel not yet done relies on (25 R423). -/
def packageRefused (s : State) (m : Microcode) : Bool :=
  (List.range 4).any (fun d => m.level.toNat < dieLevel s d)
    || s.sched.kernels.any (fun k => k.2.done.isNone && (match s.image k.2.image with
        | some im => im.uses.any (fun x => !m.provides x)
        | none => false))

/-- FLVL.UPD of a die. -/
def setUpd (s : State) (die : Nat) (v : Bool) : State :=
  if h : die < 4 then
    { s with proctor := { s.proctor with micro := s.proctor.micro.set die { s.proctor.micro[die] with upd := v } } }
  else s

/-- An update starts with die 0 (25 R422). -/
def startUpdate (s : State) (seq : Nat) (m : Microcode) : State :=
  setUpd { s with proctor := { s.proctor with update := some { seq := seq, code := m, die := 0 } } } 0 true

/-- MCODE's own slot: its checks, and the update's start where none runs (25 R423). -/
def mcodeCommand (seq : Nat) (s : State) : Out :=
  runCommand 12 seq s (fun s c =>
    let bs := hostBytes s c.op0.toNat c.op1.toNat
    let m := packageMicrocode bs
    if !brynpolVerifies bs then .refused s 4 0
    else if packageRefused s m then .refused s 10 0
    else if s.proctor.update.isSome || !s.proctor.queued.isEmpty then
      .accepted { s with proctor := { s.proctor with queued := s.proctor.queued ++ [{ seq := seq, code := m, die := 0 }] } } 1 0 0
    else .accepted (startUpdate s seq m) 3 0 0)

/-- MCODE: taken from its slot, or started after the updates before it (25 R422, R423). -/
def execMcode (seq : Nat) (s : State) : Out :=
  match s.proctor.queued.head? with
  | some u =>
    if u.seq ≠ seq then mcodeCommand seq s
    else if s.proctor.update.isSome then .next s
    else
      let s := { s with proctor := { s.proctor with queued := s.proctor.queued.drop 1 } }
      if packageRefused s u.code then .next (finishEntry s seq 5 10 none)
      else
        let s := { s with host := { s.host with journal := tableMod seq (fun e => { e with state := 3 }) s.host.journal } }
        .next (startUpdate s seq u.code)
  | none => mcodeCommand seq s

/-- Forms that hold a die's cores, but for those that have stopped. -/
def formsOn (s : State) (die : Nat) : List (Nat × Form) :=
  s.sched.kernels.flatMap (fun k => k.2.forms.filterMap (fun f =>
    if f.2.status ≠ .stopped && f.2.place.slots.any (fun x => x.1 / 48 == die) then some (k.1, f.2) else none))

/-- Forms that waited for a feature of a die may resume once every die that they lie on provides it (21 R339). -/
def clearNeeds (s : State) : State :=
  let has := fun (f : Form) (x : Feature) => f.place.slots.all (fun p => if h : p.1 / 48 < 4 then (s.proctor.micro[p.1 / 48]).provides x else false)
  let fix := fun (f : Form) => match f.needs with
    | some x => if has f x then { f with needs := none } else f
    | none => f
  { s with sched := { s.sched with rescan := true,
                                   kernels := s.sched.kernels.map (fun k => (k.1, { k.2 with forms := k.2.forms.map (fun f => (f.1, fix f.2)) })) } }

/-- MCODE_DIE_UPDATE: the die's forms are asked to stop; once they have, its microcode is replaced and the next die's turn
comes (25 R422). -/
def execMcodeDieUpdate (die : Nat) (s : State) : Out :=
  match s.proctor.update with
  | none => .next s
  | some u =>
    if u.die ≠ die then .next s
    else if h : die < 4 then
      match formsOn s die with
      | [] =>
        let s := { s with proctor := { s.proctor with micro := s.proctor.micro.set die u.code } }
        let s := clearNeeds s
        if die = 3 then .next (finishEntry { s with proctor := { s.proctor with update := none } } u.seq 4 0 none)
        else .next (setUpd { s with proctor := { s.proctor with update := some { u with die := die + 1 } } } (die + 1) true)
      | fs => .next (fs.foldl (fun s f => if formSaveable s f.2 then requestStop s f.1 f.2 else s) s)
    else .next s

/-- FWSTAGE (25 R396, R408). -/
def execFwstage (seq : Nat) (s : State) : Out :=
  runCommand 13 seq s (fun s c =>
    let bs := hostBytes s c.op0.toNat c.op1.toNat
    if brynpolVerifies bs then .accepted { s with host := { s.host with staged := some bs } } 4 0 0
    else .refused s 4 0)

/-- NODESET (25 R384, R396). -/
def execNodeset (seq : Nat) (s : State) : Out :=
  runCommand 14 seq s (fun s c =>
    if 1023 < c.op0.toNat then .refused s 3 0
    else .accepted { s with host := { s.host with flashNode := some c.op0.toNat } } 4 0 0)

end Sys2Proof.Machine
end

