-- ==== Sys2Proof/Machine/Float.lean ====
section
/-! DEFINITION. Scalar floating point (11 R176 to R179; 05 R76 to R80, R85). -/

namespace Sys2Proof.Machine

/-- FMODE's rounding mode as scalar instructions honour it (05 R80). -/
def ScalarCtx.round (c : ScalarCtx) : Rounding := ⟨((roundModeOf c.fmode.toNat).getD .rne).noRsr, 0⟩

/-- A result with its flags goes to rd (11 R176, 05 R85). -/
def intoFloat (s : State) (rd : BitVec 5) (ty : BitVec 4) (f : FType → ScalarCtx → Nat × Flags) : Out :=
  runRegs s (fun c =>
    let (v, g) := f ((scalarFType ty.toNat).getD .f32) c
    let c := c.wr rd (w64 v)
    { c with fflags := c.fflags ||| g }.step)

/-- A source value: the low bits of a register (11 R176). -/
def ScalarCtx.fl (c : ScalarCtx) (f : FType) (r : BitVec 5) : Nat := (c.rd r).toNat % 2 ^ f.bits

/-- A truth value with its flags. -/
def boolFloat (r : Bool × Flags) : Nat × Flags := (if r.1 then 1 else 0, r.2)

/-- The rounding operand of FTOI and FTON (11 R177). -/
def roundOperand (c : ScalarCtx) (rm : BitVec 5) : Rounding :=
  match rm.toNat with
  | 1 => ⟨.rne, 0⟩
  | 2 => ⟨.rtz, 0⟩
  | 3 => ⟨.rup, 0⟩
  | 4 => ⟨.rdn, 0⟩
  | _ => c.round

/-- FADD (11 R177). -/
def execFadd (rd rs1 rs2 : BitVec 5) (ty : BitVec 4) (s : State) : Out :=
  intoFloat s rd ty (fun f c => fAdd f c.round (c.fl f rs1) (c.fl f rs2))

/-- FSUB (11 R177). -/
def execFsub (rd rs1 rs2 : BitVec 5) (ty : BitVec 4) (s : State) : Out :=
  intoFloat s rd ty (fun f c => fSub f c.round (c.fl f rs1) (c.fl f rs2))

/-- FMUL (11 R177). -/
def execFmul (rd rs1 rs2 : BitVec 5) (ty : BitVec 4) (s : State) : Out :=
  intoFloat s rd ty (fun f c => fMul f c.round (c.fl f rs1) (c.fl f rs2))

/-- FDIV (11 R177). -/
def execFdiv (rd rs1 rs2 : BitVec 5) (ty : BitVec 4) (s : State) : Out :=
  intoFloat s rd ty (fun f c => fDiv f c.round (c.fl f rs1) (c.fl f rs2))

/-- FMIN (11 R177). -/
def execFmin (rd rs1 rs2 : BitVec 5) (ty : BitVec 4) (s : State) : Out :=
  intoFloat s rd ty (fun f c => fMinMax f false (c.fl f rs1) (c.fl f rs2))

/-- FMAX (11 R177). -/
def execFmax (rd rs1 rs2 : BitVec 5) (ty : BitVec 4) (s : State) : Out :=
  intoFloat s rd ty (fun f c => fMinMax f true (c.fl f rs1) (c.fl f rs2))

/-- FEQ (11 R177). -/
def execFeq (rd rs1 rs2 : BitVec 5) (ty : BitVec 4) (s : State) : Out :=
  intoFloat s rd ty (fun f c => boolFloat (fCmp f 0 (c.fl f rs1) (c.fl f rs2)))

/-- FLT (11 R177). -/
def execFlt (rd rs1 rs2 : BitVec 5) (ty : BitVec 4) (s : State) : Out :=
  intoFloat s rd ty (fun f c => boolFloat (fCmp f 2 (c.fl f rs1) (c.fl f rs2)))

/-- FLE (11 R177). -/
def execFle (rd rs1 rs2 : BitVec 5) (ty : BitVec 4) (s : State) : Out :=
  intoFloat s rd ty (fun f c => boolFloat (fCmp f 3 (c.fl f rs1) (c.fl f rs2)))

/-- FSQRT (11 R177). -/
def execFsqrt (rd rs1 : BitVec 5) (ty : BitVec 4) (s : State) : Out :=
  intoFloat s rd ty (fun f c => fSqrt f c.round (c.fl f rs1))

/-- FCLASS (11 R178). -/
def execFclass (rd rs1 : BitVec 5) (ty : BitVec 4) (s : State) : Out :=
  intoFloat s rd ty (fun f c => (2 ^ fClass f (c.fl f rs1), 0))

/-- FCVT (11 R177, 05 R79). -/
def execFcvt (rd rs1 : BitVec 5) (sty ty : BitVec 4) (s : State) : Out :=
  intoFloat s rd ty (fun f c =>
    let src := (scalarFType sty.toNat).getD .f32
    fConv src f c.round (c.fl src rs1))

/-- FTOI (11 R177, 05 R79). -/
def execFtoi (rd rs1 rm : BitVec 5) (ty : BitVec 4) (s : State) : Out :=
  intoFloat s rd ty (fun f c => fToInt f true 64 (roundOperand c rm) (c.fl f rs1))

/-- FTON (11 R177, 05 R79). -/
def execFton (rd rs1 rm : BitVec 5) (ty : BitVec 4) (s : State) : Out :=
  intoFloat s rd ty (fun f c => fToInt f false 64 (roundOperand c rm) (c.fl f rs1))

/-- ITOF (11 R177). -/
def execItof (rd rs1 : BitVec 5) (ty : BitVec 4) (s : State) : Out :=
  intoFloat s rd ty (fun f c => intToF f c.round (c.rd rs1).toInt)

/-- NTOF (11 R177). -/
def execNtof (rd rs1 : BitVec 5) (ty : BitVec 4) (s : State) : Out :=
  intoFloat s rd ty (fun f c => intToF f c.round ((c.rd rs1).toNat : Int))

/-- FMADD (11 R179). -/
def execFmadd (rd rs1 rs2 rs3 : BitVec 5) (ty : BitVec 4) (s : State) : Out :=
  intoFloat s rd ty (fun f c => fFma f c.round false false (c.fl f rs1) (c.fl f rs2) (c.fl f rs3))

/-- FMSUB (11 R179). -/
def execFmsub (rd rs1 rs2 rs3 : BitVec 5) (ty : BitVec 4) (s : State) : Out :=
  intoFloat s rd ty (fun f c => fFma f c.round false true (c.fl f rs1) (c.fl f rs2) (c.fl f rs3))

/-- FNMADD (11 R179). -/
def execFnmadd (rd rs1 rs2 rs3 : BitVec 5) (ty : BitVec 4) (s : State) : Out :=
  intoFloat s rd ty (fun f c => fFma f c.round true true (c.fl f rs1) (c.fl f rs2) (c.fl f rs3))

/-- FNMSUB (11 R179). -/
def execFnmsub (rd rs1 rs2 rs3 : BitVec 5) (ty : BitVec 4) (s : State) : Out :=
  intoFloat s rd ty (fun f c => fFma f c.round true false (c.fl f rs1) (c.fl f rs2) (c.fl f rs3))

end Sys2Proof.Machine
end

