-- ==== Sys2Proof/Machine/Tables.lean ====
section
/-! DEFINITION. The built-in tables of VFN: a microcode's segments and the steps around them, kept within the maximum error of 05 R94 (05 R92 to R94, R424; log 6). -/

namespace Sys2Proof.Machine

/-! The exact functions, in integers that count units of 2^-320. -/

abbrev Fixed := Int

def fixedBits : Nat := 320

def fixedOne : Fixed := 2 ^ fixedBits

def fixedMul (a b : Fixed) : Fixed := a * b / 2 ^ fixedBits

def fixedDiv (a b : Fixed) : Fixed := a * 2 ^ fixedBits / b

/-- A sum of terms, each made from the one before it and its number; the fuel is their count. -/
def fixedSeries (next : Nat → Fixed → Fixed) : Nat → Nat → Fixed → Fixed
  | 0, _, _ => 0
  | fuel + 1, k, t => t + fixedSeries next fuel (k + 1) (next k t)

/-- The sum of z^(2k+1) / (2k+1), its terms alternating where `alt`: atan z, or atanh z. -/
def fixedAtan (alt : Bool) (z : Fixed) : Nat → Nat → Fixed → Fixed
  | 0, _, _ => 0
  | fuel + 1, k, p =>
    (if alt && k % 2 = 1 then -p else p) / ((2 * k + 1 : Nat) : Int) + fixedAtan alt z fuel (k + 1) (fixedMul p (fixedMul z z))

/-- π by Machin's formula. -/
def fixedPi : Fixed := 16 * fixedAtan true (fixedOne / 5) 80 0 (fixedOne / 5) - 4 * fixedAtan true (fixedOne / 239) 80 0 (fixedOne / 239)

/-- ln y for y from 1 to 2. -/
def fixedLnUnit (y : Fixed) : Fixed :=
  let z := fixedDiv (y - fixedOne) (y + fixedOne)
  2 * fixedAtan false z 110 0 z

def fixedLn2 : Fixed := fixedLnUnit (2 * fixedOne)

/-- ln x for x above 0. -/
def fixedLn (x : Fixed) : Fixed :=
  let k : Int := (x.toNat.log2 : Int) - fixedBits
  fixedLnUnit (if 0 ≤ k then x / 2 ^ k.toNat else x * 2 ^ (-k).toNat) + k * fixedLn2

/-- e^x; 0 below -300, and as at 300 above it. -/
def fixedExp (x : Fixed) : Fixed :=
  if x < -300 * fixedOne then 0
  else
    let x := if 300 * fixedOne < x then 300 * fixedOne else x
    let n := x / fixedLn2
    let r := x - n * fixedLn2
    let y := fixedSeries (fun k t => fixedMul t r / ((k + 1 : Nat) : Int)) 90 0 fixedOne
    if 0 ≤ n then y * 2 ^ n.toNat else y / 2 ^ (-n).toNat

/-- The square root. -/
def fixedSqrt (x : Fixed) : Fixed :=
  let n := (x * 2 ^ fixedBits).toNat
  ((List.range (n.log2 / 2 + 1)).reverse.foldl (fun r i => if (r + 2 ^ i) * (r + 2 ^ i) ≤ n then r + 2 ^ i else r) 0 : Nat)

/-- erf x: 2x/√π e^(-x²) times the sum of (2x²)^k / (3·5·…·(2k+1)); ±1 from 14 on. -/
def fixedErf (x : Fixed) : Fixed :=
  if 14 * fixedOne ≤ x then fixedOne
  else if x ≤ -14 * fixedOne then -fixedOne
  else
    let q := fixedMul x x
    let sum := fixedSeries (fun k t => 2 * fixedMul t q / ((2 * k + 3 : Nat) : Int)) 900 0 fixedOne
    fixedMul (fixedDiv (2 * fixedMul x (fixedExp (-q))) (fixedSqrt fixedPi)) sum

/-- sin and cos of 0 to 2π, from their first term. -/
def fixedTrig (x first : Fixed) (k0 : Nat) : Fixed :=
  fixedSeries (fun k t => -fixedMul (fixedMul t x) x / (((k0 + 2 * k + 1) * (k0 + 2 * k + 2) : Nat) : Int)) 90 0 first

def fixedTanh (x : Fixed) : Fixed :=
  if 200 * fixedOne < x then fixedOne
  else
    let e := fixedExp (2 * x)
    fixedDiv (e - fixedOne) (e + fixedOne)

def fixedSigmoid (x : Fixed) : Fixed :=
  let e := fixedExp (-(x.natAbs : Int))
  fixedDiv (if x < 0 then e else fixedOne) (fixedOne + e)

/-- The function of a built-in table at a finite argument in its domain (05 R94). -/
def exactFunction (table : Nat) (x : Fixed) : Fixed :=
  let part := x % (2 * fixedOne)
  match table with
  | 0 => fixedMul x ((fixedOne + fixedErf (fixedDiv x (fixedSqrt (2 * fixedOne)))) / 2)
  | 1 =>
    if 30 * fixedOne < x then x
    else if x < -30 * fixedOne then 0
    else
      let cube := fixedMul x (fixedMul x x) * 44715 / 1000000
      fixedMul x (fixedOne + fixedTanh (fixedMul (fixedSqrt (fixedDiv (2 * fixedOne) fixedPi)) (x + cube))) / 2
  | 2 => fixedErf x
  | 3 => fixedExp (fixedMul x fixedLn2)
  | 4 => fixedDiv (fixedLn x) fixedLn2
  | 5 => fixedDiv fixedOne x
  | 6 => fixedDiv fixedOne (fixedSqrt x)
  | 7 => fixedTanh x
  | 8 => fixedSigmoid x
  | 9 => fixedMul x (fixedSigmoid x)
  | 10 => fixedExp x
  | 11 => fixedLn x
  | 12 => fixedSqrt x
  | 13 => fixedTrig (fixedMul fixedPi part) (fixedMul fixedPi part) 1
  | 14 => fixedTrig (fixedMul fixedPi part) fixedOne 0
  | _ =>
    if 300 * fixedOne < x then x else fixedLn (fixedOne + fixedExp x)

/-! Errors. -/

/-- A finite value in units. -/
def fixedOf (neg : Bool) (m : Nat) (e : Int) : Fixed :=
  let n : Int := if neg then -(m : Int) else m
  if 0 ≤ e + fixedBits then n * 2 ^ (e + fixedBits).toNat else n / 2 ^ (-(e + fixedBits)).toNat

/-- Round(x, f32, rne) of a number of units. -/
def fixedRound (x : Fixed) : Nat := (roundVal .f32 rneR (.fin (decide (x < 0)) x.natAbs (-fixedBits))).1

/-- One ulp of .f32 at a value (PRESUMED, log 6: the spacing of .f32 in its binade). -/
def ulpOf (x : Fixed) : Fixed := 2 ^ (max ((x.natAbs.log2 : Int) - 23) ((fixedBits : Int) - 149)).toNat

/-- The maximum error of a built-in table in ulp, and whether 2^-126 absolute will do instead (05 R94). -/
def maxError (table : Nat) : Nat × Bool :=
  match table with
  | 0 | 1 | 9 => (4, true)
  | 2 | 3 | 4 | 7 | 8 => (2, false)
  | 5 | 6 | 12 => (1, false)
  | 13 | 14 => (3, true)
  | _ => (3, false)

/-- An .f32 result lies within a table's maximum error of a value; the bound is over finite results, and an infinity stands for a
value past the largest finite one. -/
def withinError (table : Nat) (value : Fixed) (y : Nat) : Bool :=
  let (k, abs) := maxError table
  match FType.f32.value y with
  | .nan _ => false
  | .inf s => s == decide (value < 0) && (2 : Int) ^ (128 + fixedBits) ≤ value.natAbs + k * ulpOf value
  | .fin s m e =>
    let d := ((fixedOf s m e - value).natAbs : Int)
    d ≤ k * ulpOf value || (abs && d ≤ 2 ^ (fixedBits - 126))

/-! The steps (05 R94). -/

/-- The segments of a built-in table's version, as a table of 05 R92. -/
def builtinSeg (version table x : Nat) : FVal := FType.f32.value (segTable (Config.builtinWord version table) x).1

/-- exp2: integer and fraction apart, the power of two applied after it. Which integer is the version's. -/
def stepExp2 (version table x : Nat) : FVal :=
  match FType.f32.value x with
  | .fin s m e =>
    let v := fixedOf s m e
    let n := v / fixedOne + (if Config.builtinSplit version table x then 1 else 0)
    match builtinSeg version table (fixedRound (v - n * fixedOne)) with
    | .fin t k g => .fin t k (g + max (-1000) (min 1000 n))
    | y => y
  | y => y

/-- log2: exponent and mantissa apart, the exponent added after. -/
def stepLog2 (version table x : Nat) : FVal :=
  match FType.f32.value x with
  | .fin _ m e =>
    let up : Int := if Config.builtinSplit version table x then 1 else 0
    let k := (m.log2 : Int) + e + up
    let y := builtinSeg version table (roundVal .f32 rneR (.fin false m (-(m.log2 : Int) - up))).1
    FType.f32.value (rounded .f32 rneR (sumVal (ieeeZero .rne) [y, .fin (decide (k < 0)) k.natAbs 0])).1
  | y => y

/-- Reduction modulo 2, which is exact. -/
def stepModTwo (version table x : Nat) : FVal :=
  match FType.f32.value x with
  | .fin s m e =>
    let r := fixedOf s m e % (2 * fixedOne)
    builtinSeg version table (fixedRound (if Config.builtinSplit version table x && fixedOne ≤ r then r - 2 * fixedOne else r))
  | y => y

/-- What the segments and the steps of a table's version come to. -/
def builtinSteps (version table x : Nat) : Nat :=
  let out := fun (y : FVal) => (roundVal .f32 rneR y).1
  match table with
  | 3 => out (stepExp2 version table x)
  | 4 => out (stepLog2 version table x)
  | 10 => (match FType.f32.value x with
    | .fin s m e => out (stepExp2 version table (fixedRound (fixedDiv (fixedOf s m e) fixedLn2)))
    | y => out y)
  | 11 => (match stepLog2 version table x with
    | .fin s m e => fixedRound (fixedMul (fixedOf s m e) fixedLn2)
    | y => out y)
  | 13 | 14 => out (stepModTwo version table x)
  | _ => out (builtinSeg version table x)

/-- What a version of a built-in table gives for a finite argument that no rule fixes: what its segments come to, where that keeps
the maximum error that every version keeps, else the nearest value (05 R94; log 6). -/
def builtinSegments (version table x : Nat) : Nat :=
  match FType.f32.value x with
  | .fin s m e =>
    let exact := exactFunction table (fixedOf s m e)
    let y := builtinSteps version table x
    if withinError table exact y then y else fixedRound exact
  | _ => x

end Sys2Proof.Machine
end

