-- ==== Sys2Proof/Machine/VectorCompute.lean ====
section
/-! DEFINITION. Elementwise vector arithmetic, conversion, comparison, complex products, mask logic and element access (15 R236 to R242, R253, R262; 05 R69 to R81). -/

namespace Sys2Proof.Machine

/-- The element type of a typed instruction. -/
def elemTypeOf (f : VFields) : ElemType := typeOf f.ty.toNat (sgOf f)

/-- An element as the instruction's type reads it: bits [7:6] of a 6-bit element are ignored (05 R69). -/
def VCtx.elem (v : VCtx) (s : State) (f : VFields) (reg : BitVec 6) (e : Nat) : Nat :=
  v.get s reg.toNat (elemTypeOf f).width e % 2 ^ (elemTypeOf f).bits

/-- The second source as the instruction's type reads it (15 R234, 05 R69). -/
def VCtx.second (v : VCtx) (s : State) (f : VFields) (e : Nat) : Nat :=
  v.src s f (elemTypeOf f).width e % 2 ^ (elemTypeOf f).bits

/-- The rounding mode that RMO and the block give (15 R232). -/
def VCtx.rmo (v : VCtx) (f : VFields) : RoundMode := v.mode (fnField f 20 18)

/-- A floating operation of R236 with one rounding, and its integer operation; only the first counts towards k of 05 R81. -/
def arith (i : Instr) (f : VFields) (s : State) (flt : FType → Rounding → Nat → Nat → Nat → Nat × Flags)
    (int : Bool → Nat → Nat → Nat → Nat → Nat × Flags) : Out :=
  let t := elemTypeOf f
  elementwise i f s t.width [] (fun v => if t.isFloat then v.rmo f else .rne) (fun s v e =>
    let x := v.elem s f f.vs1 e
    let y := v.second s f e
    let z := v.elem s f f.vs3 e
    match t with
    | .flt g => flt g (v.rounding (v.rmo f) e 0) x y z
    | .int sg w => int sg w x y z)

/-- An operation of R236 that rounds nothing. -/
def plain (i : Instr) (f : VFields) (s : State) (flt : FType → Nat → Nat → Nat × Flags)
    (int : Bool → Nat → Nat → Nat → Nat × Flags) : Out :=
  let t := elemTypeOf f
  elementwise i f s t.width [] (fun _ => .rne) (fun s v e =>
    let x := v.elem s f f.vs1 e
    let y := v.second s f e
    match t with
    | .flt g => flt g x y
    | .int sg w => int sg w x y)

/-- An integer result kept modulo 2^n, no flag. -/
def kept (w : Nat) (x : Int) : Nat × Flags := (keep x w, 0#7)

/-- An integer result clipped to its type, IS when it clips. -/
def clippedTo (sg : Bool) (w : Nat) (x : Int) : Nat × Flags :=
  let (lo, hi) := intRange sg w
  let (c, clipped) := satInt x lo hi
  (keep c w, flagIf clipped fIS)

/-- An operation that no floating type takes. -/
def noFloat : FType → Nat → Nat → Nat × Flags := fun _ x _ => (x, 0#7)

/-- VADD (15 R236). -/
def execVadd (f : VFields) (s : State) : Out :=
  arith (.vadd f) f s (fun g r x y _ => fAdd g r x y) (fun _ w x y _ => kept w ((x : Int) + y))

/-- VSUB (15 R236). -/
def execVsub (f : VFields) (s : State) : Out :=
  arith (.vsub f) f s (fun g r x y _ => fSub g r x y) (fun _ w x y _ => kept w ((x : Int) - y))

/-- VMUL (15 R236). -/
def execVmul (f : VFields) (s : State) : Out :=
  arith (.vmul f) f s (fun g r x y _ => fMul g r x y) (fun _ w x y _ => kept w ((x : Int) * y))

/-- VFMA (15 R236). -/
def execVfma (f : VFields) (s : State) : Out :=
  arith (.vfma f) f s (fun g r x y z => fFma g r false false x y z) (fun _ w x y z => kept w ((x : Int) * y + z))

/-- VFMS (15 R236). -/
def execVfms (f : VFields) (s : State) : Out :=
  arith (.vfms f) f s (fun g r x y z => fFma g r false true x y z) (fun _ w x y z => kept w ((x : Int) * y - z))

/-- VFNMA (15 R236). -/
def execVfnma (f : VFields) (s : State) : Out :=
  arith (.vfnma f) f s (fun g r x y z => fFma g r true true x y z) (fun _ _ x _ _ => (x, 0#7))

/-- VFNMS (15 R236). -/
def execVfnms (f : VFields) (s : State) : Out :=
  arith (.vfnms f) f s (fun g r x y z => fFma g r true false x y z) (fun _ _ x _ _ => (x, 0#7))

/-- VDIV (15 R236). -/
def execVdiv (f : VFields) (s : State) : Out :=
  arith (.vdiv f) f s (fun g r x y _ => fDiv g r x y) (fun _ _ x _ _ => (x, 0#7))

/-- VSQRT (15 R236). -/
def execVsqrt (f : VFields) (s : State) : Out :=
  arith (.vsqrt f) f s (fun g r x _ _ => fSqrt g r x) (fun _ _ x _ _ => (x, 0#7))

/-- VMIN (15 R236). -/
def execVmin (f : VFields) (s : State) : Out :=
  plain (.vmin f) f s (fun g x y => fMinMax g false x y)
    (fun sg w x y => (if readInt sg w y < readInt sg w x then y else x, 0#7))

/-- VMAX (15 R236). -/
def execVmax (f : VFields) (s : State) : Out :=
  plain (.vmax f) f s (fun g x y => fMinMax g true x y)
    (fun sg w x y => (if readInt sg w x < readInt sg w y then y else x, 0#7))

/-- VABS (15 R236). -/
def execVabs (f : VFields) (s : State) : Out :=
  plain (.vabs f) f s (fun g x _ => (x % 2 ^ (g.bits - 1), 0#7)) (fun _ w x _ => kept w (sext x w).natAbs)

/-- VNEG (15 R236). -/
def execVneg (f : VFields) (s : State) : Out :=
  plain (.vneg f) f s (fun g x _ => (x ^^^ 2 ^ (g.bits - 1), 0#7)) (fun _ w x _ => kept w (-(x : Int)))

/-- VMULH (15 R236). -/
def execVmulh (f : VFields) (s : State) : Out :=
  plain (.vmulh f) f s noFloat (fun sg w x y => kept w (readInt sg w x * readInt sg w y / (2 ^ w : Nat)))

/-- VSADD (15 R236). -/
def execVsadd (f : VFields) (s : State) : Out :=
  plain (.vsadd f) f s noFloat (fun sg w x y => clippedTo sg w (readInt sg w x + readInt sg w y))

/-- VSSUB (15 R236). -/
def execVssub (f : VFields) (s : State) : Out :=
  plain (.vssub f) f s noFloat (fun sg w x y => clippedTo sg w (readInt sg w x - readInt sg w y))

/-- VAND (15 R236). -/
def execVand (f : VFields) (s : State) : Out := plain (.vand f) f s noFloat (fun _ _ x y => (x &&& y, 0#7))

/-- VOR (15 R236). -/
def execVor (f : VFields) (s : State) : Out := plain (.vor f) f s noFloat (fun _ _ x y => (x ||| y, 0#7))

/-- VXOR (15 R236). -/
def execVxor (f : VFields) (s : State) : Out := plain (.vxor f) f s noFloat (fun _ _ x y => (x ^^^ y, 0#7))

/-- VSHL: 0 for a count of n or more (15 R236). -/
def execVshl (f : VFields) (s : State) : Out :=
  plain (.vshl f) f s noFloat (fun _ w x y => (if w ≤ y then 0 else x * 2 ^ y % 2 ^ w, 0#7))

/-- VSHR: all sign bits or 0 for a count of n or more (15 R236). -/
def execVshr (f : VFields) (s : State) : Out :=
  plain (.vshr f) f s noFloat (fun sg w x y => kept w (readInt sg w x / (2 ^ min y w : Nat)))

/-- VCLZ (15 R236). -/
def execVclz (f : VFields) (s : State) : Out := plain (.vclz f) f s noFloat (fun _ w x _ => (clzN w x % 2 ^ w, 0#7))

/-- VPOPC (15 R236). -/
def execVpopc (f : VFields) (s : State) : Out := plain (.vpopc f) f s noFloat (fun _ w x _ => (popcount w x % 2 ^ w, 0#7))

/-- VSEL: the mask that VS3 names chooses x or y, bit for bit (15 R236). -/
def execVsel (f : VFields) (s : State) : Out :=
  let w := (elemTypeOf f).width
  elementwise (.vsel f) f s w [] (fun _ => .rne) (fun s v e =>
    (if v.mask s w f.vs3.toNat e then v.elem s f f.vs1 e else v.second s f e, 0#7))

/-- VMOV (15 R236). -/
def execVmov (f : VFields) (s : State) : Out :=
  elementwise (.vmov f) f s (elemTypeOf f).width [] (fun _ => .rne) (fun s v e => (v.second s f e, 0#7))

/-- VIDX (15 R237). -/
def execVidx (f : VFields) (s : State) : Out :=
  let w := (elemTypeOf f).width
  elementwise (.vidx f) f s w [] (fun _ => .rne) (fun _ v e => (((v.w f.vs1).toNat + e) % 2 ^ w, 0#7))

/-- VCVT (15 R238). -/
def execVcvt (f : VFields) (s : State) : Out :=
  let dst := elemTypeOf f
  let src := typeOf (fnField f 3 0) (fnField f 8 8)
  let rounds := dst.isFloat || src.isFloat
  elementwise (.vcvt f) f s dst.width [src.width] (fun v => if rounds then v.rmo f else .rne) (fun s v e =>
    convert src dst 0 (fnField f 17 17 == 1) (v.rounding (v.rmo f) e 0) (v.get s f.vs1.toNat src.width e))

/-- The condition of VCMP on integers (15 R239). -/
def intCond (cc : Nat) (x y : Int) : Bool :=
  match cc with
  | 0 => decide (x = y)
  | 1 => decide (x ≠ y)
  | 2 => decide (x < y)
  | 3 => decide (x ≤ y)
  | 4 => decide (y < x)
  | _ => decide (y ≤ x)

/-- VCMP (15 R239). -/
def execVcmp (f : VFields) (s : State) : Out :=
  runVector (.vcmp f) s (fun s v => do
    let t := elemTypeOf f
    v.widths [t.width]
    let cc := fnField f 19 16
    let rs := (v.active s f t.width).map (fun e =>
      let x := v.elem s f f.vs1 e
      let y := v.second s f e
      (e, match t with
        | .flt g => fCmp g cc x y
        | .int sg w => (intCond cc (readInt sg w x) (readInt sg w y), 0#7)))
    let s' := v.putMask s t.width f.vd.toNat (rs.map (fun r => (r.1, r.2.1)))
    pure (v.next (v.flags s' (rs.foldl (fun g r => g ||| r.2.2) 0#7)) 8))

/-- A complex product, with the addend of VCMAC or 0 (15 R240). -/
def complexProduct (i : Instr) (f : VFields) (s : State) (addend : Bool) : Out :=
  runVector i s (fun s v => do
    v.widths [32]
    let m := v.rmo f
    let pairs := (v.active s f 32).filter (fun e => e % 2 == 0 && e + 1 < v.vl)
    let val := fun (reg : BitVec 6) e => FType.f32.value (v.get s reg.toNat 32 e)
    let rs := pairs.flatMap (fun e =>
      let ar := val f.vs1 e
      let ai := val f.vs1 (e + 1)
      let br := val f.vs2 e
      let bi := if fnField f 0 0 = 1 then (val f.vs2 (e + 1)).negate else val f.vs2 (e + 1)
      let cr := if addend then val f.vs3 e else .fin false 0 0
      let ci := if addend then val f.vs3 (e + 1) else .fin false 0 0
      [(e, complexPart (v.rounding m e 0) true cr ar br ai bi),
       (e + 1, complexPart (v.rounding m e 1) false ci ar bi ai br)])
    let s' ← v.write s f.vd.toNat 32 (rs.map (fun r => (r.1, r.2.1)))
    let s' := v.flags s' (rs.foldl (fun g r => g ||| r.2.2) 0#7)
    pure (v.next (v.counted s' m) 8))

/-- VCMUL (15 R240). -/
def execVcmul (f : VFields) (s : State) : Out := complexProduct (.vcmul f) f s false

/-- VCMAC (15 R240). -/
def execVcmac (f : VFields) (s : State) : Out := complexProduct (.vcmac f) f s true

/-- Mask logic at the positions below VL that the fragment mask holds (15 R241). -/
def maskLogic (i : Instr) (f : VFields) (s : State) (op : Bool → Bool → Bool) : Out :=
  runVector i s (fun s v => do
    v.widths [1]
    let w := v.vtypeWidth
    let es := positions v.vl v.frag
    let rs := es.map (fun e => (e, op (v.mask s w f.vs1.toNat e) (v.mask s w f.vs2.toNat e)))
    pure (v.next (v.putMask s w f.vd.toNat rs) 8))

/-- VMAND (15 R241). -/
def execVmand (f : VFields) (s : State) : Out := maskLogic (.vmand f) f s (fun a b => a && b)

/-- VMOR (15 R241). -/
def execVmor (f : VFields) (s : State) : Out := maskLogic (.vmor f) f s (fun a b => a || b)

/-- VMXOR (15 R241). -/
def execVmxor (f : VFields) (s : State) : Out := maskLogic (.vmxor f) f s (fun a b => a != b)

/-- VMANDN (15 R241). -/
def execVmandn (f : VFields) (s : State) : Out := maskLogic (.vmandn f) f s (fun a b => a && !b)

/-- The positions that VMPOP and VMFIRST consider (15 R242). -/
def VCtx.marked (v : VCtx) (s : State) (f : VFields) : List Nat :=
  (v.active s f v.vtypeWidth).filter (fun e => v.mask s v.vtypeWidth f.vs1.toNat e)

/-- VMPOP (15 R242). -/
def execVmpop (f : VFields) (s : State) : Out :=
  runVector (.vmpop f) s (fun s v => do
    v.widths [1]
    pure (v.next (v.setW s f.vd (w64 (v.marked s f).length)) 8))

/-- VMFIRST (15 R242). -/
def execVmfirst (f : VFields) (s : State) : Out :=
  runVector (.vmfirst f) s (fun s v => do
    v.widths [1]
    pure (v.next (v.setW s f.vd (match v.marked s f with
      | e :: _ => w64 e
      | [] => BitVec.allOnes 64)) 8))

/-- VEXTW (15 R253). -/
def execVextw (f : VFields) (s : State) : Out :=
  runVector (.vextw f) s (fun s v => do
    let w := (elemTypeOf f).width
    v.widths [w]
    let k := (v.w f.vs2).toNat
    let x := if k < v.vl then (if sgOf f = 1 then BitVec.ofInt 64 (sext (v.elem s f f.vs1 k) w) else w64 (v.elem s f f.vs1 k))
      else 0
    pure (v.next (v.setW s f.vd x) 8))

/-- VINSW (15 R253). -/
def execVinsw (f : VFields) (s : State) : Out :=
  runVector (.vinsw f) s (fun s v => do
    let w := (elemTypeOf f).width
    v.widths [w]
    let k := (v.w f.vs2).toNat
    let es := if k < v.vl && v.frag k then [(k, (v.w f.vs1).toNat % 2 ^ (elemTypeOf f).bits)] else []
    let s' ← v.write s f.vd.toNat w es
    pure (v.next s' 8))

end Sys2Proof.Machine
end

