-- ==== Sys2Proof/Machine/Permute.lean ====
section
/-! DEFINITION. Permutes, the exchange between dies, reductions, row statistics, special functions and user tables (15 R243 to R252, R262; 05 R88 to R94; 25 R421). -/

namespace Sys2Proof.Machine

/-! Permutes. -/

/-- The length of the block of a die position (15 R243). -/
def VCtx.blockLen (v : VCtx) (w p : Nat) : Nat := min (v.vmax w) (v.vl - p * v.vmax w)

/-- Local element k of a register in the block of a die position; zero bits past the block (15 R243). -/
def VCtx.localElem (v : VCtx) (s : State) (f : VFields) (reg : BitVec 6) (p k : Nat) : Nat :=
  let w := (elemTypeOf f).width
  if k < v.blockLen w p then v.elem s f reg (p * v.vmax w + k) else 0

/-- A permute whose result at an active element follows from its die position and local index (15 R243, R244, R246). -/
def permute (i : Instr) (f : VFields) (s : State) (others : List Nat) (pick : State → VCtx → Nat → Nat → Nat → Nat) : Out :=
  let w := (elemTypeOf f).width
  elementwise i f s w others (fun _ => .rne) (fun s v e => (pick s v e (e / v.vmax w) (e % v.vmax w), 0#7))

/-- The count of a slide or broadcast: a w register or the immediate, unsigned (15 R244). -/
def VCtx.slideCount (v : VCtx) (f : VFields) : Nat := if fnField f 22 21 = 1 then (v.w f.vs2).toNat else fnField f 15 0

/-- VPERM: its indices are read as .n32 (15 R244). -/
def execVperm (f : VFields) (s : State) : Out :=
  permute (.vperm f) f s [32] (fun s v e p _ => v.localElem s f f.vs1 p (v.get s f.vs2.toNat 32 e))

/-- VSLIDEUP (15 R244). -/
def execVslideup (f : VFields) (s : State) : Out :=
  permute (.vslideup f) f s [] (fun s v _ p k =>
    if v.slideCount f ≤ k then v.localElem s f f.vs1 p (k - v.slideCount f) else 0)

/-- VSLIDEDN (15 R244). -/
def execVslidedn (f : VFields) (s : State) : Out :=
  permute (.vslidedn f) f s [] (fun s v _ p k => v.localElem s f f.vs1 p (k + v.slideCount f))

/-- VBCAST (15 R244). -/
def execVbcast (f : VFields) (s : State) : Out :=
  permute (.vbcast f) f s [] (fun s v _ p _ => v.localElem s f f.vs1 p (v.slideCount f))

/-- VZIP (15 R246). -/
def execVzip (f : VFields) (s : State) : Out :=
  permute (.vzip f) f s [] (fun s v _ p k =>
    v.localElem s f (if k % 2 = 0 then f.vs1 else f.vs2) p
      (k / 2 + fnField f 16 16 * (v.blockLen (elemTypeOf f).width p / 2)))

/-- VUNZIP (15 R246). -/
def execVunzip (f : VFields) (s : State) : Out :=
  permute (.vunzip f) f s [] (fun s v _ p k =>
    let n := v.blockLen (elemTypeOf f).width p
    let j := 2 * k + fnField f 16 16
    if j < n then v.localElem s f f.vs1 p j else v.localElem s f f.vs2 p (j - n))

/-- The active elements of the block of each die position, by local index. -/
def VCtx.blockActive (v : VCtx) (s : State) (f : VFields) : List (Nat × List Nat) :=
  let w := (elemTypeOf f).width
  let es := v.active s f w
  (List.range v.parts.length).map (fun p => (p, (es.filter (fun e => e / v.vmax w == p)).map (fun e => e % v.vmax w)))

/-- VCOMPRESS (15 R245). -/
def execVcompress (f : VFields) (s : State) : Out :=
  runVector (.vcompress f) s (fun s v => do
    let w := (elemTypeOf f).width
    v.widths [w]
    let rs := (v.blockActive s f).flatMap (fun b =>
      b.2.zipIdx.map (fun x => (b.1 * v.vmax w + x.2, v.localElem s f f.vs1 b.1 x.1)))
    let s' ← v.write s f.vd.toNat w rs
    pure (v.next s' 8))

/-- VEXPAND (15 R245). -/
def execVexpand (f : VFields) (s : State) : Out :=
  runVector (.vexpand f) s (fun s v => do
    let w := (elemTypeOf f).width
    v.widths [w]
    let rs := (v.blockActive s f).flatMap (fun b =>
      b.2.zipIdx.map (fun x => (b.1 * v.vmax w + x.1, v.localElem s f f.vs1 b.1 x.2)))
    let s' ← v.write s f.vd.toNat w rs
    pure (v.next s' 8))

/-- VXCHG (15 R247, R248). -/
def execVxchg (f : VFields) (s : State) : Out :=
  runVector (.vxchg f) s (fun s v => do
    let w := (elemTypeOf f).width
    v.widths [w]
    let c := (v.w f.vs2).toNat
    let n := v.parts.length
    let vm := v.vmax w
    let pb := field c 51 50
    let pa := field c 49 48
    let cnt := field c 47 32
    let db := field c 31 16
    let sa := field c 15 0
    if n = 1 || n ≤ pa || n ≤ pb || pa = pb then v.illegal 16 0
    else if vm < sa + cnt || vm < db + cnt || field c 63 53 ≠ 0 then v.illegal 17 0
    else do
      let rs := (List.range cnt).flatMap (fun i =>
        let a := pa * vm + sa + i
        let b := pb * vm + db + i
        (b, v.elem s f f.vs1 a) :: (if bitOf c 52 then [(a, v.elem s f f.vs1 b)] else []))
      let s' ← v.write s f.vd.toNat w rs
      pure (v.next s' 8))

/-! Reductions. -/

/-- The rows of a reduction: their positions (15 R249). -/
def VCtx.rows (v : VCtx) (f : VFields) : List (List Nat) :=
  let r := if fnField f 15 0 = 0 then v.vl else fnField f 15 0
  if v.vl = 0 then []
  else (List.range ((v.vl + r - 1) / r)).map (fun k => (List.range (min r (v.vl - k * r))).map (fun j => k * r + j))

/-- A reduction by the tree of 05 R88 over each row (15 R249). -/
def reduction (i : Instr) (f : VFields) (s : State) (op : VCtx → Nat → Nat → Nat × Flags) (ident : Nat) : Out :=
  runVector i s (fun s v => do
    let w := (elemTypeOf f).width
    v.widths [w]
    let on := v.active s f w
    let rs := (v.rows f).map (fun row =>
      reduceTree (op v) ident (row.map (fun e => if on.contains e then some (v.elem s f f.vs1 e) else none)))
    let s' ← v.write s f.vd.toNat w (rs.zipIdx.map (fun x => (x.2, x.1.1)))
    pure (v.next (v.flags s' (rs.foldl (fun g r => g ||| r.2) 0#7)) 8))

/-- VREDSUM: rsr is taken as rne (15 R249, 05 R80). -/
def execVredsum (f : VFields) (s : State) : Out :=
  reduction (.vredsum f) f s (fun v a b => match elemTypeOf f with
    | .flt g => fAdd g ⟨(v.mode 0).noRsr, 0⟩ a b
    | .int _ w => ((a + b) % 2 ^ w, 0#7)) 0

/-- VREDMAX (15 R249). -/
def execVredmax (f : VFields) (s : State) : Out :=
  reduction (.vredmax f) f s (fun _ a b => match elemTypeOf f with
    | .flt g => fMinMax g true a b
    | .int sg w => (if readInt sg w a < readInt sg w b then b else a, 0#7)) (windowIdentity f.ty.toNat (sgOf f) 5)

/-- VREDMIN (15 R249). -/
def execVredmin (f : VFields) (s : State) : Out :=
  reduction (.vredmin f) f s (fun _ a b => match elemTypeOf f with
    | .flt g => fMinMax g false a b
    | .int sg w => (if readInt sg w b < readInt sg w a then b else a, 0#7)) (windowIdentity f.ty.toNat (sgOf f) 4)

/-- VREDAND (15 R249). -/
def execVredand (f : VFields) (s : State) : Out :=
  reduction (.vredand f) f s (fun _ a b => (a &&& b, 0#7)) (2 ^ (elemTypeOf f).width - 1)

/-- VREDOR (15 R249). -/
def execVredor (f : VFields) (s : State) : Out := reduction (.vredor f) f s (fun _ a b => (a ||| b, 0#7)) 0

/-- VROWSTAT: four registers (15 R250, 05 R89). -/
def execVrowstat (f : VFields) (s : State) : Out :=
  runVector (.vrowstat f) s (fun s v =>
    if 60 < f.vd.toNat then v.illegal 15 0
    else do
      v.widths [32]
      let on := v.active s f 32
      let rs := (v.rows f).map (fun row => rowStat (row.map (fun e =>
        if on.contains e then some (v.get s f.vs1.toNat 32 e) else none)))
      let put := fun (s : State) (q : Nat) (pick : Nat × Nat × Nat × Nat → Nat) =>
        v.write s (f.vd.toNat + q) 32 (rs.zipIdx.map (fun x => (x.2, pick x.1.1)))
      let s' ← put s 0 (fun x => x.1)
      let s' ← put s' 1 (fun x => x.2.1)
      let s' ← put s' 2 (fun x => x.2.2.1)
      let s' ← put s' 3 (fun x => x.2.2.2)
      pure (v.next (v.flags s' (rs.foldl (fun g r => g ||| r.2) 0#7)) 8))

/-! Special functions and tables. -/

/-- The version of a built-in table that VFN evaluates on a die: the image's, or the die's current one (25 R421). -/
def builtinVersion (s : State) (t : Thread) (die table : Nat) : Option Nat :=
  let wanted := match (s.kernel t.lnum).bind (fun k => s.image k.image) with
    | some im => im.tver.getD table 0
    | none => 0
  let have' := if h : die < 4 then (s.proctor.micro[die]).tables.getD table [] else []
  if wanted = 0 then have'.head? else if have'.contains wanted then some wanted else none

/-- VFN (15 R251, 05 R92 to R94, R424; 25 R421). The checks are made whatever VL is (15 R262). -/
def execVfn (f : VFields) (s : State) : Out :=
  runVector (.vfn f) s (fun s v =>
    let t := fnField f 4 0
    let finish := fun (rs : List (Nat × Nat × Flags)) => do
      let s' ← v.write s f.vd.toNat 32 (rs.map (fun r => (r.1, r.2.1)))
      pure (v.next (v.flags s' (rs.foldl (fun g r => g ||| r.2.2) 0#7)) 8)
    if t < 16 then
      let lacking := v.parts.find? (fun p => (builtinVersion s v.t p.die t).isNone)
      match lacking with
      | some _ =>
        let wanted := match (s.kernel v.t.lnum).bind (fun k => s.image k.image) with
          | some im => im.tver.getD t 0
          | none => 0
        v.featureFault s (.vfn f) (.table t wanted)
      | none => do
        v.widths [32]
        finish ((v.active s f 32).map (fun e =>
          let die := (v.dieOf 32 e).getD (tidDie v.tid)
          let version := (builtinVersion s v.t die t).getD 0
          (e, builtinTable (builtinSegments version) t (v.get s f.vs1.toNat 32 e))))
    else match tableGet t v.g.core.tables with
      | none => v.illegal 18 0
      | some (off, size) => do
        v.widths [32]
        let es := v.active s f 32
        let rs ← es.mapM (fun e =>
          let core := v.laneOf 32 e / 256
          let lane := v.laneOf 32 e % 256
          match slicePoisoned s core lane off size with
          | some p => .error (.fault { poisonFault p e 3 with edie := v.dieOf 32 e })
          | none => .ok (e, segTable (fun o => readSlice s v.g core lane (off + o) 4) (v.get s f.vs1.toNat 32 e)))
        finish rs)

/-- VTBLLD's checks and reads: the table's place and bytes as a number (15 R252). -/
def tableRead (f : VFields) (s : State) (v : VCtx) : Except Stop (State × Nat × Nat × Nat) :=
  let a := (v.w f.vs1).toNat
  let off := (v.w f.vs2).toNat
  if a % 16 ≠ 0 then raise 3 [0, a, 0]
  else do
    let (s, head) ← loadVectorMany s v a 4 4
    match (if head / 2 ^ 96 = 0 then tableSize (head % 2 ^ 32) else none) with
    | none => v.illegal 19 a
    | some size => do
      let (s, data) ← loadVectorMany s v a 4 (size / 4)
      if off % 16 ≠ 0 || 4096 < off + size then raise 3 [40, off, 0] else pure (s, off, size, data)

/-- VTBLLD (15 R252; 23 R354, R366): outside every strip, then a new strip with the same VL. -/
def execVtblld (f : VFields) (s : State) : Out :=
  runBoundary (.vtblld f) s (fun s v =>
    if !v.g.closed.isEmpty then (s, some .wait)
    else match tableRead f s v with
      | .error e => (s, some e)
      | .ok (s, off, size, data) =>
        let s := v.allLanes.foldl (fun s l => writeSlice s l.1 l.2 off size data) s
        let s := (markSlice s v.tid off size).modGroup v.tid (fun g =>
          { g with core := { g.core with tables := tablePut (fnField f 4 0) (off, size) g.core.tables } })
        let s := v.next s 8
        match vctx s v.tid with
        | none => (s, none)
        | some v' =>
          if v'.g.stopping then stopHere s v' true
          else (openStrip s v.tid (checkpointNow s v') v.vl false, none))

end Sys2Proof.Machine
end

