-- ==== Sys2Proof/Machine/Slate.lean ====
section
/-! DEFINITION. Slate: the slots and their instructions, placement, the loader's return, and the runs of memory graphs (19 R287 to R313). -/

namespace Sys2Proof.Machine

/-! Slots. -/

/-- A slot that is not empty (19 R288). -/
def Group.slot (g : Group) (k : Nat) : Option Slot := (tableGet k g.slots).bind (fun sl => if sl.st = 0 then none else some sl)

/-- The graph in a slot. -/
def Slot.graph (sl : Slot) : Graph := graphOf (leValue sl.image)

/-- Costs of the slots that are not empty (19 R287). -/
def Group.slotCosts (g : Group) : Table Nat := g.slots.filterMap (fun e => if e.2.st = 0 then none else some (e.1, e.2.cost))

/-- Costs as the strip's own SLOADs and SFREEs, and those still to be issued, leave them (19 R304). -/
def Group.costsAhead (g : Group) : Table Nat :=
  (g.issues ++ g.visible).foldl (fun (c : Table Nat) e => match e with
    | .load slot _ _ cost => tablePut slot cost c
    | .clear slot => tableDel slot c
    | _ => c) g.slotCosts

/-- A sum of costs. -/
def costTotal (c : Table Nat) : Nat := (c.map Prod.snd).foldl (fun n x => n + x) 0

/-- SLOT of layouts that name one (19 R303). -/
def slotField (f : VFields) : Nat := fnField f 2 0

/-- SLOAD (19 R304). -/
def execSload (f : VFields) (s : State) : Out :=
  runVector (.sload f) s (fun s v => do
    let k := slotField f
    let a := (v.w f.vs1).toNat
    if a % 16 ≠ 0 then raise 3 [0, a, 0]
    else do
      let (s', header) ← loadVectorMany s v a 8 2
      let (s', x) ← loadVectorMany s' v a 8 (2 * (1 + graphRecords header))
      let g := graphOf x
      match graphFault g with
      | some node => raise 1 [27, v.iaddr.toNat, a, node]
      | none =>
        if g.ver ≠ 1 then (if v.provided s (.graph g.ver) then .error (.refuse 0x90) else v.featureFault s (.sload f) (.graph g.ver))
        else
          let free := 128 - costTotal (tableDel k v.g.costsAhead)
          let st := if free < g.cost then 1 else if g.lat < g.path then 2 else if 256 < g.liveBytes then 3 else 0
          let s' := v.setW s' f.vd (w64 st)
          if st ≠ 0 then pure (v.next s' 8)
          else do
            let s' ← v.hold s' [.load k a (leBytes (16 * (1 + graphRecords header)) x) g.cost]
            pure (v.next s' 8))

/-- SFREE (19 R305). -/
def execSfree (f : VFields) (s : State) : Out :=
  runVector (.sfree f) s (fun s v => do
    let s' ← v.hold s [.clear (slotField f)]
    pure (v.next s' 8))

/-- SQUERY (19 R306). -/
def execSquery (f : VFields) (s : State) : Out :=
  runVector (.squery f) s (fun s v =>
    let st := v.g.slots.foldl (fun n e => n + e.2.st * 8 ^ e.1) 0
    .ok (v.next (v.setW s f.vd (w64 ((128 - costTotal v.g.slotCosts) * 2 ^ 32 + st))) 8))

/-- Source fields past a graph's sources are zero (19 R303). -/
def sourcesOk (f : VFields) (n : Nat) : Bool := ([f.vs1, f.vs2, f.vs3].drop n).all (fun x => x == 0)

/-- XOP over one die's block, in increasing element order: results, live state, flags (19 R297, R312). -/
def xopBlock (f : VFields) (s : State) (v : VCtx) (g : Graph) (w : Nat) (es : List Nat) (live : List Word) :
    List (Nat × Nat) × List Word × Flags :=
  es.foldl (fun (acc : List (Nat × Nat) × List Word × Flags) e =>
    let srcs := ([f.vs1, f.vs2, f.vs3].take g.nsrc).map (fun r => (⟨v.get s r.toNat w e, w, g.sg == 1⟩ : GVal))
    let (y, l, fl) := evalElement g { srcs := srcs, index := e } acc.2.1
    (acc.1 ++ [(e, y)], l, acc.2.2 ||| fl)) ([], live, 0#7)

/-- XOP (19 R307). -/
def execXop (f : VFields) (s : State) : Out :=
  runVector (.xop f) s (fun s v => do
    let k := slotField f
    match v.g.slot k with
    | none => raise 8 [k, v.iaddr.toNat, 0]
    | some sl =>
      let g := sl.graph
      if g.kind ≠ 1 then v.illegal 29 0
      else if f.ty.toNat ≠ g.ty || sgOf f ≠ g.sg then v.illegal 30 0
      else if !sourcesOk f g.nsrc then v.illegal 28 0
      else if sl.st = 1 then .error .wait
      else do
        let w := g.width
        v.widths [w]
        let rs := fnField f 3 3 == 1
        let before := if rs then [] else (tableGet k v.g.core.live).getD []
        let es := v.active s f w
        let blocks := (List.range v.parts.length).map (fun p =>
          xopBlock f s v g w (es.filter (fun e => e / v.vmax w == p)) (g.liveOr (before.getD p [])))
        let s' ← v.write s f.vd.toNat w (blocks.flatMap (fun b => b.1))
        let s' := v.flags s' (blocks.foldl (fun fl b => fl ||| b.2.2) 0#7)
        pure (v.next (s'.modGroup v.tid (fun g => { g with core := { g.core with
          live := tablePut k (blocks.map (fun b => b.2.1)) g.core.live } })) 8))

/-- SSTART (19 R308). -/
def execSstart (f : VFields) (s : State) : Out :=
  runVector (.sstart f) s (fun s v => do
    let k := slotField f
    match v.g.slot k with
    | none => raise 8 [k, v.iaddr.toNat, 1]
    | some sl =>
      let g := sl.graph
      if g.kind ≠ 2 then v.illegal 29 0
      else if !sourcesOk f g.nsrc then v.illegal 28 0
      else do
        let a := v.agent s
        let post ← (if fnField f 9 9 = 1 then
            (match readHandle a (w64 (fnField f 20 10)) with
              | none => v.illegal 2 0
              | some hole => do
                needHole s a hole mayPost Hole.tail .write
                pure (some (hole, (s.hole hole).gen.toNat)))
          else pure none)
        let params := ([f.vs1, f.vs2, f.vs3].take g.nsrc).map (fun r => v.w r)
        let start : RunStart := {
          slot := k, count := (v.w f.vd).toNat % 2 ^ 32, params := params, reset := fnField f 3 3 == 1,
          stream := if fnField f 8 8 = 1 then some (48 + fnField f 7 4) else none, post := post }
        let s' ← v.hold s [.start v.iaddr (v.w f.vd :: params) start]
        pure (v.next s' 8))

/-! Placement. -/

/-- A resumed slot's image read again at its address, none where the read faults or the image differs (19 R313). -/
def reloadImage (s : State) (v : VCtx) (sl : Slot) : Option (List Byte) :=
  match loadVectorMany s v sl.addr 8 2 with
  | .error _ => none
  | .ok (_, header) =>
    match loadVectorMany s v sl.addr 8 (2 * (1 + graphRecords header)) with
    | .error _ => none
    | .ok (_, x) =>
      let g := graphOf x
      if (graphFault g).isSome || g.cost ≠ sl.cost || g.liveBytes ≠ sl.graph.liveBytes then none
      else some (leBytes (16 * (1 + graphRecords header)) x)

/-- What a stopped run leaves on its stream (19 R302). -/
def markRun (s : State) (tid : Nat) (stream : Option Nat) (m : Mark) : State :=
  match stream with
  | none => s
  | some reg => s.modGroup tid (fun g =>
      { g with runData := tableMod reg (fun d => { d with ended := true, mark := some m }) g.runData })

/-- The state that placement gives a slot: compute, memory idle, or running again (19 R288, R313). -/
def Slot.placed (sl : Slot) : Slot :=
  { sl with st := if sl.graph.kind = 1 then 2 else if sl.run.isSome then 4 else 3, reload := false }

/-- SLATE_PLACEMENT_COMPLETE (19 R288, R313): a refused reload leaves the slot empty, and its run ends with CAUSE 4. -/
def execSlatePlacementComplete (tid slot : Nat) (s : State) : Out :=
  match vctx s tid with
  | none => .next s
  | some v => match tableGet slot v.g.slots with
    | none => .next s
    | some sl =>
      if sl.st ≠ 1 then .next s
      else if !sl.reload then .next (s.modGroup tid (fun g => { g with slots := tablePut slot sl.placed g.slots }))
      else match reloadImage s v sl with
        | some image =>
          .next (s.modGroup tid (fun g => { g with slots := tablePut slot { sl with image := image }.placed g.slots }))
        | none => match sl.run with
          | none => .next (s.modGroup tid (fun g => { g with slots := tableDel slot g.slots,
                                                             core := { g.core with live := tableDel slot g.core.live } }))
          | some r =>
            let sl := { sl with st := 0, cost := 0, reload := false, run := some { r with stopped := some (4, 0) } }
            .next (markRun (s.modGroup tid (fun g => { g with slots := tablePut slot sl g.slots })) tid r.stream
              { kind := 1, va := 0, info := 0 })

/-! The loader's return. -/

/-- Every block that the thread posted in its loader has ended and committed. -/
def Group.blocksOver (g : Group) : Bool :=
  g.idle && g.strip.isNone && !g.committing && g.outgoing.isEmpty && g.leaving.isEmpty && g.queue.isEmpty

/-- The held checkpoint with what the loader's blocks left (19 R310): slots' live state, user tables, bindings and the tags of
vector registers and lane slices. -/
def afterLoader (held now : GroupCore) : GroupCore :=
  { held with tables := now.tables, streams := now.streams, live := now.live, tags := now.tags, ldt := now.ldt }

/-- LOADER_RETURN: the saved state is restored, and the held strip replays (19 R310). -/
def execLoaderReturn (tid : Nat) (s : State) : Out :=
  match s.thread tid with
  | none => .next s
  | some t => match t.loader, t.group with
    | some h, some g =>
      if !h.leaving || !g.blocksOver || t.stopped || g.stop.isSome then .next s
      else
        let parts := partsOf tid t
        let core := afterLoader h.ckpt.core g.core
        let now := laneCells s.lanes parts
        let masks := cellsWhere h.ckpt.cells.masks (fun k => ownsLane parts (k / 2048) (k % 256))
        let cells : LaneCells := { now with masks := masks }
        let s := { s with lanes := putLaneCells s.lanes parts cells }
        let g := { g with core := core, running := true, block := h.block, vblk := h.vblk, replay := h.replay,
                          strip := h.strip.map (fun st => { st with ckpt := { core := core, cells := cells } }),
                          held := [], waiting := none }
        .next (s.putThread tid { t with ctx := h.ctx, waiting := none, loader := none, group := some g })
    | _, _ => .next s

/-! Runs of memory graphs. -/

/-- A run as it stands: for a thread that is there, or for one that has ended (21 R323). -/
structure RunCtx where
  tid : Nat
  lnum : Nat
  shadow : Bool
  acc : Accessor
  slot : Slot
  orphan : Option Nat
  deriving DecidableEq, Repr

/-- The run of a slot. -/
def runCtx (s : State) (tid slot : Nat) : Option RunCtx :=
  let own := match s.thread tid with
    | none => none
    | some t => match t.group.bind (fun g => tableGet slot g.slots) with
      | some sl =>
        if sl.run.isSome then
          some ({ tid := tid, lnum := t.lnum, shadow := t.isShadow,
                  acc := { tr := trCtx s t, core := coreOf tid, cluster := clusterOf tid, strip := true, priv := false },
                  slot := sl, orphan := none } : RunCtx)
        else none
      | none => none
  match own with
  | some c => some c
  | none => match s.fabric.orphans.findIdx? (fun o => o.tid == tid && o.slot == slot) with
    | none => none
    | some i => (s.fabric.orphans[i]?).map (fun o =>
        { tid := tid, lnum := o.lnum, shadow := o.shadow,
          acc := { tr := o.tr, core := coreOf tid, cluster := o.cluster, strip := true, priv := false },
          slot := { o.data with st := 4 }, orphan := some i })

/-- The run's slot with new contents. -/
def RunCtx.put (c : RunCtx) (s : State) (slot : Nat) (sl : Slot) : State :=
  match c.orphan with
  | none => s.modGroup c.tid (fun g => { g with slots := tablePut slot sl g.slots })
  | some i => { s with fabric := { s.fabric with orphans := s.fabric.orphans.modify i (fun o => { o with data := sl }) } }

/-- An iteration's evaluation and checks, before any access is performed: load ports (virtual and physical address, size),
stores (with the value), stream values, the first check that fails as a cause, an address and the mark for its stream;
`waits` where a load waits, and `unknown` the nodes whose value no load has given yet, a waiting or poisoned one. -/
structure Iter where
  s : State
  ev : GEval
  loads : List (Nat × Nat × Nat)
  stores : List (Nat × Nat × Nat × Nat)
  out : List Word
  stop : Option (Nat × Nat × Mark)
  waits : Bool
  unknown : List Nat
  deriving DecidableEq, Repr

/-- The check of a port's access: its physical address, or the stop (19 R298, R300). -/
def portCheck (s : State) (a : Accessor) (k : Access) (window : Bool) (va n : Nat) : Except (Nat × Nat × Mark) Nat :=
  match checkPiece s a k window n va with
  | .ok pa => .ok pa
  | .misaligned => .error (3, va, { kind := 3, va := va, info := 0 })
  | .page c l => .error (2, va, { kind := trKind c, va := va, info := 4 * c + l })
  | .entry _ => .error (1, va, { kind := 6, va := va, info := 5 })

/-- A port's check that meets a poisoned table entry has it logged (07 R104). -/
def portLog (s : State) (a : Accessor) (k : Access) (window : Bool) (va n lnum : Nat) : State :=
  match checkPiece s a k window n va with
  | .entry ea => logWalk s ea lnum
  | _ => s

/-- Memory as a load port reads it: the iteration's earlier stores over it. -/
def readPort (s : State) (stores : List (Nat × Nat × Nat × Nat)) (pa n : Nat) : Nat :=
  leValue ((s.bytesAt pa n).mapIdx (fun i b => stores.foldl (fun (b : Byte) st =>
    if st.2.1 ≤ pa + i && pa + i < st.2.1 + st.2.2.1 then BitVec.ofNat 8 (field st.2.2.2 (8 * (pa + i - st.2.1) + 7) (8 * (pa + i - st.2.1)))
    else b) b))

/-- A load port's check and the value that it will read (19 R293, R298). -/
def loadPort (c : RunCtx) (it : Iter) (idx : Nat) (n : Node) (va : Nat) : Iter :=
  let size := wdBits n.wd / 8
  let put := fun (it : Iter) (x : Nat) => { it with ev := { it.ev with vals := it.ev.vals ++ [⟨x, wdBits n.wd, n.sg⟩] } }
  let waits := n.aux % 2 == 1
  match portCheck it.s c.acc .read waits va size with
  | .error e =>
    if it.stop.isSome then put it 0
    else put { it with s := portLog it.s c.acc .read waits va size c.lnum, stop := some e } 0
  | .ok pa =>
    let st := (unitsOf 16 pa size).map (fun u => cellGet it.s.sys.granules u)
    let late := waits && st.all (fun g => g != gPoison) && !st.all (fun g => g == gFull)
    let bad := (poisonAt (walkView it.s) pa size).isSome || (lostNode it.s pa).isSome
    put { it with loads := it.loads ++ [(va, pa, size)], waits := it.waits || late,
                  unknown := if late || bad then idx :: it.unknown else it.unknown }
      (readPort it.s it.stores pa size)

/-- One node of an iteration (19 R292, R293, R298): a port whose address or condition no load has given yet is not checked. -/
def iterNode (c : RunCtx) (g : Graph) (inp : GInput) (before : List Word) (it : Iter) (idx : Nat) (n : Node) : Iter :=
  let w := wdBits n.wd
  let val := codeVal g inp it.ev.vals
  let on := n.inC == 0xFF || (val n.inC).at 1 == 1
  let silent := fun (it : Iter) => { it with ev := { it.ev with vals := it.ev.vals ++ [⟨0, w, n.sg⟩] } }
  let unsure := [n.inA, n.inB, n.inC].any (fun code => it.unknown.contains code)
  if n.op = 25 then
    (if unsure then silent { it with unknown := idx :: it.unknown }
     else if on then loadPort c it idx n ((val n.inA).at w)
     else silent it)
  else if n.op = 26 then
    if unsure || !on then silent it
    else
      let va := (val n.inA).at w
      (match portCheck it.s c.acc .write false va (w / 8) with
        | .error e => silent (if it.stop.isSome then it
            else { it with s := portLog it.s c.acc .write false va (w / 8) c.lnum, stop := some e })
        | .ok pa => silent { it with stores := it.stores ++ [(va, pa, w / 8, (val n.inB).at w)] })
  else if n.op = 27 then
    silent (if on then { it with out := it.out ++ [BitVec.ofNat 64 ((val n.inA).at w)] } else it)
  else { it with ev := evalNode g inp before it.ev idx n,
                 unknown := if unsure && n.op != 19 then idx :: it.unknown else it.unknown }

/-- The load ports' accesses in rising node order: the machine after them, and the first that meets poison as a stop (19 R298,
R300). -/
def performLoads (c : RunCtx) (s : State) (loads : List (Nat × Nat × Nat)) : State × Option (Nat × Nat × Mark) :=
  loads.foldl (fun (acc : State × Option (Nat × Nat × Mark)) l =>
    let (va, pa, size) := l
    let first := fun (m : Mark) => acc.2.or (some (1, va, m))
    match lostNode acc.1 pa with
    | some n => (lostRoute acc.1 n c.lnum false, first { kind := 6, va := va, info := 0 })
    | none =>
      let s := touchAccess acc.1 c.acc va pa size c.lnum
      match poisonAt s.sys pa size with
      | some (p, unit) => (s, first { kind := 6, va := va + (p - pa), info := unit })
      | none => (s, acc.2)) (s, none)

/-- A store port's write, an engine write (19 R298, 07 R111). -/
def storePort (c : RunCtx) (s : State) (st : Nat × Nat × Nat × Nat) : State :=
  if withheld c.shadow st.1 then s
  else match lostNode s st.2.1 with
    | some node => lostRoute s node c.lnum true
    | none => (touchAccess s c.acc st.1 st.2.1 st.2.2.1 c.lnum).store st.2.1 (leBytes st.2.2.1 st.2.2.2) true

/-- MEMGRAPH_ITERATION: the run's next iteration: every check first, then its accesses, or its stop (19 R298 to R300). A stopped form's
run rests at the boundary between iterations (R313). -/
def execMemgraphIteration (tid slot : Nat) (s : State) : Out :=
  match runCtx s tid slot with
  | none => .next s
  | some c => match c.slot.run with
    | none => .next s
    | some r =>
      let held := c.orphan.isNone && ((s.group tid).map (fun g => g.stop.isSome)).getD false
      if held || c.slot.st ≠ 4 || r.count ≤ r.next || r.stopped.isSome then .next s
      else
        let g := c.slot.graph
        let inp : GInput := { srcs := r.params.map (fun p => ⟨p.toNat, 64, false⟩), index := r.next }
        let before := g.liveOr c.slot.live
        let start : Iter :=
          { s := s, ev := { vals := [], live := before, flags := 0 }, loads := [], stores := [], out := [], stop := none, waits := false,
            unknown := [] }
        let it := (g.nodes.zipIdx).foldl (fun (it : Iter) x => iterNode c g inp before it x.2 x.1) start
        let halt := fun (s : State) (x : Nat × Nat × Mark) =>
          let s := c.put s slot { c.slot with run := some { r with stopped := some (x.1, x.2.1), flags := r.flags } }
          Host.Outcome.next (if c.orphan.isNone then markRun s tid r.stream x.2.2 else s)
        match it.stop, it.waits, performLoads c it.s it.loads with
        | some x, _, _ => halt it.s x
        | none, true, _ => .next s
        | none, false, (s, some x) => halt s x
        | none, false, (s, none) =>
            let s := it.stores.foldl (storePort c) s
            let sl := { c.slot with live := shiftDelays g inp it.ev, run := some { r with next := r.next + 1, flags := r.flags ||| it.ev.flags } }
            let s := c.put s slot sl
            .next (match c.orphan, r.stream with
              | none, some reg => s.modGroup tid (fun g =>
                  { g with runData := tableMod reg (fun d => { d with values := d.values ++ it.out }) g.runData })
              | _, _ => s)

/-- A run's completion entry (19 R301). -/
def completionEntry (slot : Nat) (r : Run) : List Byte :=
  let (err, cause, addr) := match r.stopped with
    | some (c, a) => (1, c, a)
    | none => (0, 0, 0)
  leBytes 8 (2 ^ 63 + err * 2 ^ 62 + cause * 2 ^ 58 + slot * 2 ^ 32 + r.next) ++ leBytes 8 addr ++ leBytes 8 r.flags.toNat
    ++ List.replicate 40 0

/-- A run leaves its slot (19 R288, R313); an idle group that it held then gives and takes its blocks (03 R39, 19 R311). -/
def RunCtx.finish (c : RunCtx) (s : State) (slot : Nat) (r : Run) : State :=
  match c.orphan with
  | some i => { s with fabric := { s.fabric with orphans := s.fabric.orphans.eraseIdx i } }
  | none =>
    let s := s.modGroup c.tid (fun g =>
      { g with slots := if c.slot.st = 0 then tableDel slot g.slots else tablePut slot { c.slot with st := 3, run := none } g.slots })
    let s := match r.stream with
      | none => s
      | some reg => s.modGroup c.tid (fun g => { g with runData := tableMod reg (fun d => { d with ended := true }) g.runData })
    settleIdle s (coreOf c.tid)

/-- MEMGRAPH_RUN_COMPLETE: a run whose iterations are over, or that stopped, posts its entry, waiting for room, and completes
(19 R300, R301). -/
def execMemgraphRunComplete (tid slot : Nat) (s : State) : Out :=
  match runCtx s tid slot with
  | none => .next s
  | some c => match c.slot.run with
    | none => .next s
    | some r =>
      let held := c.orphan.isNone && ((s.group tid).map (fun g => g.stop.isSome)).getD false
      if held || (r.stopped.isNone && (c.slot.st ≠ 4 || r.next < r.count)) then .next s
      else match r.post with
        | none => .next (c.finish s slot r)
        | some (hole, gen) =>
          if (s.hole hole).owner.isNone || (s.hole hole).gen.toNat ≠ gen then .next (c.finish s slot r)
          else match tryPost s hole (completionEntry slot r) with
            | (s, true) => .next (c.finish s slot r)
            | (s, false) => .next s

end Sys2Proof.Machine
end

