-- ==== Sys2Proof/Machine/Fetch.lean ====
section
/-! DEFINITION. Whose turn it is, what that agent fetches and decodes, and what every step adds around an instruction (03 R34, R41, R67; 09 R134 to R137; 23 R351; 21 R336). -/

namespace Sys2Proof.Machine

/-- What a turn comes to: nothing happens, an agent fetches at an address, an instruction or event runs, or the agent takes a
fault before it. -/
inductive Plan where
  | idle
  | fetch (a : Accessor) (pc : Word)
  | run (i : Instr)
  | fault (f : FaultInfo)
  deriving DecidableEq, Repr

/-- A row of the opcode table that is a step of another agent, not an instruction of a stream. -/
def isEvent (i : Instr) : Bool :=
  (encodeParcel i).isNone && (encodeVector i).isNone && (match i with
    | .undefinedEncoding _ _ => false
    | _ => true)

/-- One parcel through the agent's translation, with access kind fetch (09 R134, R137). `at'` is the instruction's address,
which a fault of translation names in word 0; a poison fault names the poisoned byte, or the address whose walk met poison
(23 R348). DESIGN CHOICE (log 43): a PC that is no multiple of 4, which an image's SLDR or a trap frame can hold, takes a
misalignment fault here; 09 R134 gives no outcome. -/
def fetchParcel (s : State) (a : Accessor) (pc at' : Nat) : Except FaultInfo Parcel :=
  if pc % 4 ≠ 0 then .error (faultOf 3 [0, pc, 0])
  else match translate s a pc .fetch with
    | .bad c l => .error (faultOf (trKind c) [at' % 2 ^ 56, 2 ^ 28, pageWord c l .fetch pc])
    | .poison ea => .error (walkFault pc 0 ea)
    | .ok pa => match lostNode s pa with
      | some n => .error { poisonFault pc 0 0 with node := some n }
      | none => match poisonAt s.sys pa 4 with
        | some (b, u) => .error (poisonFault (pc + (b - pa)) 0 u)
        | none => .ok (BitVec.ofNat 32 (s.numAt pa 4))

/-- The instruction at a control thread's or Proctor core's pc (09 R135). -/
noncomputable def fetchThread (s : State) (a : Accessor) (pc : Word) : Plan :=
  match fetchParcel s a pc.toNat pc.toNat with
  | .ok p => .run (decodeThread p)
  | .error f => .fault f

/-- The instruction at a sequencer's pc: one parcel or two, the lower page's fault first (09 R136, R137). -/
def fetchSequencer (s : State) (a : Accessor) (pc : Word) : Plan :=
  match fetchParcel s a pc.toNat pc.toNat with
  | .error f => .fault f
  | .ok hi =>
    if vectorLength hi = 1 then .run (decodeSequencer hi 0)
    else match fetchParcel s a ((pc.toNat + 4) % 2 ^ 64) pc.toNat with
      | .error f => .fault f
      | .ok lo => .run (decodeSequencer hi lo)

/-- An injection on the unit that holds a parcel takes place before the fetch reads it (23 R375). -/
def strikeParcel (s : State) (a : Accessor) (pc lnum : Nat) : State :=
  if pc % 4 ≠ 0 then s
  else match translate s a pc .fetch with
    | .ok pa => if (lostNode s pa).isSome then s else touchAccess s a pc pa 4 lnum
    | _ => s

/-- The injections that a fetch meets, its second parcel's after the first (09 R136; 23 R375). -/
def strikeFetch (s : State) (a : Accessor) (pc lnum : Nat) (vector : Bool) : State :=
  if !bitOf s.proctor.finj.toNat 63 then s
  else
    let s := strikeParcel s a pc lnum
    match fetchParcel s a pc pc with
    | .ok hi => if vector && vectorLength hi ≠ 1 then strikeParcel s a ((pc + 4) % 2 ^ 64) lnum else s
    | .error _ => s

/-- A pigeonhole of the thread is frozen and its fault is not yet taken (11 R187, 23 R344). -/
def desyncPending (s : State) (o : Owner) : Bool :=
  s.fabric.holes.any (fun e => e.2.owner == some o && e.2.cause.isSome)

/-- A control thread's turn: nothing while it waits, is held by a fault, stopped or leaving a loader (03 R67, 11 R167). -/
noncomputable def planThread (s : State) (tid : Nat) : Plan :=
  match s.thread tid with
  | none => .idle
  | some t =>
    if t.waiting.isSome || t.faulted || t.stopped || (match t.loader with | some h => h.leaving | none => false) then .idle
    else if t.poisoned then .fault (poisonFault 0 0 4)
    else if desyncPending s (t.owner tid) then .run (.pigeonholeDesyncFault tid)
    else .fetch (threadAccessor s tid t) t.ctx.pc

/-- A sequencer's turn (03 R41). -/
def planSequencer (s : State) (tid : Nat) : Plan :=
  match s.thread tid with
  | none => .idle
  | some t => match t.group with
    | none => .idle
    | some g =>
      if !g.running || g.waiting.isSome || g.faulted || g.stop.isSome then .idle
      else if g.poisoned then .fault (poisonFault 0 0 4)
      else .fetch (threadAccessor s tid t) g.core.pc

/-- A Proctor core's turn; an error in its state faults at its next instruction (23 R351). -/
def planProctor (s : State) (k : Nat) : Plan :=
  match s.pcore k with
  | none => .idle
  | some p =>
    if p.halted || p.waiting.isSome then .idle
    else if p.poisoned then .fault (poisonFault 0 0 4)
    else .fetch proctorAccessor p.ctx.pc

/-- What the module's own host port can bring about while the module stands in step 6 with FAIL 5: ring registers, and a
command, of which every type but NODESET is refused (25 R382, R384). -/
def portEvent : Instr → Bool
  | .tailWrite _ | .ringConfigWrite _ _ | .reservedCommand _ | .dcreate _ | .ddestroy _ | .load _ | .unload _ | .launch _ | .cancel _
  | .stagein _ | .stageout _ | .map _ | .unmap _ | .attest _ | .mcode _ | .fwstage _ | .nodeset _ => true
  | _ => false

/-- What a turn comes to. Without power only a bring-up step, or a command after a node number was refused, can happen
(25 R381, R382). -/
noncomputable def plan (s : State) (t : Turn) : Plan :=
  match s.power, t with
  | .up, .scalar tid => planThread s tid
  | .up, .vector tid => planSequencer s tid
  | .up, .proctor k => planProctor s k
  | .up, .event i => if isEvent i then .run i else .idle
  | _, .event (.powerOn b) => .run (.powerOn b)
  | _, .event .powerOff => .run .powerOff
  | .failed 5, .event i => if portEvent i then .run i else .idle
  | _, _ => .idle

/-- The agent of a turn. -/
def actorOf : Turn → Actor
  | .scalar tid => .thread tid
  | .vector tid => .sequencer tid
  | .proctor k => .proctor k
  | .event _ => .engine

/-- The launch number of the agent of a turn, 0 where it has none. -/
def turnLaunch (s : State) : Turn → Nat
  | .scalar tid => ((s.thread tid).map Thread.lnum).getD 0
  | .vector tid => ((s.thread tid).map Thread.lnum).getD 0
  | _ => 0

/-- The turn is a sequencer's. -/
def isVectorTurn : Turn → Bool
  | .vector _ => true
  | _ => false

/-- What is fetched comes to: an instruction, or the fetch's fault. -/
noncomputable def fetched (s : State) (t : Turn) (a : Accessor) (pc : Word) : Plan :=
  if isVectorTurn t then fetchSequencer s a pc else fetchThread s a pc

/-- The agent takes a fault before any instruction; a Proctor core's own error is met once (23 R351, log 9). -/
def takeTurnFault (s : State) (t : Turn) (f : FaultInfo) : State :=
  match t with
  | .vector tid => deliverFault s tid true f
  | .proctor k => match s.pcore k with
    | some p => takeScalarFault (s.putPcore k { p with poisoned := false }) f
    | none => s
  | _ => takeScalarFault s f

/-- The turn that comes next: the head of the agenda, else the free schedule's (log 1). -/
def nextTurn (s : State) : Turn × State :=
  match s.agenda with
  | t :: rest => (t, { s with agenda := rest })
  | [] => (Config.schedule s.tick, s)

/-- What every step adds: the tick advances, and with power each CYCLE counter by a free amount (log 2; 11 R196). -/
def tock (s : State) : State :=
  let s := { s with tick := s.tick + 1 }
  if s.power = .up then
    { s with cycles := Vector.ofFn (fun i => s.cycles[i] + w64 (Config.cyclesOf s.tick i.val)) }
  else s

/-- After a step that freed resources or accepted a kernel, the units scan (21 R336). -/
def settle (s : State) : State := tock (if s.sched.rescan && s.power = .up then scanAll s else s)

/-! Placing an instruction where the next step fetches (log 14). -/

/-- Where `withFetchWord` places code and its tables: virtual 2^42, frame 1 of die 0, tables in the protected region. -/
def testVa : Nat := 0x40000000000
def testPa : Nat := 0x200000
def testRoot : Nat := 0x2F80000000

/-- Table entries that map the code's 64 KiB page, and the code. -/
def testMemory (m : Memory) (bs : List Byte) : Memory :=
  let t1 := testRoot + 0x10000
  let t2 := testRoot + 0x20000
  let t3 := testRoot + 0x30000
  let m := writeNat m (testRoot + 8 * tableIndex testVa 0) 8 (t1 + 3)
  let m := writeNat m (t1 + 8 * tableIndex testVa 1) 8 (t2 + 3)
  let m := writeNat m (t2 + 8 * tableIndex testVa 2) 8 (t3 + 3)
  let m := writeNat m (t3 + 8 * tableIndex testVa 3) 8 (testPa + 0x15)
  writeBytes m testPa bs

/-- The control thread of slot 0 of die 0, with one block of lanes. -/
def testThread (vector : Bool) : Thread :=
  let g := Group.start 0 1
  let g := if vector then { g with running := true, core := { g.core with pc := w64 testVa } } else g
  { ctx := { ScalarCtx.zero with pc := w64 testVa }, trbase := w64 (1 * 2 ^ 58 + testRoot + 1), satb := 0, pend := 0, att := 1,
    lnum := 0, form := 0, res := 0, f := 0, waiting := none, acked := false, faulted := false, poisoned := false, stopped := false,
    role := .solo, events := [], eventNo := 1, group := some g, partners := [], partnerLanes := 1, loader := none, lastSave := none, stopCyc := 0 }

/-- The machine with that instruction where the next step fetches it: the module has power, and a control thread, or the
sequencer of its group for a vector instruction, has the next turn. -/
def placeFetch (s : State) (vector : Bool) (bs : List Byte) : State :=
  let c : Core := { Core.reset with cur := 0xFFFFFFF0, nxt := 0xFFFFFFF0 }
  let sys := { s.sys with mem := testMemory s.sys.mem bs, poison := [], cache := [], tlb1 := [], tlb2 := [] }
  let p := { s.proctor with frames := tablePut (testPa / 0x200000) { dom := 1, nsh := false } s.proctor.frames }
  { s with power := .up, agenda := [if vector then .vector 0 else .scalar 0], sys := sys, proctor := { p with tableNext := 0x40000 },
           cores := tablePut 0 c s.cores, threads := tablePut 0 (testThread vector) s.threads }

/-- The words of a table row laid out as the hardware stores them: the word of bits 31..0 first (09 R134). -/
def fetchBytes (w : Nat) : List Byte := leBytes 8 w

end Sys2Proof.Machine
end

