-- ==== Sys2Proof/Machine/VectorControl.lean ====
section
/-! DEFINITION. Vector control flow, the sequencer's own arithmetic, replies, convoy headers, and encodings that no instruction defines (15 R254 to R261; 03 R59, R62; 09 R147 to R151). -/

namespace Sys2Proof.Machine

/-! Branches and divergence. -/

/-- OFF of layout B (15 R234). -/
def branchOffset (f : VFields) : Int := sext (fnField f 23 0) 24

/-- A branch on the mask VS1 over the positions below VL that the fragment mask holds (15 R254). -/
def maskBranch (i : Instr) (f : VFields) (s : State) (taken : List Bool → Bool) : Out :=
  runVector i s (fun s v => do
    v.widths [1]
    let bits := (positions v.vl v.frag).map (fun e => v.mask s v.vtypeWidth f.vs1.toNat e)
    pure (if taken bits then v.jump s (branchOffset f) else v.next s 8))

/-- VBANY (15 R254). -/
def execVbany (f : VFields) (s : State) : Out := maskBranch (.vbany f) f s (fun bs => bs.any id)

/-- VBALL (15 R254). -/
def execVball (f : VFields) (s : State) : Out := maskBranch (.vball f) f s (fun bs => bs.all id)

/-- VBNONE (15 R254). -/
def execVbnone (f : VFields) (s : State) : Out := maskBranch (.vbnone f) f s (fun bs => !bs.any id)

/-- A mask register over the positions below VL, as a fragment mask (03 R59). -/
def VCtx.maskBits (v : VCtx) (s : State) (m : Nat) : BitVec 65536 :=
  BitVec.ofNat 65536 ((positions v.vl (v.mask s v.vtypeWidth m)).foldl (fun x e => x + 2 ^ e) 0)

/-- VBR.D (15 R255, 03 R59). -/
def execVbrD (f : VFields) (s : State) : Out :=
  runVector (.vbrD f) s (fun s v => do
    v.widths [1]
    let c := v.g.core
    if 8 ≤ c.pending.length then raise 12 [47, v.iaddr.toNat]
    else
      let m := v.maskBits s f.vs1.toNat
      let p : PendFrag := {
        target := v.iaddr + BitVec.ofInt 64 (4 * branchOffset f), taken := c.frag &&& m, saved := c.frag, joining := false }
      .ok ((v.next s 8).modGroup v.tid (fun g =>
        { g with core := { g.core with frag := c.frag &&& ~~~ m, pending := p :: c.pending } })))

/-- VJOIN (15 R255, 03 R59). -/
def execVjoin (f : VFields) (s : State) : Out :=
  runVector (.vjoin f) s (fun s v =>
    match v.g.core.pending with
    | [] => raise 12 [46, v.iaddr.toNat]
    | p :: rest =>
      if p.joining then
        .ok ((v.next s 8).modGroup v.tid (fun g => { g with core := { g.core with frag := p.saved, pending := rest } }))
      else
        .ok (s.modGroup v.tid (fun g =>
          { g with core := { g.core with pc := p.target, frag := p.taken, pending := { p with joining := true } :: rest } })))

/-- The condition of VJMP (15 R256). -/
def jumpCond (cc : Nat) (a b : Word) : Bool :=
  match cc with
  | 0 => true
  | 1 => a == b
  | 2 => a != b
  | 3 => a.slt b
  | 4 => !a.slt b
  | 5 => a.ult b
  | _ => !a.ult b

/-- VJMP (15 R256). -/
def execVjmp (f : VFields) (s : State) : Out :=
  runVector (.vjmp f) s (fun s v =>
    .ok (if jumpCond (fnField f 23 20) (v.w f.vs1) (v.w f.vs2) then v.jump s (sext (fnField f 19 0) 20) else v.next s 8))

/-- A loop counter, and the group with one written (03 R41). -/
def VCtx.lc (v : VCtx) (r : BitVec 6) : BitVec 32 := v.g.core.lc[r.toNat]?.getD 0

def VCtx.setLc (v : VCtx) (s : State) (r : BitVec 6) (x : BitVec 32) : State :=
  s.modGroup v.tid (fun g => { g with core := { g.core with lc := g.core.lc.setIfInBounds r.toNat x } })

/-- VLOOP (15 R257). -/
def execVloop (f : VFields) (s : State) : Out :=
  runVector (.vloop f) s (fun s v =>
    let c : BitVec 32 := (v.w f.vs1).truncate 32
    .ok (if c = 0 then v.jump s (branchOffset f) else v.next (v.setLc s f.vd c) 8))

/-- VENDLP (15 R257). -/
def execVendlp (f : VFields) (s : State) : Out :=
  runVector (.vendlp f) s (fun s v =>
    let c := v.lc f.vd - 1
    let s' := v.setLc s f.vd c
    .ok (if c = 0 then v.next s' 8 else v.jump s' (branchOffset f)))

/-! Replies and the sequencer's arithmetic. -/

/-- VPOSTR: at commit in a strip, at once outside one, where a full queue stalls it (15 R259, 03 R43). -/
def execVpostr (f : VFields) (s : State) : Out :=
  runVector (.vpostr f) s (fun s v =>
    if v.g.strip.isNone && (16 ≤ v.g.vreply.length || !v.g.issues.isEmpty) then .error .wait
    else do
      let s' ← v.hold s [.reply (v.w f.vs1)]
      pure (v.next s' 8))

/-- The immediates of VWALU (15 R260). -/
def immSext (f : VFields) : Word := BitVec.ofInt 64 (sext (fnField f 17 0) 18)
def immZext (f : VFields) : Word := w64 (fnField f 17 0)

/-- VWALU with two operands (15 R260). -/
def walu (i : Instr) (f : VFields) (s : State) (imm : VFields → Word) (op : Word → Word → Word) : Out :=
  runVector i s (fun s v =>
    let b := if fnField f 18 18 = 1 then imm f else v.w f.vs2
    .ok (v.next (v.setW s f.vd (op (v.w f.vs1) b)) 8))

/-- VWALU.ADD (15 R260). -/
def execVwaluAdd (f : VFields) (s : State) : Out :=
  walu (.vwaluAdd f) f s immSext (fun a b => a + b)

/-- VWALU.SUB (15 R260). -/
def execVwaluSub (f : VFields) (s : State) : Out :=
  walu (.vwaluSub f) f s immSext (fun a b => a - b)

/-- VWALU.AND (15 R260). -/
def execVwaluAnd (f : VFields) (s : State) : Out :=
  walu (.vwaluAnd f) f s immZext (fun a b => a &&& b)

/-- VWALU.OR (15 R260). -/
def execVwaluOr (f : VFields) (s : State) : Out :=
  walu (.vwaluOr f) f s immZext (fun a b => a ||| b)

/-- VWALU.XOR (15 R260). -/
def execVwaluXor (f : VFields) (s : State) : Out :=
  walu (.vwaluXor f) f s immZext (fun a b => a ^^^ b)

/-- VWALU.SLL (15 R260). -/
def execVwaluSll (f : VFields) (s : State) : Out :=
  walu (.vwaluSll f) f s immSext (fun a b => a <<< (b.toNat % 64))

/-- VWALU.SRL (15 R260). -/
def execVwaluSrl (f : VFields) (s : State) : Out :=
  walu (.vwaluSrl f) f s immSext (fun a b => a >>> (b.toNat % 64))

/-- VWALU.SRA (15 R260). -/
def execVwaluSra (f : VFields) (s : State) : Out :=
  walu (.vwaluSra f) f s immSext (fun a b => a.sshiftRight (b.toNat % 64))

/-- VWALU.SLT (15 R260). -/
def execVwaluSlt (f : VFields) (s : State) : Out :=
  walu (.vwaluSlt f) f s immSext (fun a b => if a.slt b then 1 else 0)

/-- VWALU.SLTU (15 R260). -/
def execVwaluSltu (f : VFields) (s : State) : Out :=
  walu (.vwaluSltu f) f s immSext (fun a b => if a.ult b then 1 else 0)

/-- VWALU.MUL (15 R260). -/
def execVwaluMul (f : VFields) (s : State) : Out :=
  walu (.vwaluMul f) f s immSext (fun a b => a * b)

/-- VWALU.MIN (15 R260). -/
def execVwaluMin (f : VFields) (s : State) : Out :=
  walu (.vwaluMin f) f s immSext (fun a b => if b.slt a then b else a)

/-- VWALU.MAX (15 R260). -/
def execVwaluMax (f : VFields) (s : State) : Out :=
  walu (.vwaluMax f) f s immSext (fun a b => if a.slt b then b else a)

/-- VWALU.MINU (15 R260). -/
def execVwaluMinu (f : VFields) (s : State) : Out :=
  walu (.vwaluMinu f) f s immSext (fun a b => if b.ult a then b else a)

/-- VWALU.MAXU (15 R260). -/
def execVwaluMaxu (f : VFields) (s : State) : Out :=
  walu (.vwaluMaxu f) f s immSext (fun a b => if a.ult b then b else a)

/-- VWALU.RLC (15 R260). -/
def execVwaluRlc (f : VFields) (s : State) : Out :=
  runVector (.vwaluRlc f) s (fun s v => .ok (v.next (v.setW s f.vd ((v.lc f.vs1).zeroExtend 64)) 8))

/-- VWALU.RVL (15 R260). -/
def execVwaluRvl (f : VFields) (s : State) : Out :=
  runVector (.vwaluRvl f) s (fun s v => .ok (v.next (v.setW s f.vd (w64 v.vl)) 8))

/-- VWALU.RSSN (15 R260). -/
def execVwaluRssn (f : VFields) (s : State) : Out :=
  runVector (.vwaluRssn f) s (fun s v => .ok (v.next (v.setW s f.vd v.g.core.vssn) 8))

/-- VWLI (15 R261). -/
def execVwli (f : VFields) (s : State) : Out :=
  runVector (.vwli f) s (fun s v => .ok (v.next (v.setW s f.vd (BitVec.ofInt 64 (sext (fnField f 23 0) 24))) 8))

/-! Convoy headers and other encodings. -/

/-- The chaining class of a vector opcode (09 R147). -/
def opcodeClass (op : Nat) : Option Nat :=
  if (2 ≤ op && op ≤ 8) || [0x11, 0x13, 0x15, 0x16].contains op then some 0
  else if (0x22 ≤ op && op ≤ 0x27) || [0x2C, 0x2D, 0x3A, 0x3B].contains op then some 1
  else if (0x20 ≤ op && op ≤ 0x3C) || (0x40 ≤ op && op ≤ 0x43) || op = 0x59 then some 2
  else if op = 0x56 || op = 0x57 then some 3
  else if (0x48 ≤ op && op ≤ 0x4F) || (0x51 ≤ op && op ≤ 0x55) then some 4
  else if op = 0x92 then some 5
  else if op = 0x85 || op = 0x86 then some 6
  else none

/-- The opcodes of a convoy's instructions, each from its first parcel, every parcel of them read (09 R149). -/
def convoyOps (s : State) (a : Accessor) : Nat → Nat → Except FaultInfo (List Nat)
  | 0, _ => .ok []
  | n + 1, pc => do
    let hi ← fetchParcel s a (pc % 2 ^ 64) (pc % 2 ^ 64)
    let op := hi.toNat / 2 ^ 24
    if vectorLength hi = 1 then
      let rest ← convoyOps s a n (pc + 4)
      pure (op :: rest)
    else
      let _ ← fetchParcel s a ((pc + 4) % 2 ^ 64) (pc % 2 ^ 64)
      let rest ← convoyOps s a n (pc + 8)
      pure (op :: rest)

/-- The units of a header are legal: none is 7, and none stands twice but the load-store unit first and last (03 R62). -/
def unitsLegal (ks : List Nat) : Bool :=
  ks.all (fun k => k != 7)
    && (List.range ks.length).all (fun i => (List.range i).all (fun j =>
      ks.getD i 0 != ks.getD j 0 || (ks.getD i 0 == 0 && j == 0 && i + 1 == ks.length)))

/-- CONVOY: the checks of 09 R149; a header changes no architectural state. A header that fails its own check takes its fault
before any member's parcel is fetched (DESIGN CHOICE, log 43). -/
def execConvoy (len k0 k1 k2 k3 k4 k5 : BitVec 3) (s : State) : Out :=
  runVector (.convoy len k0 k1 k2 k3 k4 k5) s (fun s v =>
    let n := len.toNat
    let all := [k0.toNat, k1.toNat, k2.toNat, k3.toNat, k4.toNat, k5.toNat]
    let ks := all.take n
    if n < 2 || 6 < n || (all.drop n).any (fun k => k != 0) || !unitsLegal ks then v.illegal 0 0
    else match convoyOps s (threadAccessor s v.tid v.t) n (v.iaddr.toNat + 4) with
      | .error f => .error (.fault f)
      | .ok ops => if (ops.zip ks).all (fun x => opcodeClass x.1 == some x.2) then .ok (v.next s 4) else v.illegal 0 0)

/-- UNDEFINED_ENCODING: an illegal-encoding fault of the agent that reached it (09 R151). -/
def execUndefinedEncoding (first second : Parcel) (s : State) : Out :=
  match s.actor with
  | .sequencer _ => runVector (.undefinedEncoding first second) s (fun _ v => v.illegal 0 0)
  | _ => runScalar (.undefinedEncoding first second) s (fun a => illegal a 0 0)

/-- MICROCODE_OPCODE: a feature-level fault where a die of the group does not provide the opcode, an illegal-encoding fault for an
encoding that the provided opcode leaves undefined (09 R150); what it does otherwise is the microcode's alone (25 R420; log 15). -/
def execMicrocodeOpcode (op : BitVec 4) (f : VFields) (s : State) : Out :=
  runVector (.microcodeOpcode op f) s (fun s v =>
    if v.provided s (.opcode op.toNat) then
      if Config.opcodeDefines (dieLevel s (tidDie v.tid)) op.toNat f then .error (.refuse (0xE0 + op.toNat)) else v.illegal 0 0
    else v.featureFault s (.microcodeOpcode op f) (.opcode op.toNat))

end Sys2Proof.Machine
end

