-- ==== Sys2Proof/Machine/Resume.lean ====
section
/-! DEFINITION. The events that let a waiting sequencer go on (11 R167; 07 R112; 13 R207; 15 R259; 17 R272, R273). -/

namespace Sys2Proof.Machine

/-- The meaning of each vector instruction and convoy header. -/
def vectorOf : Instr → Option (State → Out)
  | .microcodeOpcode op f => some (execMicrocodeOpcode op f)
  | .convoy len k0 k1 k2 k3 k4 k5 => some (execConvoy len k0 k1 k2 k3 k4 k5)
  | .setvl f => some (execSetvl f)
  | .vld f => some (execVld f)
  | .vst f => some (execVst f)
  | .vlds f => some (execVlds f)
  | .vsts f => some (execVsts f)
  | .vldx f => some (execVldx f)
  | .vstx f => some (execVstx f)
  | .vldz f => some (execVldz f)
  | .vgatherb f => some (execVgatherb f)
  | .vbind f => some (execVbind f)
  | .vunbind f => some (execVunbind f)
  | .sbar f => some (execSbar f)
  | .vcopy f => some (execVcopy f)
  | .vsetmf f => some (execVsetmf f)
  | .vamo f => some (execVamo f)
  | .vredm f => some (execVredm f)
  | .vwin f => some (execVwin f)
  | .vacc f => some (execVacc f)
  | .vmerge f => some (execVmerge f)
  | .vldl f => some (execVldl f)
  | .vstl f => some (execVstl f)
  | .vqpost f => some (execVqpost f)
  | .vadd f => some (execVadd f)
  | .vsub f => some (execVsub f)
  | .vmul f => some (execVmul f)
  | .vfma f => some (execVfma f)
  | .vfms f => some (execVfms f)
  | .vfnma f => some (execVfnma f)
  | .vfnms f => some (execVfnms f)
  | .vdiv f => some (execVdiv f)
  | .vmin f => some (execVmin f)
  | .vmax f => some (execVmax f)
  | .vabs f => some (execVabs f)
  | .vneg f => some (execVneg f)
  | .vsqrt f => some (execVsqrt f)
  | .vmulh f => some (execVmulh f)
  | .vsadd f => some (execVsadd f)
  | .vssub f => some (execVssub f)
  | .vand f => some (execVand f)
  | .vor f => some (execVor f)
  | .vxor f => some (execVxor f)
  | .vshl f => some (execVshl f)
  | .vshr f => some (execVshr f)
  | .vclz f => some (execVclz f)
  | .vpopc f => some (execVpopc f)
  | .vcvt f => some (execVcvt f)
  | .vcmp f => some (execVcmp f)
  | .vsel f => some (execVsel f)
  | .vcmul f => some (execVcmul f)
  | .vcmac f => some (execVcmac f)
  | .vmov f => some (execVmov f)
  | .vmand f => some (execVmand f)
  | .vmor f => some (execVmor f)
  | .vmxor f => some (execVmxor f)
  | .vmandn f => some (execVmandn f)
  | .vmpop f => some (execVmpop f)
  | .vmfirst f => some (execVmfirst f)
  | .vperm f => some (execVperm f)
  | .vslideup f => some (execVslideup f)
  | .vslidedn f => some (execVslidedn f)
  | .vbcast f => some (execVbcast f)
  | .vcompress f => some (execVcompress f)
  | .vexpand f => some (execVexpand f)
  | .vzip f => some (execVzip f)
  | .vunzip f => some (execVunzip f)
  | .vxchg f => some (execVxchg f)
  | .vredsum f => some (execVredsum f)
  | .vredmax f => some (execVredmax f)
  | .vredmin f => some (execVredmin f)
  | .vredand f => some (execVredand f)
  | .vredor f => some (execVredor f)
  | .vrowstat f => some (execVrowstat f)
  | .vfn f => some (execVfn f)
  | .vtblld f => some (execVtblld f)
  | .vidx f => some (execVidx f)
  | .vextw f => some (execVextw f)
  | .vinsw f => some (execVinsw f)
  | .vbany f => some (execVbany f)
  | .vball f => some (execVball f)
  | .vbnone f => some (execVbnone f)
  | .vbrD f => some (execVbrD f)
  | .vjoin f => some (execVjoin f)
  | .vjmp f => some (execVjmp f)
  | .vloop f => some (execVloop f)
  | .vendlp f => some (execVendlp f)
  | .vend f => some (execVend f)
  | .vpostr f => some (execVpostr f)
  | .vwaluAdd f => some (execVwaluAdd f)
  | .vwaluSub f => some (execVwaluSub f)
  | .vwaluAnd f => some (execVwaluAnd f)
  | .vwaluOr f => some (execVwaluOr f)
  | .vwaluXor f => some (execVwaluXor f)
  | .vwaluSll f => some (execVwaluSll f)
  | .vwaluSrl f => some (execVwaluSrl f)
  | .vwaluSra f => some (execVwaluSra f)
  | .vwaluSlt f => some (execVwaluSlt f)
  | .vwaluSltu f => some (execVwaluSltu f)
  | .vwaluMul f => some (execVwaluMul f)
  | .vwaluMin f => some (execVwaluMin f)
  | .vwaluMax f => some (execVwaluMax f)
  | .vwaluMinu f => some (execVwaluMinu f)
  | .vwaluMaxu f => some (execVwaluMaxu f)
  | .vwaluRlc f => some (execVwaluRlc f)
  | .vwaluRvl f => some (execVwaluRvl f)
  | .vwaluRssn f => some (execVwaluRssn f)
  | .vwli f => some (execVwli f)
  | .vmodeArr f => some (execVmodeArr f)
  | .vmodeVec f => some (execVmodeVec f)
  | .moxa f => some (execMoxa f)
  | .moxs f => some (execMoxs f)
  | .mldw f => some (execMldw f)
  | .mpass f => some (execMpass f)
  | .mwb f => some (execMwb f)
  | .mwbQ f => some (execMwbQ f)
  | .mldt f => some (execMldt f)
  | .vtrn8 f => some (execVtrn8 f)
  | .mchain f => some (execMchain f)
  | .sload f => some (execSload f)
  | .sfree f => some (execSfree f)
  | .squery f => some (execSquery f)
  | .xop f => some (execXop f)
  | .sstart f => some (execSstart f)
  | _ => none

/-- The instructions that commit a strip (03 R46, R60). -/
def isBoundary : Instr → Bool
  | .setvl _ => true
  | .vamo _ => true
  | .vtblld _ => true
  | .vend _ => true
  | _ => false

/-- COMMIT_RESUME: a boundary instruction that waits for its commit executes again; otherwise what a commit left to do goes on
(17 R273; 19 R305; log 16). -/
def execCommitResume (tid : Nat) (s : State) : Out :=
  match (s.group tid).bind Group.waiting with
  | some i => wakeGroup s tid (fun _ => if isBoundary i then vectorOf i else none)
  | none => .next (settleBoundary s tid).1

/-- REPLY_POST_RESUME: a VPOSTR stalled on a full VREPLY executes again (15 R259). -/
def execReplyPostResume (tid : Nat) (s : State) : Out :=
  wakeGroup s tid (fun i => match i with
    | .vpostr f => some (execVpostr f)
    | _ => none)

/-- VECTOR_W_LOAD_WAKE: a vector load that waits on empty granules executes again (07 R112, 17 R276). -/
def execVectorWLoadWake (tid : Nat) (s : State) : Out :=
  wakeGroup s tid (fun i => match i with
    | .vld f => some (execVld f)
    | .vlds f => some (execVlds f)
    | .vldx f => some (execVldx f)
    | .mldt f => some (execMldt f)
    | _ => none)

/-- VECTOR_INTERLOCK_RESUME: a waiting vector instruction executes again from its start (11 R167, 17 R272). -/
def execVectorInterlockResume (tid : Nat) (s : State) : Out := wakeGroup s tid vectorOf

end Sys2Proof.Machine
end

