-- ==== Sys2Proof/Machine/Dispatch.lean ====
section
/-! DEFINITION. The meaning of every constructor: one arm, one call. -/

namespace Sys2Proof.Machine

def exec (i : Instr) (s : State) : Host.Outcome State Fault Refusal :=
  match i with
  | .undefinedEncoding first second => Sys2Proof.Machine.execUndefinedEncoding first second s
  | .microcodeOpcode op f => Sys2Proof.Machine.execMicrocodeOpcode op f s
  | .convoy len k0 k1 k2 k3 k4 k5 => Sys2Proof.Machine.execConvoy len k0 k1 k2 k3 k4 k5 s
  | .setvl f => Sys2Proof.Machine.execSetvl f s
  | .vld f => Sys2Proof.Machine.execVld f s
  | .vst f => Sys2Proof.Machine.execVst f s
  | .vlds f => Sys2Proof.Machine.execVlds f s
  | .vsts f => Sys2Proof.Machine.execVsts f s
  | .vldx f => Sys2Proof.Machine.execVldx f s
  | .vstx f => Sys2Proof.Machine.execVstx f s
  | .vldz f => Sys2Proof.Machine.execVldz f s
  | .vgatherb f => Sys2Proof.Machine.execVgatherb f s
  | .vbind f => Sys2Proof.Machine.execVbind f s
  | .vunbind f => Sys2Proof.Machine.execVunbind f s
  | .sbar f => Sys2Proof.Machine.execSbar f s
  | .vcopy f => Sys2Proof.Machine.execVcopy f s
  | .vsetmf f => Sys2Proof.Machine.execVsetmf f s
  | .vamo f => Sys2Proof.Machine.execVamo f s
  | .vredm f => Sys2Proof.Machine.execVredm f s
  | .vwin f => Sys2Proof.Machine.execVwin f s
  | .vacc f => Sys2Proof.Machine.execVacc f s
  | .vmerge f => Sys2Proof.Machine.execVmerge f s
  | .vldl f => Sys2Proof.Machine.execVldl f s
  | .vstl f => Sys2Proof.Machine.execVstl f s
  | .vqpost f => Sys2Proof.Machine.execVqpost f s
  | .vadd f => Sys2Proof.Machine.execVadd f s
  | .vsub f => Sys2Proof.Machine.execVsub f s
  | .vmul f => Sys2Proof.Machine.execVmul f s
  | .vfma f => Sys2Proof.Machine.execVfma f s
  | .vfms f => Sys2Proof.Machine.execVfms f s
  | .vfnma f => Sys2Proof.Machine.execVfnma f s
  | .vfnms f => Sys2Proof.Machine.execVfnms f s
  | .vdiv f => Sys2Proof.Machine.execVdiv f s
  | .vmin f => Sys2Proof.Machine.execVmin f s
  | .vmax f => Sys2Proof.Machine.execVmax f s
  | .vabs f => Sys2Proof.Machine.execVabs f s
  | .vneg f => Sys2Proof.Machine.execVneg f s
  | .vsqrt f => Sys2Proof.Machine.execVsqrt f s
  | .vmulh f => Sys2Proof.Machine.execVmulh f s
  | .vsadd f => Sys2Proof.Machine.execVsadd f s
  | .vssub f => Sys2Proof.Machine.execVssub f s
  | .vand f => Sys2Proof.Machine.execVand f s
  | .vor f => Sys2Proof.Machine.execVor f s
  | .vxor f => Sys2Proof.Machine.execVxor f s
  | .vshl f => Sys2Proof.Machine.execVshl f s
  | .vshr f => Sys2Proof.Machine.execVshr f s
  | .vclz f => Sys2Proof.Machine.execVclz f s
  | .vpopc f => Sys2Proof.Machine.execVpopc f s
  | .vcvt f => Sys2Proof.Machine.execVcvt f s
  | .vcmp f => Sys2Proof.Machine.execVcmp f s
  | .vsel f => Sys2Proof.Machine.execVsel f s
  | .vcmul f => Sys2Proof.Machine.execVcmul f s
  | .vcmac f => Sys2Proof.Machine.execVcmac f s
  | .vmov f => Sys2Proof.Machine.execVmov f s
  | .vmand f => Sys2Proof.Machine.execVmand f s
  | .vmor f => Sys2Proof.Machine.execVmor f s
  | .vmxor f => Sys2Proof.Machine.execVmxor f s
  | .vmandn f => Sys2Proof.Machine.execVmandn f s
  | .vmpop f => Sys2Proof.Machine.execVmpop f s
  | .vmfirst f => Sys2Proof.Machine.execVmfirst f s
  | .vperm f => Sys2Proof.Machine.execVperm f s
  | .vslideup f => Sys2Proof.Machine.execVslideup f s
  | .vslidedn f => Sys2Proof.Machine.execVslidedn f s
  | .vbcast f => Sys2Proof.Machine.execVbcast f s
  | .vcompress f => Sys2Proof.Machine.execVcompress f s
  | .vexpand f => Sys2Proof.Machine.execVexpand f s
  | .vzip f => Sys2Proof.Machine.execVzip f s
  | .vunzip f => Sys2Proof.Machine.execVunzip f s
  | .vxchg f => Sys2Proof.Machine.execVxchg f s
  | .vredsum f => Sys2Proof.Machine.execVredsum f s
  | .vredmax f => Sys2Proof.Machine.execVredmax f s
  | .vredmin f => Sys2Proof.Machine.execVredmin f s
  | .vredand f => Sys2Proof.Machine.execVredand f s
  | .vredor f => Sys2Proof.Machine.execVredor f s
  | .vrowstat f => Sys2Proof.Machine.execVrowstat f s
  | .vfn f => Sys2Proof.Machine.execVfn f s
  | .vtblld f => Sys2Proof.Machine.execVtblld f s
  | .vidx f => Sys2Proof.Machine.execVidx f s
  | .vextw f => Sys2Proof.Machine.execVextw f s
  | .vinsw f => Sys2Proof.Machine.execVinsw f s
  | .vbany f => Sys2Proof.Machine.execVbany f s
  | .vball f => Sys2Proof.Machine.execVball f s
  | .vbnone f => Sys2Proof.Machine.execVbnone f s
  | .vbrD f => Sys2Proof.Machine.execVbrD f s
  | .vjoin f => Sys2Proof.Machine.execVjoin f s
  | .vjmp f => Sys2Proof.Machine.execVjmp f s
  | .vloop f => Sys2Proof.Machine.execVloop f s
  | .vendlp f => Sys2Proof.Machine.execVendlp f s
  | .vend f => Sys2Proof.Machine.execVend f s
  | .vpostr f => Sys2Proof.Machine.execVpostr f s
  | .vwaluAdd f => Sys2Proof.Machine.execVwaluAdd f s
  | .vwaluSub f => Sys2Proof.Machine.execVwaluSub f s
  | .vwaluAnd f => Sys2Proof.Machine.execVwaluAnd f s
  | .vwaluOr f => Sys2Proof.Machine.execVwaluOr f s
  | .vwaluXor f => Sys2Proof.Machine.execVwaluXor f s
  | .vwaluSll f => Sys2Proof.Machine.execVwaluSll f s
  | .vwaluSrl f => Sys2Proof.Machine.execVwaluSrl f s
  | .vwaluSra f => Sys2Proof.Machine.execVwaluSra f s
  | .vwaluSlt f => Sys2Proof.Machine.execVwaluSlt f s
  | .vwaluSltu f => Sys2Proof.Machine.execVwaluSltu f s
  | .vwaluMul f => Sys2Proof.Machine.execVwaluMul f s
  | .vwaluMin f => Sys2Proof.Machine.execVwaluMin f s
  | .vwaluMax f => Sys2Proof.Machine.execVwaluMax f s
  | .vwaluMinu f => Sys2Proof.Machine.execVwaluMinu f s
  | .vwaluMaxu f => Sys2Proof.Machine.execVwaluMaxu f s
  | .vwaluRlc f => Sys2Proof.Machine.execVwaluRlc f s
  | .vwaluRvl f => Sys2Proof.Machine.execVwaluRvl f s
  | .vwaluRssn f => Sys2Proof.Machine.execVwaluRssn f s
  | .vwli f => Sys2Proof.Machine.execVwli f s
  | .vmodeArr f => Sys2Proof.Machine.execVmodeArr f s
  | .vmodeVec f => Sys2Proof.Machine.execVmodeVec f s
  | .moxa f => Sys2Proof.Machine.execMoxa f s
  | .moxs f => Sys2Proof.Machine.execMoxs f s
  | .mldw f => Sys2Proof.Machine.execMldw f s
  | .mpass f => Sys2Proof.Machine.execMpass f s
  | .mwb f => Sys2Proof.Machine.execMwb f s
  | .mwbQ f => Sys2Proof.Machine.execMwbQ f s
  | .mldt f => Sys2Proof.Machine.execMldt f s
  | .vtrn8 f => Sys2Proof.Machine.execVtrn8 f s
  | .mchain f => Sys2Proof.Machine.execMchain f s
  | .sload f => Sys2Proof.Machine.execSload f s
  | .sfree f => Sys2Proof.Machine.execSfree f s
  | .squery f => Sys2Proof.Machine.execSquery f s
  | .xop f => Sys2Proof.Machine.execXop f s
  | .sstart f => Sys2Proof.Machine.execSstart f s
  | .lb rt rs1 imm => Sys2Proof.Machine.execLb rt rs1 imm s
  | .lbu rt rs1 imm => Sys2Proof.Machine.execLbu rt rs1 imm s
  | .lh rt rs1 imm => Sys2Proof.Machine.execLh rt rs1 imm s
  | .lhu rt rs1 imm => Sys2Proof.Machine.execLhu rt rs1 imm s
  | .lw rt rs1 imm => Sys2Proof.Machine.execLw rt rs1 imm s
  | .lwu rt rs1 imm => Sys2Proof.Machine.execLwu rt rs1 imm s
  | .ld rt rs1 imm => Sys2Proof.Machine.execLd rt rs1 imm s
  | .lq rt rs1 imm => Sys2Proof.Machine.execLq rt rs1 imm s
  | .sb rt rs1 imm => Sys2Proof.Machine.execSb rt rs1 imm s
  | .sh rt rs1 imm => Sys2Proof.Machine.execSh rt rs1 imm s
  | .sw rt rs1 imm => Sys2Proof.Machine.execSw rt rs1 imm s
  | .sd rt rs1 imm => Sys2Proof.Machine.execSd rt rs1 imm s
  | .sq rt rs1 imm => Sys2Proof.Machine.execSq rt rs1 imm s
  | .lbW rt rs1 imm => Sys2Proof.Machine.execLbW rt rs1 imm s
  | .lbWc rt rs1 imm => Sys2Proof.Machine.execLbWc rt rs1 imm s
  | .lbuW rt rs1 imm => Sys2Proof.Machine.execLbuW rt rs1 imm s
  | .lbuWc rt rs1 imm => Sys2Proof.Machine.execLbuWc rt rs1 imm s
  | .lhW rt rs1 imm => Sys2Proof.Machine.execLhW rt rs1 imm s
  | .lhWc rt rs1 imm => Sys2Proof.Machine.execLhWc rt rs1 imm s
  | .lhuW rt rs1 imm => Sys2Proof.Machine.execLhuW rt rs1 imm s
  | .lhuWc rt rs1 imm => Sys2Proof.Machine.execLhuWc rt rs1 imm s
  | .lwW rt rs1 imm => Sys2Proof.Machine.execLwW rt rs1 imm s
  | .lwWc rt rs1 imm => Sys2Proof.Machine.execLwWc rt rs1 imm s
  | .lwuW rt rs1 imm => Sys2Proof.Machine.execLwuW rt rs1 imm s
  | .lwuWc rt rs1 imm => Sys2Proof.Machine.execLwuWc rt rs1 imm s
  | .ldW rt rs1 imm => Sys2Proof.Machine.execLdW rt rs1 imm s
  | .ldWc rt rs1 imm => Sys2Proof.Machine.execLdWc rt rs1 imm s
  | .lqW rt rs1 imm => Sys2Proof.Machine.execLqW rt rs1 imm s
  | .lqWc rt rs1 imm => Sys2Proof.Machine.execLqWc rt rs1 imm s
  | .sbFl rt rs1 imm => Sys2Proof.Machine.execSbFl rt rs1 imm s
  | .shFl rt rs1 imm => Sys2Proof.Machine.execShFl rt rs1 imm s
  | .swFl rt rs1 imm => Sys2Proof.Machine.execSwFl rt rs1 imm s
  | .sdFl rt rs1 imm => Sys2Proof.Machine.execSdFl rt rs1 imm s
  | .sqFl rt rs1 imm => Sys2Proof.Machine.execSqFl rt rs1 imm s
  | .beq rs1 rs2 off => Sys2Proof.Machine.execBeq rs1 rs2 off s
  | .bne rs1 rs2 off => Sys2Proof.Machine.execBne rs1 rs2 off s
  | .blt rs1 rs2 off => Sys2Proof.Machine.execBlt rs1 rs2 off s
  | .bge rs1 rs2 off => Sys2Proof.Machine.execBge rs1 rs2 off s
  | .bltu rs1 rs2 off => Sys2Proof.Machine.execBltu rs1 rs2 off s
  | .bgeu rs1 rs2 off => Sys2Proof.Machine.execBgeu rs1 rs2 off s
  | .jal off => Sys2Proof.Machine.execJal off s
  | .j off => Sys2Proof.Machine.execJ off s
  | .jalr rd rs1 imm => Sys2Proof.Machine.execJalr rd rs1 imm s
  | .fadd rd rs1 rs2 ty => Sys2Proof.Machine.execFadd rd rs1 rs2 ty s
  | .fsub rd rs1 rs2 ty => Sys2Proof.Machine.execFsub rd rs1 rs2 ty s
  | .fmul rd rs1 rs2 ty => Sys2Proof.Machine.execFmul rd rs1 rs2 ty s
  | .fdiv rd rs1 rs2 ty => Sys2Proof.Machine.execFdiv rd rs1 rs2 ty s
  | .fsqrt rd rs1 ty => Sys2Proof.Machine.execFsqrt rd rs1 ty s
  | .fmin rd rs1 rs2 ty => Sys2Proof.Machine.execFmin rd rs1 rs2 ty s
  | .fmax rd rs1 rs2 ty => Sys2Proof.Machine.execFmax rd rs1 rs2 ty s
  | .feq rd rs1 rs2 ty => Sys2Proof.Machine.execFeq rd rs1 rs2 ty s
  | .flt rd rs1 rs2 ty => Sys2Proof.Machine.execFlt rd rs1 rs2 ty s
  | .fle rd rs1 rs2 ty => Sys2Proof.Machine.execFle rd rs1 rs2 ty s
  | .fclass rd rs1 ty => Sys2Proof.Machine.execFclass rd rs1 ty s
  | .fcvt rd rs1 sty ty => Sys2Proof.Machine.execFcvt rd rs1 sty ty s
  | .ftoi rd rs1 rm ty => Sys2Proof.Machine.execFtoi rd rs1 rm ty s
  | .fton rd rs1 rm ty => Sys2Proof.Machine.execFton rd rs1 rm ty s
  | .itof rd rs1 ty => Sys2Proof.Machine.execItof rd rs1 ty s
  | .ntof rd rs1 ty => Sys2Proof.Machine.execNtof rd rs1 ty s
  | .fmadd rd rs1 rs2 rs3 ty => Sys2Proof.Machine.execFmadd rd rs1 rs2 rs3 ty s
  | .fmsub rd rs1 rs2 rs3 ty => Sys2Proof.Machine.execFmsub rd rs1 rs2 rs3 ty s
  | .fnmadd rd rs1 rs2 rs3 ty => Sys2Proof.Machine.execFnmadd rd rs1 rs2 rs3 ty s
  | .fnmsub rd rs1 rs2 rs3 ty => Sys2Proof.Machine.execFnmsub rd rs1 rs2 rs3 ty s
  | .amoswap rd rs1 rs2 sc ord asz => Sys2Proof.Machine.execAmoswap rd rs1 rs2 sc ord asz s
  | .amoadd rd rs1 rs2 sc ord asz => Sys2Proof.Machine.execAmoadd rd rs1 rs2 sc ord asz s
  | .amoand rd rs1 rs2 sc ord asz => Sys2Proof.Machine.execAmoand rd rs1 rs2 sc ord asz s
  | .amoor rd rs1 rs2 sc ord asz => Sys2Proof.Machine.execAmoor rd rs1 rs2 sc ord asz s
  | .amoxor rd rs1 rs2 sc ord asz => Sys2Proof.Machine.execAmoxor rd rs1 rs2 sc ord asz s
  | .amomin rd rs1 rs2 sc ord asz => Sys2Proof.Machine.execAmomin rd rs1 rs2 sc ord asz s
  | .amomax rd rs1 rs2 sc ord asz => Sys2Proof.Machine.execAmomax rd rs1 rs2 sc ord asz s
  | .amominu rd rs1 rs2 sc ord asz => Sys2Proof.Machine.execAmominu rd rs1 rs2 sc ord asz s
  | .amomaxu rd rs1 rs2 sc ord asz => Sys2Proof.Machine.execAmomaxu rd rs1 rs2 sc ord asz s
  | .amocas rd rs1 rs2 sc ord asz => Sys2Proof.Machine.execAmocas rd rs1 rs2 sc ord asz s
  | .amold rd rs1 sc ord asz => Sys2Proof.Machine.execAmold rd rs1 sc ord asz s
  | .amost rs1 rs2 sc ord asz => Sys2Proof.Machine.execAmost rs1 rs2 sc ord asz s
  | .binit rs1 rs2 => Sys2Proof.Machine.execBinit rs1 rs2 s
  | .arrive rd rs1 => Sys2Proof.Machine.execArrive rd rs1 s
  | .arriveDrop rd rs1 => Sys2Proof.Machine.execArriveDrop rd rs1 s
  | .bwait rd rs1 rs2 => Sys2Proof.Machine.execBwait rd rs1 rs2 s
  | .qcfg rs1 rs2 => Sys2Proof.Machine.execQcfg rs1 rs2 s
  | .qpost rs1 rs2 => Sys2Proof.Machine.execQpost rs1 rs2 s
  | .qtake rd rs1 rs2 => Sys2Proof.Machine.execQtake rd rs1 rs2 s
  | .qwaitn rd rs1 rs2 => Sys2Proof.Machine.execQwaitn rd rs1 rs2 s
  | .qstat rd rs1 => Sys2Proof.Machine.execQstat rd rs1 s
  | .qresync rs1 => Sys2Proof.Machine.execQresync rs1 s
  | .postb rs1 ra rb rc re => Sys2Proof.Machine.execPostb rs1 ra rb rc re s
  | .getr rd => Sys2Proof.Machine.execGetr rd s
  | .waitc bl ns cp tl => Sys2Proof.Machine.execWaitc bl ns cp tl s
  | .copy rs1 => Sys2Proof.Machine.execCopy rs1 s
  | .klaunch rd rs1 => Sys2Proof.Machine.execKlaunch rd rs1 s
  | .seat rs1 => Sys2Proof.Machine.execSeat rs1 s
  | .spanatt rs1 => Sys2Proof.Machine.execSpanatt rs1 s
  | .spanrel rs1 => Sys2Proof.Machine.execSpanrel rs1 s
  | .csrr rd creg => Sys2Proof.Machine.execCsrr rd creg s
  | .csrw rd rs1 creg => Sys2Proof.Machine.execCsrw rd rs1 creg s
  | .csrs rd rs1 creg => Sys2Proof.Machine.execCsrs rd rs1 creg s
  | .csrc rd rs1 creg => Sys2Proof.Machine.execCsrc rd rs1 creg s
  | .trap code => Sys2Proof.Machine.execTrap code s
  | .fenceSv => Sys2Proof.Machine.execFenceSv s
  | .fenceVs => Sys2Proof.Machine.execFenceVs s
  | .fenceVv => Sys2Proof.Machine.execFenceVv s
  | .phend => Sys2Proof.Machine.execPhend s
  | .alloc => Sys2Proof.Machine.execAlloc s
  | .free => Sys2Proof.Machine.execFree s
  | .kstat => Sys2Proof.Machine.execKstat s
  | .kcancel => Sys2Proof.Machine.execKcancel s
  | .feat => Sys2Proof.Machine.execFeat s
  | .logev => Sys2Proof.Machine.execLogev s
  | .tret => Sys2Proof.Machine.execTret s
  | .exit => Sys2Proof.Machine.execExit s
  | .releaseAtomicResume tid => Sys2Proof.Machine.execReleaseAtomicResume tid s
  | .fenceVsComplete tid => Sys2Proof.Machine.execFenceVsComplete tid s
  | .bwaitWake tid => Sys2Proof.Machine.execBwaitWake tid s
  | .phendComplete tid => Sys2Proof.Machine.execPhendComplete tid s
  | .writeAcknowledge tid lane => Sys2Proof.Machine.execWriteAcknowledge tid lane s
  | .qcfgAck tid => Sys2Proof.Machine.execQcfgAck tid s
  | .qpostResume tid vec => Sys2Proof.Machine.execQpostResume tid vec s
  | .qtakeWake tid => Sys2Proof.Machine.execQtakeWake tid s
  | .qwaitnWake tid => Sys2Proof.Machine.execQwaitnWake tid s
  | .freeSlotReturn index => Sys2Proof.Machine.execFreeSlotReturn index s
  | .pigeonholeDesyncFault tid => Sys2Proof.Machine.execPigeonholeDesyncFault tid s
  | .postbResume tid => Sys2Proof.Machine.execPostbResume tid s
  | .getrWake tid => Sys2Proof.Machine.execGetrWake tid s
  | .waitcWake tid => Sys2Proof.Machine.execWaitcWake tid s
  | .copyChunk job => Sys2Proof.Machine.execCopyChunk job s
  | .copyComplete job => Sys2Proof.Machine.execCopyComplete job s
  | .klaunchResume tid => Sys2Proof.Machine.execKlaunchResume tid s
  | .finjClear v => Sys2Proof.Machine.execFinjClear v s
  | .finjSignatureFlip v => Sys2Proof.Machine.execFinjSignatureFlip v s
  | .finjCorrectable v => Sys2Proof.Machine.execFinjCorrectable v s
  | .finjUncorrectable v => Sys2Proof.Machine.execFinjUncorrectable v s
  | .finjDiscardReturn v => Sys2Proof.Machine.execFinjDiscardReturn v s
  | .finjParity v => Sys2Proof.Machine.execFinjParity v s
  | .finjEventFlip v => Sys2Proof.Machine.execFinjEventFlip v s
  | .exitComplete tid => Sys2Proof.Machine.execExitComplete tid s
  | .preloadComplete lnum form => Sys2Proof.Machine.execPreloadComplete lnum form s
  | .ageingStep lnum => Sys2Proof.Machine.execAgeingStep lnum s
  | .preemptDeadline tid => Sys2Proof.Machine.execPreemptDeadline tid s
  | .satchelSave lnum form => Sys2Proof.Machine.execSatchelSave lnum form s
  | .kernelDone lnum => Sys2Proof.Machine.execKernelDone lnum s
  | .blockStart tid => Sys2Proof.Machine.execBlockStart tid s
  | .watchWake tid => Sys2Proof.Machine.execWatchWake tid s
  | .commitResume tid => Sys2Proof.Machine.execCommitResume tid s
  | .faultResolve index => Sys2Proof.Machine.execFaultResolve index s
  | .vectorWLoadWake tid => Sys2Proof.Machine.execVectorWLoadWake tid s
  | .notifyWritePerform tid => Sys2Proof.Machine.execNotifyWritePerform tid s
  | .gatherDelivery tid reg => Sys2Proof.Machine.execGatherDelivery tid reg s
  | .streamRefill tid reg => Sys2Proof.Machine.execStreamRefill tid reg s
  | .replyPostResume tid => Sys2Proof.Machine.execReplyPostResume tid s
  | .vectorInterlockResume tid => Sys2Proof.Machine.execVectorInterlockResume tid s
  | .arrayOpStart tid => Sys2Proof.Machine.execArrayOpStart tid s
  | .arrayOpComplete tid => Sys2Proof.Machine.execArrayOpComplete tid s
  | .arrayRecess tid => Sys2Proof.Machine.execArrayRecess tid s
  | .chainEntryConsume tid => Sys2Proof.Machine.execChainEntryConsume tid s
  | .slatePlacementComplete tid slot => Sys2Proof.Machine.execSlatePlacementComplete tid slot s
  | .loaderReturn tid => Sys2Proof.Machine.execLoaderReturn tid s
  | .memgraphIteration tid slot => Sys2Proof.Machine.execMemgraphIteration tid slot s
  | .memgraphRunComplete tid slot => Sys2Proof.Machine.execMemgraphRunComplete tid slot s
  | .lineFill line => Sys2Proof.Machine.execLineFill line s
  | .lineEvict line wholeEntry => Sys2Proof.Machine.execLineEvict line wholeEntry s
  | .pageWalkComplete tid va => Sys2Proof.Machine.execPageWalkComplete tid va s
  | .invalidationComplete index => Sys2Proof.Machine.execInvalidationComplete index s
  | .correctableError u => Sys2Proof.Machine.execCorrectableError u s
  | .uncorrectableError u => Sys2Proof.Machine.execUncorrectableError u s
  | .coreRetireComplete core => Sys2Proof.Machine.execCoreRetireComplete core s
  | .pairSignatureExchange lead => Sys2Proof.Machine.execPairSignatureExchange lead s
  | .pairEventMatch lead => Sys2Proof.Machine.execPairEventMatch lead s
  | .thermalHold r => Sys2Proof.Machine.execThermalHold r s
  | .thermalRelease rs => Sys2Proof.Machine.execThermalRelease rs s
  | .thermalTrip r => Sys2Proof.Machine.execThermalTrip r s
  | .powerOn b => Sys2Proof.Machine.execPowerOn b s
  | .powerOff => Sys2Proof.Machine.execPowerOff s
  | .flitRetry port => Sys2Proof.Machine.execFlitRetry port s
  | .linkRekey node => Sys2Proof.Machine.execLinkRekey node s
  | .linkPortFail port => Sys2Proof.Machine.execLinkPortFail port s
  | .remoteAccess r => Sys2Proof.Machine.execRemoteAccess r s
  | .routeLoss node => Sys2Proof.Machine.execRouteLoss node s
  | .tailWrite v => Sys2Proof.Machine.execTailWrite v s
  | .ringConfigWrite ringn v => Sys2Proof.Machine.execRingConfigWrite ringn v s
  | .jwinWrite v => Sys2Proof.Machine.execJwinWrite v s
  | .journalWindowReady => Sys2Proof.Machine.execJournalWindowReady s
  | .lwinWrite v => Sys2Proof.Machine.execLwinWrite v s
  | .deviceRegisterWrite off v => Sys2Proof.Machine.execDeviceRegisterWrite off v s
  | .dcreate seq => Sys2Proof.Machine.execDcreate seq s
  | .ddestroy seq => Sys2Proof.Machine.execDdestroy seq s
  | .ddestroyComplete dom => Sys2Proof.Machine.execDdestroyComplete dom s
  | .load seq => Sys2Proof.Machine.execLoad seq s
  | .unload seq => Sys2Proof.Machine.execUnload seq s
  | .unloadComplete handle => Sys2Proof.Machine.execUnloadComplete handle s
  | .launch seq => Sys2Proof.Machine.execLaunch seq s
  | .cancel seq => Sys2Proof.Machine.execCancel seq s
  | .stagein seq => Sys2Proof.Machine.execStagein seq s
  | .stageout seq => Sys2Proof.Machine.execStageout seq s
  | .map seq => Sys2Proof.Machine.execMap seq s
  | .unmap seq => Sys2Proof.Machine.execUnmap seq s
  | .attest seq => Sys2Proof.Machine.execAttest seq s
  | .mcode seq => Sys2Proof.Machine.execMcode seq s
  | .mcodeDieUpdate die => Sys2Proof.Machine.execMcodeDieUpdate die s
  | .fwstage seq => Sys2Proof.Machine.execFwstage seq s
  | .nodeset seq => Sys2Proof.Machine.execNodeset seq s
  | .reservedCommand c => Sys2Proof.Machine.execReservedCommand c s
  | .consumingLoadWake tid => Sys2Proof.Machine.execConsumingLoadWake tid s
  | .linkPortTrain port peer sw => Sys2Proof.Machine.execLinkPortTrain port peer sw s
  | .hostPortTrain host => Sys2Proof.Machine.execHostPortTrain host s
  | .add rd rs1 rs2 => Sys2Proof.Machine.execAdd rd rs1 rs2 s
  | .sub rd rs1 rs2 => Sys2Proof.Machine.execSub rd rs1 rs2 s
  | .and rd rs1 rs2 => Sys2Proof.Machine.execAnd rd rs1 rs2 s
  | .or rd rs1 rs2 => Sys2Proof.Machine.execOr rd rs1 rs2 s
  | .xor rd rs1 rs2 => Sys2Proof.Machine.execXor rd rs1 rs2 s
  | .sll rd rs1 rs2 => Sys2Proof.Machine.execSll rd rs1 rs2 s
  | .srl rd rs1 rs2 => Sys2Proof.Machine.execSrl rd rs1 rs2 s
  | .sra rd rs1 rs2 => Sys2Proof.Machine.execSra rd rs1 rs2 s
  | .slt rd rs1 rs2 => Sys2Proof.Machine.execSlt rd rs1 rs2 s
  | .sltu rd rs1 rs2 => Sys2Proof.Machine.execSltu rd rs1 rs2 s
  | .mul rd rs1 rs2 => Sys2Proof.Machine.execMul rd rs1 rs2 s
  | .mulh rd rs1 rs2 => Sys2Proof.Machine.execMulh rd rs1 rs2 s
  | .mulhu rd rs1 rs2 => Sys2Proof.Machine.execMulhu rd rs1 rs2 s
  | .div rd rs1 rs2 => Sys2Proof.Machine.execDiv rd rs1 rs2 s
  | .divu rd rs1 rs2 => Sys2Proof.Machine.execDivu rd rs1 rs2 s
  | .rem rd rs1 rs2 => Sys2Proof.Machine.execRem rd rs1 rs2 s
  | .remu rd rs1 rs2 => Sys2Proof.Machine.execRemu rd rs1 rs2 s
  | .min rd rs1 rs2 => Sys2Proof.Machine.execMin rd rs1 rs2 s
  | .max rd rs1 rs2 => Sys2Proof.Machine.execMax rd rs1 rs2 s
  | .minu rd rs1 rs2 => Sys2Proof.Machine.execMinu rd rs1 rs2 s
  | .maxu rd rs1 rs2 => Sys2Proof.Machine.execMaxu rd rs1 rs2 s
  | .clz rd rs1 => Sys2Proof.Machine.execClz rd rs1 s
  | .ctz rd rs1 => Sys2Proof.Machine.execCtz rd rs1 s
  | .popc rd rs1 => Sys2Proof.Machine.execPopc rd rs1 s
  | .addi rd rs1 imm => Sys2Proof.Machine.execAddi rd rs1 imm s
  | .andi rd rs1 imm => Sys2Proof.Machine.execAndi rd rs1 imm s
  | .ori rd rs1 imm => Sys2Proof.Machine.execOri rd rs1 imm s
  | .xori rd rs1 imm => Sys2Proof.Machine.execXori rd rs1 imm s
  | .slti rd rs1 imm => Sys2Proof.Machine.execSlti rd rs1 imm s
  | .sltiu rd rs1 imm => Sys2Proof.Machine.execSltiu rd rs1 imm s
  | .slli rd rs1 sh => Sys2Proof.Machine.execSlli rd rs1 sh s
  | .srli rd rs1 sh => Sys2Proof.Machine.execSrli rd rs1 sh s
  | .srai rd rs1 sh => Sys2Proof.Machine.execSrai rd rs1 sh s
  | .lui rd imm => Sys2Proof.Machine.execLui rd imm s
  | .auipc rd imm => Sys2Proof.Machine.execAuipc rd imm s
  | .ormi rd rs1 imm => Sys2Proof.Machine.execOrmi rd rs1 imm s
  | .orhi rd rs1 imm => Sys2Proof.Machine.execOrhi rd rs1 imm s

end Sys2Proof.Machine
end

