-- ==== Sys2Proof/Machine/Step.lean ====
section
/-! DEFINITION. One step of the machine, and the placing of an instruction where the next step fetches it. -/

namespace Sys2Proof.Machine

/-- A planned turn carried out, with what every step adds. -/
noncomputable def carryOut (s : State) (t : Turn) (p : Plan) : Host.Outcome State Fault Refusal :=
  match p with
  | .fault f => .next (settle (takeTurnFault { s with actor := actorOf t } t f))
  | .run i => match exec i { s with actor := actorOf t } with
    | .next s' => .next (settle s')
    | .fault f => .fault f
    | .refused r => .refused r
  | _ => .next (settle s)

/-- One step: the agent whose turn it is executes one instruction or event, or nothing; then the units scan, the tick and
the clocks advance. -/
noncomputable def step (s : State) : Host.Outcome State Fault Refusal :=
  let (t, s) := nextTurn s
  match plan s t with
  | .fetch a pc =>
    let s := strikeFetch s a pc.toNat (turnLaunch s t) (isVectorTurn t)
    carryOut s t (fetched s t a pc)
  | p => carryOut s t p

/-- The machine with an instruction, its bits numbered as the opcode table numbers them, where the next step fetches it
(log 14). -/
def State.withFetchWord (s : State) (nbits w : Nat) : State :=
  placeFetch s (nbits = 64 || w / 2 ^ 24 % 256 = 0xFC) (fetchBytes w)

end Sys2Proof.Machine
end

