-- ==== Sys2Proof/Safety.lean ====
section
/-! DEFINITION. What counts as a safe step and a safe run, and how a claim says what changed: what one instruction leaves as it was, in the words that claims use. -/

namespace Sys2Proof.Safety

open Sys2Proof.Machine

/-- The machine does not stop at this step: it has a next state. -/
def Goes (s : State) : Prop := ∃ t, step s = .next t

/-- A predicate that every step keeps. -/
def Kept (p : State → Prop) : Prop := ∀ s t, p s → step s = .next t → p t

/-- The state after n steps, where the machine reaches it. -/
def Reaches : Nat → State → State → Prop
  | 0, s, t => s = t
  | n + 1, s, t => ∃ u, step s = .next u ∧ Reaches n u t

/-- One byte of memory as an access reads it. -/
def byteOf (s : State) (a : Nat) : Byte := readByte s.sys.mem a

/-- Every byte of memory outside n bytes from an address reads as before. -/
def BytesOutside (s t : State) (pa n : Nat) : Prop := ∀ a, (a < pa ∨ pa + n ≤ a) → byteOf t a = byteOf s a

/-- Everything outside memory and its caches, the threads and the Proctor is as it was. -/
structure SameSurroundings (s t : State) : Prop where
  actor : t.actor = s.actor
  agenda : t.agenda = s.agenda
  tick : t.tick = s.tick
  power : t.power = s.power
  cycles : t.cycles = s.cycles
  lanes : t.lanes = s.lanes
  cores : t.cores = s.cores
  fabric : t.fabric = s.fabric
  sched : t.sched = s.sched
  host : t.host = s.host

/-- The threads and the Proctor cores are as they were, but for the acting agent: if that is a thread it is changed by
`f`, and if it is a Proctor core by `h`. The rest of the Proctor is as it was. -/
structure OnlyActor (s t : State) (f : Thread → Thread) (h : ProctorCore → ProctorCore) : Prop where
  threads : ∀ tid, t.thread tid = if s.actor = .thread tid then (s.thread tid).map f else s.thread tid
  cores : ∀ k, t.pcore k = if s.actor = .proctor k then (s.pcore k).map h else s.pcore k
  proctor : { t.proctor with cores := s.proctor.cores } = s.proctor

/-- Only the registers of the acting control thread or Proctor core differ, and they are `c`: no byte of memory, no
granule, no lane register, no other thread, no special register elsewhere. -/
structure OnlyRegisters (s t : State) (c : ScalarCtx) : Prop where
  rest : SameSurroundings s t
  sys : t.sys = s.sys
  agent : OnlyActor s t (fun x => { x with ctx := c }) (fun p => { p with ctx := c })

/-- The registers after an instruction whose only result is `v` in rd (11 R165): a write to g0 is discarded, which reads
zero as before (00 R8); PC is the next instruction's; FFLAGS gain `g`; FMODE and SEED stay. -/
structure WroteOne (c c' : ScalarCtx) (rd : BitVec 5) (v : Word) (g : BitVec 7) : Prop where
  reg : ∀ r, c'.rd r = if r = rd ∧ r ≠ 0 then v else c.rd r
  pc : c'.pc = c.pc + 4
  fflags : c'.fflags = c.fflags ||| g
  fmode : c'.fmode = c.fmode
  seed : c'.seed = c.seed

/-- `exec` completes an instruction whose one result is `v` in rd, with flags `g`, and changes nothing else. -/
def Completes (i : Instr) (s : State) (c : ScalarCtx) (rd : BitVec 5) (v : Word) (g : BitVec 7) : Prop :=
  ∃ t c', exec i s = .next t ∧ WroteOne c c' rd v g ∧ OnlyRegisters s t c'

/-- The thread leaves its loader when it jumps to the loader return address (19 R310). -/
def leavesLoader (target : Word) (x : Thread) : Thread :=
  if target = 0x00FFFFFFFEFF0000 then { x with loader := x.loader.map (fun h => { h with leaving := true }) } else x

/-- `exec` completes a jump: the acting agent continues at `target` with the registers of `c`, its loader's end is set
going where the jump asks for it, and nothing else changes. -/
def JumpsTo (i : Instr) (s : State) (c : ScalarCtx) (target : Word) : Prop :=
  ∃ t, exec i s = .next t ∧ SameSurroundings s t ∧ t.sys = s.sys
    ∧ OnlyActor s t (fun x => leavesLoader target { x with ctx := { c with pc := target } })
        (fun p => { p with ctx := { c with pc := target } })

/-- `exec` completes with memory, caches and everything outside the threads and the Proctor as they were; the acting
thread is changed by `f`, the acting Proctor core by `h`. -/
def CompletesAs (i : Instr) (s : State) (f : Thread → Thread) (h : ProctorCore → ProctorCore) : Prop :=
  ∃ t, exec i s = .next t ∧ SameSurroundings s t ∧ t.sys = s.sys ∧ OnlyActor s t f h

/-- The instruction waits before every effect (11 R167): the agent holds it as the one to execute again, PC and every
register as they were. -/
def Waits (i : Instr) (s : State) : Prop :=
  CompletesAs i s (fun x => { x with waiting := some i }) (fun p => { p with waiting := some i })

/-- The instruction takes a fault, precise at it (11 R168). -/
def Faults (i : Instr) (s : State) (kind : Nat) (d : List Nat) : Prop := exec i s = .next (takeScalarFault s (faultOf kind d))

/-- PC + 4, every other register as it was (11 R165). -/
def advance (c : ScalarCtx) : ScalarCtx := { c with pc := c.pc + 4 }

end Sys2Proof.Safety
end

