-- ==== Sys2Proof/Safety/Scalar.lean ====
section
/-! DEFINITION. The results of scalar instructions as the tables of 11 R169 to R179 print them, for claims to compare the machine with. -/

namespace Sys2Proof.Safety

open Sys2Proof.Machine

/-- A 64-bit pattern of a whole number, modulo 2^64 (11 R169). -/
def wrap (x : Int) : Word := BitVec.ofInt 64 x

/-- The result of a register-register instruction for a and b (11 R169). -/
def integerTable (a b : Word) : Instr → Option (BitVec 5 × Word)
  | .add rd _ _ => some (rd, wrap (a.toNat + b.toNat))
  | .sub rd _ _ => some (rd, wrap (a.toNat - b.toNat))
  | .and rd _ _ => some (rd, a &&& b)
  | .or rd _ _ => some (rd, a ||| b)
  | .xor rd _ _ => some (rd, a ^^^ b)
  | .sll rd _ _ => some (rd, wrap (a.toNat * 2 ^ (b.toNat % 64)))
  | .srl rd _ _ => some (rd, wrap (a.toNat / 2 ^ (b.toNat % 64)))
  | .sra rd _ _ => some (rd, wrap (a.toInt / 2 ^ (b.toNat % 64)))
  | .slt rd _ _ => some (rd, if a.toInt < b.toInt then 1 else 0)
  | .sltu rd _ _ => some (rd, if a.toNat < b.toNat then 1 else 0)
  | .mul rd _ _ => some (rd, wrap (a.toNat * b.toNat))
  | .mulh rd _ _ => some (rd, wrap (a.toInt * b.toInt / 2 ^ 64))
  | .mulhu rd _ _ => some (rd, wrap (a.toNat * b.toNat / 2 ^ 64))
  | .div rd _ _ => some (rd, if b = 0 then 0xFFFFFFFFFFFFFFFF else wrap (a.toInt.tdiv b.toInt))
  | .divu rd _ _ => some (rd, if b = 0 then 0xFFFFFFFFFFFFFFFF else wrap (a.toNat / b.toNat))
  | .rem rd _ _ => some (rd, if b = 0 then a else wrap (a.toInt.tmod b.toInt))
  | .remu rd _ _ => some (rd, if b = 0 then a else wrap (a.toNat % b.toNat))
  | .min rd _ _ => some (rd, if a.toInt ≤ b.toInt then a else b)
  | .max rd _ _ => some (rd, if a.toInt ≤ b.toInt then b else a)
  | .minu rd _ _ => some (rd, if a.toNat ≤ b.toNat then a else b)
  | .maxu rd _ _ => some (rd, if a.toNat ≤ b.toNat then b else a)
  | .clz rd _ => some (rd, wrap (((List.range 64).find? (fun n => a.getMsbD n)).getD 64 : Nat))
  | .ctz rd _ => some (rd, wrap (((List.range 64).find? (fun n => a.getLsbD n)).getD 64 : Nat))
  | .popc rd _ => some (rd, wrap ((List.range 64).countP (fun n => a.getLsbD n) : Nat))
  | _ => none

/-- The source registers of the instructions of `integerTable`; a missing rs2 reads g0. -/
def integerSources : Instr → BitVec 5 × BitVec 5
  | .add _ rs1 rs2 => (rs1, rs2)
  | .sub _ rs1 rs2 => (rs1, rs2)
  | .and _ rs1 rs2 => (rs1, rs2)
  | .or _ rs1 rs2 => (rs1, rs2)
  | .xor _ rs1 rs2 => (rs1, rs2)
  | .sll _ rs1 rs2 => (rs1, rs2)
  | .srl _ rs1 rs2 => (rs1, rs2)
  | .sra _ rs1 rs2 => (rs1, rs2)
  | .slt _ rs1 rs2 => (rs1, rs2)
  | .sltu _ rs1 rs2 => (rs1, rs2)
  | .mul _ rs1 rs2 => (rs1, rs2)
  | .mulh _ rs1 rs2 => (rs1, rs2)
  | .mulhu _ rs1 rs2 => (rs1, rs2)
  | .div _ rs1 rs2 => (rs1, rs2)
  | .divu _ rs1 rs2 => (rs1, rs2)
  | .rem _ rs1 rs2 => (rs1, rs2)
  | .remu _ rs1 rs2 => (rs1, rs2)
  | .min _ rs1 rs2 => (rs1, rs2)
  | .max _ rs1 rs2 => (rs1, rs2)
  | .minu _ rs1 rs2 => (rs1, rs2)
  | .maxu _ rs1 rs2 => (rs1, rs2)
  | .clz _ rs1 => (rs1, 0)
  | .ctz _ rs1 => (rs1, 0)
  | .popc _ rs1 => (rs1, 0)
  | _ => (0, 0)

/-- The result of a register-immediate instruction for the source value a (11 R170); the immediate is sign-extended in
`i` and zero-extended in `z`. -/
def immediateTable (a : Word) : Instr → Option (BitVec 5 × Word)
  | .addi rd _ imm => some (rd, wrap (a.toNat + imm.toInt))
  | .andi rd _ imm => some (rd, a &&& wrap imm.toNat)
  | .ori rd _ imm => some (rd, a ||| wrap imm.toNat)
  | .xori rd _ imm => some (rd, a ^^^ wrap imm.toNat)
  | .slti rd _ imm => some (rd, if a.toInt < imm.toInt then 1 else 0)
  | .sltiu rd _ imm => some (rd, if (a.toNat : Int) < imm.toInt % 2 ^ 64 then 1 else 0)
  | .slli rd _ sh => some (rd, wrap (a.toNat * 2 ^ sh.toNat))
  | .srli rd _ sh => some (rd, wrap (a.toNat / 2 ^ sh.toNat))
  | .srai rd _ sh => some (rd, wrap (a.toInt / 2 ^ sh.toNat))
  | .ormi rd _ imm => some (rd, a ||| wrap (imm.toNat * 2 ^ 32))
  | .orhi rd _ imm => some (rd, a ||| wrap (imm.toNat * 2 ^ 48))
  | _ => none

/-- The source register of the instructions of `immediateTable`. -/
def immediateSource : Instr → BitVec 5
  | .addi _ rs1 _ => rs1
  | .andi _ rs1 _ => rs1
  | .ori _ rs1 _ => rs1
  | .xori _ rs1 _ => rs1
  | .slti _ rs1 _ => rs1
  | .sltiu _ rs1 _ => rs1
  | .slli _ rs1 _ => rs1
  | .srli _ rs1 _ => rs1
  | .srai _ rs1 _ => rs1
  | .ormi _ rs1 _ => rs1
  | .orhi _ rs1 _ => rs1
  | _ => 0

/-- The condition of a branch on its two registers, with its offset in parcels (11 R174). -/
def branchTable (c : ScalarCtx) : Instr → Option (Prop × Int)
  | .beq rs1 rs2 off => some ((c.rd rs1).toNat = (c.rd rs2).toNat, off.toInt)
  | .bne rs1 rs2 off => some ((c.rd rs1).toNat ≠ (c.rd rs2).toNat, off.toInt)
  | .blt rs1 rs2 off => some ((c.rd rs1).toInt < (c.rd rs2).toInt, off.toInt)
  | .bge rs1 rs2 off => some ((c.rd rs2).toInt ≤ (c.rd rs1).toInt, off.toInt)
  | .bltu rs1 rs2 off => some ((c.rd rs1).toNat < (c.rd rs2).toNat, off.toInt)
  | .bgeu rs1 rs2 off => some ((c.rd rs2).toNat ≤ (c.rd rs1).toNat, off.toInt)
  | _ => none

/-- The rounding of scalar instructions: the mode that FMODE names, rsr as rne (05 R80, 11 R176). -/
def scalarRounding (c : ScalarCtx) : Rounding :=
  match c.fmode.toNat with
  | 1 => ⟨.rtz, 0⟩
  | 2 => ⟨.rup, 0⟩
  | 3 => ⟨.rdn, 0⟩
  | _ => ⟨.rne, 0⟩

/-- The rounding operand of FTOI and FTON (11 R177). -/
def operandRounding (c : ScalarCtx) (rm : BitVec 5) : Rounding :=
  match rm.toNat with
  | 0 => scalarRounding c
  | 1 => ⟨.rne, 0⟩
  | 2 => ⟨.rtz, 0⟩
  | 3 => ⟨.rup, 0⟩
  | _ => ⟨.rdn, 0⟩

/-- A floating value of a register: its low bits (11 R176). -/
def lowBits (f : FType) (c : ScalarCtx) (r : BitVec 5) : Nat := (c.rd r).toNat % 2 ^ f.bits

/-- The destination, the value and the flags of a scalar floating instruction with its type named (11 R177 to R179);
the operations on encodings are those of 05 R76 to R79. -/
def floatTable (c : ScalarCtx) : Instr → Option (BitVec 5 × Nat × Flags)
  | .fadd rd x y ty => (scalarFType ty.toNat).map (fun f => (rd, fAdd f (scalarRounding c) (lowBits f c x) (lowBits f c y)))
  | .fsub rd x y ty => (scalarFType ty.toNat).map (fun f => (rd, fSub f (scalarRounding c) (lowBits f c x) (lowBits f c y)))
  | .fmul rd x y ty => (scalarFType ty.toNat).map (fun f => (rd, fMul f (scalarRounding c) (lowBits f c x) (lowBits f c y)))
  | .fdiv rd x y ty => (scalarFType ty.toNat).map (fun f => (rd, fDiv f (scalarRounding c) (lowBits f c x) (lowBits f c y)))
  | .fsqrt rd x ty => (scalarFType ty.toNat).map (fun f => (rd, fSqrt f (scalarRounding c) (lowBits f c x)))
  | .fmin rd x y ty => (scalarFType ty.toNat).map (fun f => (rd, fMinMax f false (lowBits f c x) (lowBits f c y)))
  | .fmax rd x y ty => (scalarFType ty.toNat).map (fun f => (rd, fMinMax f true (lowBits f c x) (lowBits f c y)))
  | .feq rd x y ty => (scalarFType ty.toNat).map (fun f =>
      let r := fCmp f 0 (lowBits f c x) (lowBits f c y); (rd, r.1.toNat, r.2))
  | .flt rd x y ty => (scalarFType ty.toNat).map (fun f =>
      let r := fCmp f 2 (lowBits f c x) (lowBits f c y); (rd, r.1.toNat, r.2))
  | .fle rd x y ty => (scalarFType ty.toNat).map (fun f =>
      let r := fCmp f 3 (lowBits f c x) (lowBits f c y); (rd, r.1.toNat, r.2))
  | .fclass rd x ty => (scalarFType ty.toNat).map (fun f => (rd, 2 ^ fClass f (lowBits f c x), 0))
  | .fcvt rd x sty ty => (scalarFType ty.toNat).bind (fun f => (scalarFType sty.toNat).map (fun g =>
      (rd, fConv g f (scalarRounding c) (lowBits g c x))))
  | .ftoi rd x rm ty => (scalarFType ty.toNat).map (fun f => (rd, fToInt f true 64 (operandRounding c rm) (lowBits f c x)))
  | .fton rd x rm ty => (scalarFType ty.toNat).map (fun f => (rd, fToInt f false 64 (operandRounding c rm) (lowBits f c x)))
  | .itof rd x ty => (scalarFType ty.toNat).map (fun f => (rd, intToF f (scalarRounding c) (c.rd x).toInt))
  | .ntof rd x ty => (scalarFType ty.toNat).map (fun f => (rd, intToF f (scalarRounding c) (c.rd x).toNat))
  | .fmadd rd x y z ty => (scalarFType ty.toNat).map (fun f =>
      (rd, fFma f (scalarRounding c) false false (lowBits f c x) (lowBits f c y) (lowBits f c z)))
  | .fmsub rd x y z ty => (scalarFType ty.toNat).map (fun f =>
      (rd, fFma f (scalarRounding c) false true (lowBits f c x) (lowBits f c y) (lowBits f c z)))
  | .fnmadd rd x y z ty => (scalarFType ty.toNat).map (fun f =>
      (rd, fFma f (scalarRounding c) true true (lowBits f c x) (lowBits f c y) (lowBits f c z)))
  | .fnmsub rd x y z ty => (scalarFType ty.toNat).map (fun f =>
      (rd, fFma f (scalarRounding c) true false (lowBits f c x) (lowBits f c y) (lowBits f c z)))
  | _ => none

end Sys2Proof.Safety
end

