-- ==== Sys2Proof/Safety/Access.lean ====
section
/-! DEFINITION. Scalar accesses to memory as 11 R172, R173 and R180 set them out, for claims to compare the machine with. -/

namespace Sys2Proof.Safety

open Sys2Proof.Machine

/-- rt, rs1, the offset, the bytes and whether the value is sign-extended, of a plain load (11 R172). -/
def loadForm : Instr → Option (BitVec 5 × BitVec 5 × Int × Nat × Bool)
  | .lb rt rs1 imm => some (rt, rs1, imm.toInt, 1, true)
  | .lbu rt rs1 imm => some (rt, rs1, imm.toInt, 1, false)
  | .lh rt rs1 imm => some (rt, rs1, imm.toInt, 2, true)
  | .lhu rt rs1 imm => some (rt, rs1, imm.toInt, 2, false)
  | .lw rt rs1 imm => some (rt, rs1, imm.toInt, 4, true)
  | .lwu rt rs1 imm => some (rt, rs1, imm.toInt, 4, false)
  | .ld rt rs1 imm => some (rt, rs1, imm.toInt, 8, false)
  | .lq rt rs1 imm => some (rt, rs1, imm.toInt, 16, false)
  | _ => none

/-- The same of a consuming load, with whether it clears (11 R173). -/
def consumingForm : Instr → Option (BitVec 5 × BitVec 5 × Int × Nat × Bool × Bool)
  | .lbW rt rs1 imm => some (rt, rs1, imm.toInt, 1, true, false)
  | .lbWc rt rs1 imm => some (rt, rs1, imm.toInt, 1, true, true)
  | .lbuW rt rs1 imm => some (rt, rs1, imm.toInt, 1, false, false)
  | .lbuWc rt rs1 imm => some (rt, rs1, imm.toInt, 1, false, true)
  | .lhW rt rs1 imm => some (rt, rs1, imm.toInt, 2, true, false)
  | .lhWc rt rs1 imm => some (rt, rs1, imm.toInt, 2, true, true)
  | .lhuW rt rs1 imm => some (rt, rs1, imm.toInt, 2, false, false)
  | .lhuWc rt rs1 imm => some (rt, rs1, imm.toInt, 2, false, true)
  | .lwW rt rs1 imm => some (rt, rs1, imm.toInt, 4, true, false)
  | .lwWc rt rs1 imm => some (rt, rs1, imm.toInt, 4, true, true)
  | .lwuW rt rs1 imm => some (rt, rs1, imm.toInt, 4, false, false)
  | .lwuWc rt rs1 imm => some (rt, rs1, imm.toInt, 4, false, true)
  | .ldW rt rs1 imm => some (rt, rs1, imm.toInt, 8, false, false)
  | .ldWc rt rs1 imm => some (rt, rs1, imm.toInt, 8, false, true)
  | .lqW rt rs1 imm => some (rt, rs1, imm.toInt, 16, false, false)
  | .lqWc rt rs1 imm => some (rt, rs1, imm.toInt, 16, false, true)
  | _ => none

/-- rt, rs1, the offset, the bytes and whether it fills, of a store (11 R172, R173). -/
def storeForm : Instr → Option (BitVec 5 × BitVec 5 × Int × Nat × Bool)
  | .sb rt rs1 imm => some (rt, rs1, imm.toInt, 1, false)
  | .sh rt rs1 imm => some (rt, rs1, imm.toInt, 2, false)
  | .sw rt rs1 imm => some (rt, rs1, imm.toInt, 4, false)
  | .sd rt rs1 imm => some (rt, rs1, imm.toInt, 8, false)
  | .sq rt rs1 imm => some (rt, rs1, imm.toInt, 16, false)
  | .sbFl rt rs1 imm => some (rt, rs1, imm.toInt, 1, true)
  | .shFl rt rs1 imm => some (rt, rs1, imm.toInt, 2, true)
  | .swFl rt rs1 imm => some (rt, rs1, imm.toInt, 4, true)
  | .sdFl rt rs1 imm => some (rt, rs1, imm.toInt, 8, true)
  | .sqFl rt rs1 imm => some (rt, rs1, imm.toInt, 16, true)
  | _ => none

/-- The address of a load or store: rs1 plus the offset, modulo 2^64 (11 R172). -/
def addressOf (c : ScalarCtx) (rs1 : BitVec 5) (imm : Int) : Nat := (wrap ((c.rd rs1).toNat + imm)).toNat

/-- The low n bytes of a value, lowest first (00 R4). -/
def bytesOf (n v : Nat) : List Byte := (List.range n).map (fun k => BitVec.ofNat 8 (v / 2 ^ (8 * k)))

/-- The bytes that a store of n bytes writes: rt's, and of 16 bytes rt + 1 above it (11 R172). -/
def storeData (c : ScalarCtx) (rt : BitVec 5) (n : Nat) : List Byte :=
  if n = 16 then bytesOf 8 (c.rd rt).toNat ++ bytesOf 8 (c.rd (rt + 1)).toNat else bytesOf n (c.rd rt).toNat

/-- The bytes that stand at an address now: memory's, or in the global window those of another module (25 R388) or of the host
(R406), which nothing here fixes. -/
def presentBytes (s : State) (pa n : Nat) : List Byte :=
  (List.range n).map (fun k => match physKind pa with
    | .window m off => if m < 1024 then Config.remoteByte s.tick (pa + k) else Config.hostByte s.tick (off + k)
    | _ => byteOf s (pa + k))

/-- The bytes from an address as an agent reads them, with those over them that its own external events still will write
(23 R368). -/
def seenBytes (s : State) (a : Agent) (pa n : Nat) : List Byte :=
  overlayEvents ((a.thread.map Thread.events).getD []) pa (presentBytes s pa n)

/-- A physical address that the access can reach as memory: no device register, no lost route (25 R388), no injection
waiting (23 R375). -/
structure Reachable (s : State) (pa : Nat) : Prop where
  memory : ∀ off, physKind pa ≠ .device off
  route : lostNode s pa = none
  quiet : s.proctor.finj.getLsbD 63 = false

/-- A thread outside a pair, with no external event. -/
def Solo (a : Agent) : Prop := ∀ t, a.thread = some t → t.isPaired = false ∧ t.events = []

/-- The registers after a load of n bytes with value v into rt (11 R172): 16 bytes go to rt and rt + 1, fewer are sign- or
zero-extended into rt. -/
structure LoadedInto (c c' : ScalarCtx) (rt : BitVec 5) (n : Nat) (signed : Bool) (v : Nat) : Prop where
  reg : ∀ r, c'.rd r =
    if n = 16 ∧ r = rt + 1 ∧ r ≠ 0 then wrap (v / 2 ^ 64 : Nat)
    else if r = rt ∧ r ≠ 0 then
      wrap (if signed = true ∧ 2 ^ (8 * n - 1) ≤ v then (v : Int) - 2 ^ (8 * n) else v)
    else c.rd r
  pc : c'.pc = c.pc + 4
  fflags : c'.fflags = c.fflags
  fmode : c'.fmode = c.fmode
  seed : c'.seed = c.seed

/-- A granule's state after a store (07 R111): a filling store fills; a poisoned granule keeps its poison unless it is
covered whole. -/
def granuleRule (fill whole : Bool) (g : BitVec 2) : BitVec 2 :=
  if g = 0b10 then (if !whole then 0b10 else if fill then 0b01 else 0b00) else if fill then 0b01 else g

/-- What a store of bytes at a physical address does to memory: the bytes, every other byte, and the granules of a
scratchpad it touches (07 R111). The caches and poison marks are those of one write (07 R118, R119, R131). -/
structure StoredAt (s t : State) (pa : Nat) (bs : List Byte) (fill : Bool) : Prop where
  bytes : ∀ k (h : k < bs.length), byteOf t (pa + k) = bs[k]
  others : BytesOutside s t pa bs.length
  granules : ∀ u, cellGet t.sys.granules u =
    (match physKind pa with
    | .scratch _ _ => if pa / 16 ≤ u ∧ u * 16 < pa + bs.length
        then granuleRule fill (decide (pa ≤ u * 16 ∧ u * 16 + 16 ≤ pa + bs.length)) (cellGet s.sys.granules u)
        else cellGet s.sys.granules u
    | _ => cellGet s.sys.granules u)
  sys : t.sys = storeBytes s.sys (lineShare s.proctor) pa bs fill

/-- `exec` completes a store: memory as `StoredAt`, the acting agent's PC advanced, nothing else changed. -/
def CompletesStore (i : Instr) (s : State) (c : ScalarCtx) (pa : Nat) (bs : List Byte) (fill : Bool) : Prop :=
  ∃ t, exec i s = .next t ∧ StoredAt s t pa bs fill ∧ SameSurroundings s t
    ∧ OnlyActor s t (fun x => { x with ctx := { c with pc := c.pc + 4 } }) (fun p => { p with ctx := { c with pc := c.pc + 4 } })

/-- The registers, sizes and orders of an atomic: rd, rs1, rs2, ORD, AS (11 R180); AMOLD has no rs2, AMOST no rd. -/
def atomicForm : Instr → Option (BitVec 5 × BitVec 5 × BitVec 5 × BitVec 2 × BitVec 2)
  | .amoswap rd rs1 rs2 _ ord asz => some (rd, rs1, rs2, ord, asz)
  | .amoadd rd rs1 rs2 _ ord asz => some (rd, rs1, rs2, ord, asz)
  | .amoand rd rs1 rs2 _ ord asz => some (rd, rs1, rs2, ord, asz)
  | .amoor rd rs1 rs2 _ ord asz => some (rd, rs1, rs2, ord, asz)
  | .amoxor rd rs1 rs2 _ ord asz => some (rd, rs1, rs2, ord, asz)
  | .amomin rd rs1 rs2 _ ord asz => some (rd, rs1, rs2, ord, asz)
  | .amomax rd rs1 rs2 _ ord asz => some (rd, rs1, rs2, ord, asz)
  | .amominu rd rs1 rs2 _ ord asz => some (rd, rs1, rs2, ord, asz)
  | .amomaxu rd rs1 rs2 _ ord asz => some (rd, rs1, rs2, ord, asz)
  | .amocas rd rs1 rs2 _ ord asz => some (rd, rs1, rs2, ord, asz)
  | .amold rd rs1 _ ord asz => some (rd, rs1, 0, ord, asz)
  | .amost rs1 rs2 _ ord asz => some (0, rs1, rs2, ord, asz)
  | _ => none

/-- The value that an atomic on w bits writes, none for no write, from the old value, v, and rd as read (11 R180). -/
def atomicTable {w : Nat} (old v cmp : BitVec w) : Instr → Option (BitVec w)
  | .amoswap .. => some v
  | .amoadd .. => some (old + v)
  | .amoand .. => some (old &&& v)
  | .amoor .. => some (old ||| v)
  | .amoxor .. => some (old ^^^ v)
  | .amomin .. => some (if old.toInt ≤ v.toInt then old else v)
  | .amomax .. => some (if old.toInt ≤ v.toInt then v else old)
  | .amominu .. => some (if old.toNat ≤ v.toNat then old else v)
  | .amomaxu .. => some (if old.toNat ≤ v.toNat then v else old)
  | .amocas .. => if old = cmp then some v else none
  | .amold .. => none
  | _ => some v

/-- The atomic has an order that releases or acquires, so that it waits until the thread's posted blocks are done (07 R124)
and a pair's events are performed (23 R369). -/
def orderMet (a : Agent) (ord : BitVec 2) : Prop :=
  ord.getLsbD 1 = true → ∀ t, a.thread = some t → vectorDone t = true

/-- The words of 8 bytes from a virtual address, each readable (11 R191, 21 R316). -/
def WordsAt (s : State) (a : Agent) (va : Nat) (ws : List Nat) : Prop :=
  ∀ k (h : k < ws.length), ∃ pa, translate s a.acc ((va + 8 * k) % 2 ^ 64) .read = .ok pa ∧ Reachable s pa
    ∧ poisonAt s.sys pa 8 = none ∧ ws[k] = leValue (seenBytes s a pa 8)

/-- A barrier object's sixteen bytes as one number (11 R182). -/
def barrierValue (arrv phase pend exp : Nat) : Nat := arrv + exp * 2 ^ 64 + pend * 2 ^ 96 + phase * 2 ^ 112

/-- A well-formed object (11 R182). -/
def BarrierOk (arrv phase pend exp : Nat) : Prop :=
  arrv < 2 ^ 64 ∧ phase < 2 ^ 16 ∧ exp ≤ 64 ∧ pend ≤ (List.range 64).countP (fun n => arrv.testBit n)
    ∧ (List.range 64).countP (fun n => arrv.testBit n) ≤ exp

/-- The object after an arrival of form index f (11 R183). -/
def arrivedValue (arrv phase pend exp f : Nat) (drop : Bool) : Nat :=
  let pend' := if drop then pend + 1 else pend
  if (List.range 64).countP (fun n => arrv.testBit n) + 1 = exp then barrierValue 0 ((phase + 1) % 2 ^ 16) 0 (exp - pend')
  else barrierValue (arrv + 2 ^ f) phase pend' exp

/-- A thread's counts of WAITC (11 R190): background loads, notifying stores, copies, tile operations. A shadow counts its lead's
jobs whose destination lies outside the window (23 R367), a paired member its copies that still wait for their match (R368). -/
def countsOf (s : State) (tid : Nat) (t : Thread) : Nat × Nat × Nat × Nat :=
  let jobs := fun (p : CopyJob → Prop) [DecidablePred p] => (s.fabric.copies.filter (fun j => decide (p j.2))).length
  let cp := jobs (fun j => j.own = ⟨tid, t.lnum, t.form⟩)
    + (match t.role with
      | .shadow lead => jobs (fun j => j.own = ⟨lead, t.lnum, t.form⟩ ∧ j.desc.dst < 0x00FFFFFFFF000000)
      | _ => 0)
    + (t.events.filter (fun e => decide (e.kind = 2))).length
  match t.group with
  | none => (0, 0, cp, 0)
  | some g => ((g.gathers.filter (fun x => decide (x.delivered = none))).length
      + (g.slots.filter (fun e => decide (e.2.run ≠ none))).length, g.notifies.length, cp, g.queue.length)

/-- Word 0 of a fault record (23 R347), most significant field first. -/
def recordHead (kind : BitVec 8) (vec ends shd : Bool) (tid edie : Nat) : BitVec 64 :=
  kind ++ BitVec.ofBool vec ++ BitVec.ofBool ends ++ BitVec.ofBool shd ++ 0#3 ++ BitVec.ofNat 2 (tid / 384)
    ++ BitVec.ofNat 3 (tid / 64 % 6) ++ BitVec.ofNat 3 (tid / 8 % 8) ++ BitVec.ofNat 3 (tid % 8) ++ BitVec.ofNat 2 edie ++ 0#37

/-- A copy descriptor's fields from its words (11 R191). -/
def descriptorOf (ws : List Nat) : CopyDesc :=
  let w := fun i => ws.getD i 0
  { src := w 0 % 2 ^ 56, dst := w 1 % 2 ^ 56, rows := w 2 / 2 ^ 32 % 2 ^ 32, rowLen := w 2 % 2 ^ 32,
    dpitch := (BitVec.ofNat 32 (w 3 / 2 ^ 32)).toInt, spitch := (BitVec.ofNat 32 (w 3)).toInt, stat := w 4 % 2 ^ 56,
    regions := (List.range (w 5 % 16)).map (fun i => regionOf (w (6 + 2 * i)) (w (7 + 2 * i))) }

/-- The value of a control register for the acting agent (09 R140; 03 R36, R44, R45, R55; 07 R99; 11 R196; 23 R357, R375);
what an agent that is no thread of a compute die has not reads zero. -/
def cregTable (s : State) (a : Agent) (creg : Nat) : Word :=
  match creg with
  | 0x000 => a.ctx.fflags.setWidth 64
  | 0x001 => a.ctx.fmode.setWidth 64
  | 0x002 => a.ctx.seed
  | 0x010 => match a.tid with
    | some tid => (s.core (tid / 8)).nxt ++ (s.core (tid / 8)).cur
    | none => 0xFFFFFFFFFFFFFFFF
  | 0x011 => match a.tid, a.thread with
    | some tid, some t => 0#52 ++ t.pend ++ BitVec.ofNat 4 (tid / 384) ++ t.att
    | _, _ => 0
  | 0x012 => match a.thread.bind Thread.group with
    | some g => vcpOf g
    | none => 0
  | 0x013 => match a.thread.bind Thread.group with
    | some g => g.core.vssn
    | none => 0
  | 0x020 => match a.tid with
    | some tid => s.cycle (tid / 384)
    | none => s.cycle 4
  | 0x030 => match a.thread with
    | some t => t.trbase
    | none => match s.actor with
      | .proctor k => ((s.pcore k).map ProctorCore.trbase).getD 0
      | _ => 0
  | 0x031 => match a.thread with
    | some t => t.satb
    | none => match s.actor with
      | .proctor k => ((s.pcore k).map ProctorCore.satb).getD 0
      | _ => 0
  | 0x032 => s.proctor.finj
  | _ => 0

/-- What a control-register instruction writes: rd, the register, and its new value from the old one, none for no write
(11 R195). -/
def cregForm (c : ScalarCtx) (old : Word) : Instr → Option (BitVec 5 × Nat × Option Word)
  | .csrr rd r => some (rd, r.toNat, none)
  | .csrw rd rs1 r => some (rd, r.toNat, some (c.rd rs1))
  | .csrs rd rs1 r => some (rd, r.toNat, if rs1 = 0 then none else some (old ||| c.rd rs1))
  | .csrc rd rs1 r => some (rd, r.toNat, if rs1 = 0 then none else some (old &&& ~~~ c.rd rs1))
  | _ => none

/-- The registers after a write of FFLAGS, FMODE or SEED (05 R83, R85; 11 R195). -/
def wroteCreg (c : ScalarCtx) (creg : Nat) (v : Word) : ScalarCtx :=
  match creg with
  | 0 => { c with fflags := v.setWidth 7 }
  | 1 => { c with fmode := v.setWidth 3 }
  | _ => { c with seed := v }

/-- A pigeonhole's status word (07 R114). -/
def statusOf (h : Hole) : Word :=
  BitVec.ofBool h.frz ++ 0#14 ++ h.gen ++ BitVec.ofNat 9 h.count ++ 0#8 ++ BitVec.ofNat 8 h.head
    ++ BitVec.ofNat 8 h.tail ++ BitVec.ofNat 8 (h.depth - 1)

/-- A free-slot counter's parity bit makes the number of ones even (07 R116). -/
def evenParity (n : Nat) : Bool := (List.range 9).countP (fun i => n.testBit i) % 2 == 1

/-- A pigeonhole as QCFG leaves it (11 R187, 07 R116). -/
def configuredHole (o : Owner) (c : HoleConfig) (gen : BitVec 8) : Hole :=
  { owner := some o, base := c.base, depth := c.depth, head := 0, tail := 0, count := 0, ps := 0, tk := 0, notify := 0,
    gen := gen + 1, frz := false, remote := c.remote, cause := none, inj := false,
    counter := match c.remote with
      | none => none
      | some _ => some { cnt := c.depth, parity := evenParity c.depth, eseq := 0, gen := (gen + 1).toNat } }

/-- The 64 bytes at a virtual address, in four readable pieces (11 R187). -/
def Readable64 (s : State) (a : Agent) (va : Nat) (bs : List Byte) : Prop :=
  bs.length = 64 ∧ ∀ k, k < 4 → ∃ pa, translate s a.acc (va + 16 * k) .read = .ok pa ∧ Reachable s pa
    ∧ poisonAt s.sys pa 16 = none ∧ (bs.drop (16 * k)).take 16 = seenBytes s a pa 16

/-- 64 bytes at a virtual address can be written, at one physical run, by a translation that memory does not decide: an
address of the scratchpad window, or one whose leaf a TLB holds (07 R97, R104; 11 R187). -/
def Writable64 (s : State) (a : Agent) (va pa : Nat) : Prop :=
  ∀ k, k < 4 → Reachable s (pa + 16 * k) ∧ ∀ sys : MemSys, sys.tlb1 = s.sys.tlb1 → sys.tlb2 = s.sys.tlb2 →
    translate { s with sys := sys } a.acc (va + 16 * k) .write = .ok (pa + 16 * k)

/-- A handle's bits: die, cluster, number (11 R186). -/
def handleBits (die clu num : Nat) : Nat := die * 2 ^ 9 + clu * 2 ^ 6 + num

/-- A configuration word's bits: a remote producer's die, cluster, core and slot, the base, the depth (11 R186). -/
def configBits (remote : Option (Nat × Nat × Nat × Nat)) (base depth : Nat) : Nat :=
  (match remote with
    | none => 0
    | some (d, c, k, sl) => 2 ^ 63 + d * 2 ^ 51 + c * 2 ^ 48 + k * 2 ^ 45 + sl * 2 ^ 42) + base * 2 ^ 8 + (depth - 1)

/-- A configuration that 11 R186 allows for a pigeonhole of a cluster (numbered 6 times the die plus c). -/
def ConfigOk (cluster : Nat) (remote : Option (Nat × Nat × Nat × Nat)) (base depth : Nat) : Prop :=
  base % 64 = 0 ∧ base < 2 ^ 24 ∧ 1 ≤ depth ∧ depth ≤ 256
    ∧ ∀ d c k sl, remote = some (d, c, k, sl) → d < 4 ∧ c < 6 ∧ k < 8 ∧ sl < 8 ∧ d * 6 + c ≠ cluster

/-- The aperture address of a slot of a pigeonhole (07 R98, R114). -/
def entryAddress (cluster : Nat) (h : Hole) (i : Nat) : Nat :=
  0x100000000000 + cluster / 6 * 2 ^ 28 + cluster % 6 * 2 ^ 24 + (h.base + 64 * i) % 2 ^ 24

/-- The pigeonholes but for one, and everything else of the fabric but for `returns` new ones in flight, are as they were. -/
structure OnlyHole (s u : State) (n : Nat) (returns : List SlotReturn) : Prop where
  holes : ∀ m, m ≠ n → u.hole m = s.hole m
  fabric : { u.fabric with holes := s.fabric.holes } = { s.fabric with returns := s.fabric.returns ++ returns }
  rest : SameSurroundings s { u with fabric := s.fabric }

end Sys2Proof.Safety
end

