-- ==== Sys2Proof/Safety/Vector.lean ====
section
/-! DEFINITION. Vector instructions as chapter 15 sets them out: when nothing stands before one, what its result changes and leaves, and its values, for claims to compare the machine with. -/

namespace Sys2Proof.Safety

open Sys2Proof.Machine

/-- Nothing stands before the instruction: no outstanding array operation holds a register that it names (17 R272), none of its
registers is bound to a stream or has a delivery to take (13 R216, R218), and the slab multipliers are free and in vector mode
(15 R233, 17 R285). -/
structure Ready (s : State) (tid : Nat) (v : VCtx) (i : Instr) : Prop where
  actor : s.actor = .sequencer tid
  ctx : vctx s tid = some v
  queue : v.g.queue = []
  recessed : chainClass i = some 1 → v.g.quiesce = false
  am : chainClass i = some 1 → v.g.core.am = 0
  unbound : ∀ r, r ∈ vreads i ∨ r ∈ vwrites i → tableGet r v.g.core.streams = none
  taken : ∀ r, r ∈ vreads i ∨ r ∈ vwrites i → ∀ x ∈ v.g.gathers, x.reg = r → r ∈ v.g.core.gread
  unmarked : ∀ r, r ∈ vreads i → ∀ m ∈ v.g.core.gmark, m.1 ≠ r

/-- The lanes of the parts are lanes of their cores, as many in each part, on different cores; cells and tags are in order. -/
structure Placed (s : State) (v : VCtx) : Prop where
  lanes : ∀ p ∈ v.parts, p.lanes = v.lanes ∧ p.base + p.lanes ≤ 256
  apart : v.parts.Pairwise (fun p q => p.core ≠ q.core)
  vregs : cellsWf s.lanes.vregs = true
  masks : cellsWf s.lanes.masks = true
  slices : cellsWf s.lanes.slices = true
  tags : keysRise v.g.core.tags = true

/-- Room in the strip's account for registers (03 R49); a paired member's closed strips hold none. -/
def HasRoom (v : VCtx) (regs : List Nat) : Prop :=
  v.g.closed = [] ∧ ∀ st, v.g.strip = some st → (regs.foldl (fun ws r => setAdd r ws) st.written).length ≤ 16

/-- A cell of a register in the group's own lanes. -/
def ownCell (v : VCtx) (reg key : Nat) : Prop :=
  ∃ p ∈ v.parts, key / 16384 = p.core ∧ key / 256 % 64 = reg ∧ p.base ≤ key % 256 ∧ key % 256 < p.base + p.lanes

/-- The thread after an instruction that leaves `core`, has written these registers, raised these flags (held by an open strip,
at once in FFLAGS outside one: 03 R48) and, where it counts, performed roundings under rsr (05 R81). -/
def afterVector (v : VCtx) (core : GroupCore) (regs : List Nat) (g : Flags) (counts : Bool) : Thread :=
  { v.t with
    ctx := if v.g.strip = none then { v.t.ctx with fflags := v.t.ctx.fflags ||| g } else v.t.ctx
    group := some { v.g with core := core, strip := v.g.strip.map (fun st => { st with
      written := regs.foldl (fun ws r => setAdd r ws) st.written, flags := st.flags ||| g,
      k := if counts then st.k + 1 else st.k }) } }

/-- Only the thread v names and the lanes may differ: no byte of memory, no granule, no other thread, no special register. -/
structure OnlyGroup (s t : State) (v : VCtx) (x : Thread) : Prop where
  rest : SameSurroundings s { t with lanes := s.lanes }
  sys : t.sys = s.sys
  proctor : t.proctor = s.proctor
  threads : ∀ j, t.thread j = if j = v.tid then some x else s.thread j

/-- `exec` completes and changes the group alone. -/
def GroupBecomes (i : Instr) (s : State) (v : VCtx) (f : Group → Group) : Prop :=
  ∃ t, exec i s = .next t ∧ OnlyGroup s t v { v.t with group := some (f v.g) } ∧ t.lanes = s.lanes

/-- No seating change waits on a core, and each of its groups has the blocks that CUR gives its slot (03 R36, R39). -/
structure SeatsSettled (s : State) (core : Nat) : Prop where
  chart : (s.core core).nxt = (s.core core).cur
  runs : ∀ k g, k < 8 → s.group (core * 8 + k) = some g → chartRun (s.core core).cur k = (g.block0, g.nblk)

/-- The group with its sequencer at an address, its w registers as given. -/
def atPc (pc : Word) (g : Group) : Group := { g with core := { g.core with pc := pc } }

/-- `exec` completes with `x` in a w register and the sequencer at the next instruction. -/
def WritesW (i : Instr) (s : State) (v : VCtx) (r : BitVec 6) (x : Word) : Prop :=
  GroupBecomes i s v (fun g => { g with core := { g.core with pc := v.iaddr + 8, w := g.core.w.setIfInBounds r.toNat x } })

/-- The vector instruction waits before every effect (11 R167). -/
def VectorWaits (i : Instr) (s : State) (v : VCtx) : Prop := GroupBecomes i s v (fun g => { g with waiting := some i })

/-- The vector instruction takes a fault, which rolls its strip back (03 R50, 23 R350). -/
def VectorFaults (i : Instr) (s : State) (v : VCtx) (kind : Nat) (d : List Nat) : Prop :=
  exec i s = .next (deliverFault s v.tid true (faultOf kind d))

/-- The registers that new elements name; no element, no register (03 R49). -/
def writtenRegs (news : List (Nat × List (Nat × Nat))) : List Nat := (news.filter (fun n => !n.2.isEmpty)).map Prod.fst

/-- The state after an instruction whose results are elements of registers (15 R236, 13 R201) and that leaves `core` but for the
sequencer's address: each register with its new elements at width w; every other element of them, every other register, mask and
lane slice as before; the strip's account, the flags and the satchel tags (23 R358) brought up to date, nothing else changed. -/
structure WroteInto (s t : State) (v : VCtx) (core : GroupCore) (w : Nat) (news : List (Nat × List (Nat × Nat))) (g : Flags)
    (counts : Bool) : Prop where
  elems : ∀ n ∈ news, ∀ e, e < v.avail w →
    v.get t n.1 w e = (match n.2.lookup e with
      | some x => x % 2 ^ w
      | none => v.get s n.1 w e)
  cells : ∀ k, (∀ n ∈ news, ¬ ownCell v n.1 k) → cellGet t.lanes.vregs k = cellGet s.lanes.vregs k
  masks : t.lanes.masks = s.lanes.masks
  slices : t.lanes.slices = s.lanes.slices
  group : ∃ tags marks, OnlyGroup s t v
      (afterVector v { core with pc := v.iaddr + 8, tags := tags, gmark := marks }
        (writtenRegs news) g counts)
    ∧ (∀ n ∈ news, ∀ e x p l pos, (e, x) ∈ n.2 → v.place w e = some (p, l, pos) →
        ∃ vb, tableGet (p.die * 64 + n.1) tags = some (vb, true) ∧ pos * w + w ≤ 64 * vb)
    ∧ (∀ m, m ∈ marks ↔ m ∈ v.g.core.gmark ∧ ∀ n ∈ news, ¬ (n.1 = m.1 ∧ ∃ x, (m.2.1, x) ∈ n.2))

/-- The same of an instruction that changes nothing else of the vector side than elements of registers. -/
abbrev WroteElements (s t : State) (v : VCtx) (w : Nat) (news : List (Nat × List (Nat × Nat))) (g : Flags) (counts : Bool) : Prop :=
  WroteInto s t v v.g.core w news g counts

/-- The state after an instruction whose result is bits of a mask register, m0 taking none (00 R8), and that leaves the thread
as `x`. -/
structure WroteMaskInto (s t : State) (v : VCtx) (x : Thread) (w m : Nat) (bits : List (Nat × Bool)) : Prop where
  bits : ∀ e, (e < v.avail w ∨ v.parts.length = 1 ∧ e < 64 * v.lanes) → v.mask t w m e = (if m = 0 then true else (bits.lookup e).getD (v.mask s w m e))
  cells : ∀ k, ¬ (m ≠ 0 ∧ ∃ p ∈ v.parts, k / 2048 = p.core ∧ k / 256 % 8 = m ∧ p.base ≤ k % 256 ∧ k % 256 < p.base + p.lanes) →
    cellGet t.lanes.masks k = cellGet s.lanes.masks k
  vregs : t.lanes.vregs = s.lanes.vregs
  slices : t.lanes.slices = s.lanes.slices
  group : OnlyGroup s t v x

/-- The same of an instruction that changes nothing else of the vector side but flags. -/
abbrev WroteMask (s t : State) (v : VCtx) (w m : Nat) (bits : List (Nat × Bool)) (g : Flags) : Prop :=
  WroteMaskInto s t v (afterVector v { v.g.core with pc := v.iaddr + 8 } [] g false) w m bits

/-- The active elements of an instruction of width w, in order (13 R201, 09 R144, 03 R59): the mask it names, as ME asks, and the
fragment mask. -/
def actives (s : State) (v : VCtx) (f : VFields) (w : Nat) : List Nat :=
  (List.range v.vl).filter (fun e => (f.msk == 0 || v.mask s w f.msk.toNat e == f.me) && v.g.core.frag.getLsbD e)

/-! Values. -/

/-- An integer of n bits read by its signedness (15 R236). -/
def valueIn (sg : Bool) (n x : Nat) : Int := if sg = true ∧ 2 ^ (n - 1) ≤ x then (x : Int) - 2 ^ n else x

/-- The low n bits of an exact integer. -/
def lowIn (n : Nat) (x : Int) : Nat := (x % 2 ^ n).toNat

/-- An exact integer clipped to the range of its type, with IS when it clips (00 R7). -/
def clipIn (sg : Bool) (n : Nat) (x : Int) : Nat × Flags :=
  let lo : Int := if sg then -(2 ^ (n - 1)) else 0
  let hi : Int := if sg then 2 ^ (n - 1) - 1 else 2 ^ n - 1
  if x < lo then (lowIn n lo, fIS) else if hi < x then (lowIn n hi, fIS) else (lowIn n x, 0)

/-- Op of 15 R236 on floating elements; the operations on encodings are those of 05 R76 to R79. -/
def floatOp (g : FType) (r : Rounding) (x y z : Nat) : Instr → Option (Nat × Flags)
  | .vadd _ => some (fAdd g r x y)
  | .vsub _ => some (fSub g r x y)
  | .vmul _ => some (fMul g r x y)
  | .vfma _ => some (fFma g r false false x y z)
  | .vfms _ => some (fFma g r false true x y z)
  | .vfnma _ => some (fFma g r true true x y z)
  | .vfnms _ => some (fFma g r true false x y z)
  | .vdiv _ => some (fDiv g r x y)
  | .vmin _ => some (fMinMax g false x y)
  | .vmax _ => some (fMinMax g true x y)
  | .vabs _ => some (x % 2 ^ (g.bits - 1), 0)
  | .vneg _ => some (if 2 ^ (g.bits - 1) ≤ x then x - 2 ^ (g.bits - 1) else x + 2 ^ (g.bits - 1), 0)
  | .vsqrt _ => some (fSqrt g r x)
  | .vmov _ => some (y, 0)
  | _ => none

/-- Op of 15 R236 on integer elements of n bits. -/
def integerOp (sg : Bool) (n x y z : Nat) : Instr → Option (Nat × Flags)
  | .vadd _ => some ((x + y) % 2 ^ n, 0)
  | .vsub _ => some (lowIn n (x - y), 0)
  | .vmul _ => some (x * y % 2 ^ n, 0)
  | .vfma _ => some ((x * y + z) % 2 ^ n, 0)
  | .vfms _ => some (lowIn n (x * y - z), 0)
  | .vmin _ => some (if valueIn sg n x ≤ valueIn sg n y then x else y, 0)
  | .vmax _ => some (if valueIn sg n x ≤ valueIn sg n y then y else x, 0)
  | .vabs _ => some (lowIn n (if valueIn true n x < 0 then -(valueIn true n x) else valueIn true n x), 0)
  | .vneg _ => some ((2 ^ n - x) % 2 ^ n, 0)
  | .vmulh _ => some (lowIn n (valueIn sg n x * valueIn sg n y / 2 ^ n), 0)
  | .vsadd _ => some (clipIn sg n (valueIn sg n x + valueIn sg n y))
  | .vssub _ => some (clipIn sg n (valueIn sg n x - valueIn sg n y))
  | .vand _ => some (x &&& y, 0)
  | .vor _ => some (x ||| y, 0)
  | .vxor _ => some (x ^^^ y, 0)
  | .vshl _ => some (if n ≤ y then 0 else x * 2 ^ y % 2 ^ n, 0)
  | .vshr _ => some (lowIn n (if n ≤ y then (if valueIn sg n x < 0 then -1 else 0) else valueIn sg n x / 2 ^ y), 0)
  | .vclz _ => some (((List.range n).find? (fun k => x.testBit (n - 1 - k))).getD n, 0)
  | .vpopc _ => some ((List.range n).countP (fun k => x.testBit k), 0)
  | .vmov _ => some (y, 0)
  | _ => none

/-- Whether the operation rounds, so that it counts in k under rsr (05 R81, 15 R232). -/
def roundsOp : Instr → Bool
  | .vadd _ | .vsub _ | .vmul _ | .vfma _ | .vfms _ | .vfnma _ | .vfnms _ | .vdiv _ | .vsqrt _ => true
  | _ => false

/-- The second source of 15 R234 at an element: a vector register, the low bits of a w register, or the immediate, extended by SG
and cut to the width. -/
def secondSource (s : State) (v : VCtx) (f : VFields) (w e : Nat) : Nat :=
  let imm := f.fn.toNat % 2 ^ 16
  match f.fn.toNat / 2 ^ 21 % 4 with
  | 0 => v.get s f.vs2.toNat w e
  | 1 => (v.w f.vs2).toNat % 2 ^ w
  | _ => if f.fn.toNat / 2 ^ 23 % 2 = 1 then lowIn w (valueIn true 16 imm) else imm % 2 ^ w

/-- Op of 15 R236 at an element, and VIDX's of R237. -/
def elementOp (s : State) (v : VCtx) (f : VFields) (e : Nat) (i : Instr) : Option (Nat × Flags) :=
  let t := elemTypeOf f
  let x := v.get s f.vs1.toNat t.width e % 2 ^ t.bits
  let y := secondSource s v f t.width e % 2 ^ t.bits
  let z := v.get s f.vs3.toNat t.width e % 2 ^ t.bits
  match i with
  | .vsel _ => some (if v.mask s t.width f.vs3.toNat e then x else y, 0)
  | .vidx _ => some (((v.w f.vs1).toNat + e) % 2 ^ t.width, 0)
  | _ => match t with
    | .flt g => floatOp g (v.rounding (v.rmo f) e 0) x y z i
    | .int sg n => integerOp sg n x y z i

/-- The conversion of VCVT between types (15 R238; 05 R77, R79). -/
def convertOp (src dst : ElemType) (sat : Bool) (r : Rounding) (x : Nat) : Nat × Flags :=
  match src, dst with
  | .flt a, .flt b => fConv a b r x
  | .int sg n, .flt b => roundVal b r (FVal.ofInt (valueIn sg n (x % 2 ^ n)))
  | .flt a, .int sg n => fToInt a sg n r x
  | .int sg n, .int sg' n' => if sat then clipIn sg' n' (valueIn sg n (x % 2 ^ n)) else (lowIn n' (valueIn sg n (x % 2 ^ n)), 0)

/-- Flags of results joined. -/
def joined {α : Type} (rs : List (α × Flags)) : Flags := rs.foldl (fun g r => g ||| r.2) 0

/-- The condition of VCMP (15 R239) on integers. -/
def compares (cc : Nat) (x y : Int) : Bool :=
  match cc with
  | 0 => x == y
  | 1 => x != y
  | 2 => decide (x < y)
  | 3 => decide (x ≤ y)
  | 4 => decide (x > y)
  | 5 => decide (x ≥ y)
  | _ => false

/-- The condition of VCMP at an element (15 R239). -/
def compareOp (s : State) (v : VCtx) (f : VFields) (e : Nat) : Bool × Flags :=
  let t := elemTypeOf f
  let cc := f.fn.toNat / 2 ^ 16 % 16
  let x := v.get s f.vs1.toNat t.width e % 2 ^ t.bits
  let y := secondSource s v f t.width e % 2 ^ t.bits
  match t with
  | .flt g => fCmp g cc x y
  | .int sg n => (compares cc (valueIn sg n x) (valueIn sg n y), 0)

/-- The local element k of a source in the block of die position p; zero bits past the block (15 R243). -/
def blockElement (s : State) (v : VCtx) (f : VFields) (reg : BitVec 6) (p k : Nat) : Nat :=
  let t := elemTypeOf f
  let vm := v.vmax t.width
  if k < vm ∧ p * vm + k < v.vl then v.get s reg.toNat t.width (p * vm + k) % 2 ^ t.bits else 0

/-- The result of a permute at an active element (15 R244, R246). -/
def permuteOp (s : State) (v : VCtx) (f : VFields) (e : Nat) : Instr → Option Nat
  | .vperm _ => let p := e / v.vmax (elemTypeOf f).width; some (blockElement s v f f.vs1 p (v.get s f.vs2.toNat 32 e))
  | .vslideup _ =>
    let vm := v.vmax (elemTypeOf f).width
    some (if v.slideCount f ≤ e % vm then blockElement s v f f.vs1 (e / vm) (e % vm - v.slideCount f) else 0)
  | .vslidedn _ =>
    let vm := v.vmax (elemTypeOf f).width
    some (blockElement s v f f.vs1 (e / vm) (e % vm + v.slideCount f))
  | .vbcast _ => some (blockElement s v f f.vs1 (e / v.vmax (elemTypeOf f).width) (v.slideCount f))
  | .vzip _ =>
    let vm := v.vmax (elemTypeOf f).width
    let lb := min vm (v.vl - e / vm * vm)
    let h := f.fn.toNat / 2 ^ 16 % 2
    some (blockElement s v f (if e % vm % 2 = 0 then f.vs1 else f.vs2) (e / vm) (e % vm / 2 + h * (lb / 2)))
  | .vunzip _ =>
    let vm := v.vmax (elemTypeOf f).width
    let lb := min vm (v.vl - e / vm * vm)
    let j := 2 * (e % vm) + f.fn.toNat / 2 ^ 16 % 2
    some (if j < lb then blockElement s v f f.vs1 (e / vm) j else blockElement s v f f.vs2 (e / vm) (j - lb))
  | _ => none

/-- The number of active elements before element e in its die block (15 R245). -/
def activeBefore (s : State) (v : VCtx) (f : VFields) (e : Nat) : Nat :=
  let w := (elemTypeOf f).width
  ((actives s v f w).filter (fun j => decide (j / v.vmax w = e / v.vmax w ∧ j < e))).length

/-- Op and identity of a reduction (15 R249). -/
def reductionOp (t : ElemType) (m : RoundMode) : Instr → Option ((Nat → Nat → Nat × Flags) × Nat)
  | .vredsum _ => match t with
    | .flt g => some (fAdd g ⟨m.noRsr, 0⟩, 0)
    | .int _ n => some (fun a b => ((a + b) % 2 ^ n, 0), 0)
  | .vredmax _ => match t with
    | .flt g => some (fMinMax g true, g.inf true)
    | .int sg n => some (fun a b => (if valueIn sg n a ≤ valueIn sg n b then b else a, 0), if sg then 2 ^ (n - 1) else 0)
  | .vredmin _ => match t with
    | .flt g => some (fMinMax g false, g.inf false)
    | .int sg n => some (fun a b => (if valueIn sg n a ≤ valueIn sg n b then a else b, 0), if sg then 2 ^ (n - 1) - 1 else 2 ^ n - 1)
  | .vredand _ => match t with
    | .flt _ => none
    | .int _ n => some (fun a b => (a &&& b, 0), 2 ^ n - 1)
  | .vredor _ => match t with
    | .flt _ => none
    | .int _ _ => some (fun a b => (a ||| b, 0), 0)
  | _ => none

/-- Row k of VL elements in rows of r (15 R249). -/
def rowOf (vl r k : Nat) : List Nat := (List.range vl).filter (fun e => decide (e / r = k))

/-- The number of rows. -/
def rowCount (vl r : Nat) : Nat := if r = 0 then 0 else (vl + r - 1) / r

/-- The row length of layout D: ROW, or VL when it is 0. -/
def rowLength (v : VCtx) (f : VFields) : Nat := if f.fn.toNat % 2 ^ 16 = 0 then v.vl else f.fn.toNat % 2 ^ 16

/-- The result of a VWALU operation on a and the second operand (15 R260). -/
def waluTable (a b : Word) : Instr → Option Word
  | .vwaluAdd _ => some (a + b)
  | .vwaluSub _ => some (a - b)
  | .vwaluAnd _ => some (a &&& b)
  | .vwaluOr _ => some (a ||| b)
  | .vwaluXor _ => some (a ^^^ b)
  | .vwaluSll _ => some (wrap (a.toNat * 2 ^ (b.toNat % 64)))
  | .vwaluSrl _ => some (wrap (a.toNat / 2 ^ (b.toNat % 64)))
  | .vwaluSra _ => some (wrap (a.toInt / 2 ^ (b.toNat % 64)))
  | .vwaluSlt _ => some (if a.toInt < b.toInt then 1 else 0)
  | .vwaluSltu _ => some (if a.toNat < b.toNat then 1 else 0)
  | .vwaluMul _ => some (wrap (a.toNat * b.toNat))
  | .vwaluMin _ => some (if a.toInt ≤ b.toInt then a else b)
  | .vwaluMax _ => some (if a.toInt ≤ b.toInt then b else a)
  | .vwaluMinu _ => some (if a.toNat ≤ b.toNat then a else b)
  | .vwaluMaxu _ => some (if a.toNat ≤ b.toNat then b else a)
  | _ => none

/-- The second operand of VWALU (15 R260): w[VS2], or the immediate, zero-extended for and, or and xor. -/
def waluSecond (v : VCtx) (f : VFields) : Instr → Word
  | .vwaluAnd _ | .vwaluOr _ | .vwaluXor _ =>
    if f.fn.toNat / 2 ^ 18 % 2 = 1 then BitVec.ofNat 64 (f.fn.toNat % 2 ^ 18) else v.w f.vs2
  | _ => if f.fn.toNat / 2 ^ 18 % 2 = 1 then wrap (valueIn true 18 (f.fn.toNat % 2 ^ 18)) else v.w f.vs2

end Sys2Proof.Safety
end

