-- ==== Sys2Proof/Safety/VectorMemory.lean ====
section
/-! DEFINITION. Vector accesses to memory as chapter 13 sets them out: addresses of elements, stored encodings, what joins the strip store buffer, and what vector control flow does, for claims to compare the machine with. -/

namespace Sys2Proof.Safety

open Sys2Proof.Machine

/-! Control flow. -/

/-- `exec` completes a branch: the sequencer goes on at the target where the condition holds, else at the next instruction,
and nothing else changes. -/
def Branches (i : Instr) (s : State) (v : VCtx) (p : Prop) (target : Word) : Prop :=
  (p → GroupBecomes i s v (atPc target)) ∧ (¬ p → GroupBecomes i s v (atPc (v.iaddr + 8)))

/-- The condition of VJMP (15 R256), none for a code that it does not define. -/
def jumpHolds (cc : Nat) (a b : Word) : Prop :=
  match cc with
  | 0 => True
  | 1 => a.toNat = b.toNat
  | 2 => a.toNat ≠ b.toNat
  | 3 => a.toInt < b.toInt
  | 4 => b.toInt ≤ a.toInt
  | 5 => a.toNat < b.toNat
  | 6 => b.toNat ≤ a.toNat
  | _ => False

/-! Held effects. -/

/-- An open strip with room in its store buffer (03 R49); a paired member's closed strips hold none. -/
def RoomFor (v : VCtx) (st : Strip) (n : Nat) : Prop :=
  v.g.strip = some st ∧ v.g.closed = [] ∧ storedBytes st.effects + n ≤ 256 * v.lanes * v.parts.length

/-- The group after an instruction whose effects join its open strip (03 R48). -/
def heldGroup (v : VCtx) (core : GroupCore) (st : Strip) (es : List Effect) (g : Flags) (counts : Bool) : Group :=
  { v.g with
    core := { core with pc := v.iaddr + 8 }
    strip := some { st with effects := st.effects ++ es, flags := st.flags ||| g, k := if counts then st.k + 1 else st.k } }

/-- `exec` completes with these effects and flags held by the strip, and memory, registers and everything else as before. -/
def Holds (i : Instr) (s : State) (v : VCtx) (st : Strip) (es : List Effect) (g : Flags) (counts : Bool) : Prop :=
  GroupBecomes i s v (fun _ => heldGroup v v.g.core st es g counts)

/-! Memory as the vector stream reads it. -/

/-- A byte with the strip's own stores over it (03 R48, 13 R210). -/
def overStrip (v : VCtx) (a : Nat) (b : Byte) : Byte := v.g.visible.foldl (fun b e => overByte e a b) b

/-- The n bytes at an address as the group's loads read them, as a number, lowest first. -/
def seenNumber (s : State) (v : VCtx) (a n : Nat) : Nat := leValue ((presentBytes s a n).mapIdx (fun k b => overStrip v (a + k) b))

/-- No injection waits (23 R375), so that accesses touch no unit. -/
def quiet (s : State) : Prop := s.proctor.finj.getLsbD 63 = false

/-- n bytes at a physical address can be read: a route (25 R388) and no poison (07 R131). -/
def Usable (s : State) (pa n : Nat) : Prop := lostNode s pa = none ∧ poisonAt s.sys pa n = none

/-- The numbers of n bytes each from a virtual address on, each read outside any element (13 R203). -/
def WordsRead (s : State) (v : VCtx) (va n : Nat) (ws : List Nat) : Prop :=
  va % n = 0 ∧ ∀ k (h : k < ws.length), ∃ pa, translate s (vecAccessor s v v.home) ((va + n * k) % 2 ^ 64) .read = .ok pa
    ∧ Usable s pa n ∧ ws[k] = seenNumber s v pa n

/-- Numbers of n bits each, lowest first, as one. -/
def joinNumbers (n : Nat) (ws : List Nat) : Nat := ws.foldr (fun w x => w + 2 ^ n * x) 0

/-! Elements in memory. -/

/-- The form of a load, of a store. -/
def loadOf : Instr → Option (VFields × MemForm)
  | .vld f => some (f, .unit)
  | .vlds f => some (f, .strided)
  | .vldx f => some (f, .indexed)
  | _ => none

def storeOf : Instr → Option (VFields × MemForm)
  | .vst f => some (f, .unit)
  | .vsts f => some (f, .strided)
  | .vstx f => some (f, .indexed)
  | _ => none

/-- The stored type of an access that MFMT governs (13 R204). -/
def storedType (m : Word) (f : VFields) : ElemType :=
  if m.getLsbD 4 then typeOf (m.toNat % 16) (m.toNat / 2 ^ 5 % 2) else elemTypeOf f

/-- The stored width in bits: a 6-bit encoding takes a byte unless PK6 is set (13 R209). -/
def storedWidth (m : Word) (f : VFields) : Nat :=
  if (storedType m f).bits = 6 ∧ m.getLsbD 8 = false then 8 else (storedType m f).bits

/-- SCL of MFMT (13 R200). -/
def scaleOf (m : Word) : Int := valueIn true 8 (m.toNat / 2 ^ 16 % 2 ^ 8)

/-- A conversion of 13 R208 between two different types, with a power of two between floating ones. -/
def storedConvert (m : Word) (src dst : ElemType) (n : Int) (r : Rounding) (x : Nat) : Nat × Flags :=
  match src, dst with
  | .flt a, .flt b => roundVal b r ((a.value x).scale n)
  | _, _ => convertOp src dst (m.getLsbD 9) r x

/-- What a load puts in the register for stored bits x, and a store in memory for an element y (13 R208). -/
def loadValue (m : Word) (f : VFields) (r : Rounding) (x : Nat) : Nat × Flags :=
  if storedType m f = elemTypeOf f then (x % 2 ^ (elemTypeOf f).bits, 0)
  else storedConvert m (storedType m f) (elemTypeOf f) (scaleOf m) r x

def storeValue (m : Word) (f : VFields) (r : Rounding) (y : Nat) : Nat × Flags :=
  if storedType m f = elemTypeOf f then (y % 2 ^ (elemTypeOf f).bits, 0)
  else storedConvert m (elemTypeOf f) (storedType m f) (-(scaleOf m)) r y

/-- The conversion rounds, so that it counts in k under rsr (05 R81). -/
def convertRounds (m : Word) (f : VFields) : Bool :=
  storedType m f != elemTypeOf f && ((storedType m f).isFloat || (elemTypeOf f).isFloat)

/-- MFMT is one that VSETMF writes, and the access may use it (13 R208, R209). -/
def FormatOk (m : Word) (f : VFields) (form : MemForm) : Prop :=
  mfmtIllegal m = false
    ∧ (scaleOf m ≠ 0 → (storedType m f).isFloat = true ∧ (elemTypeOf f).isFloat = true)
    ∧ (storedWidth m f < 8 → form = .unit)

/-- The index of an element for IW (13 R206, R210). -/
def indexOf (s : State) (v : VCtx) (reg : BitVec 6) (iw e : Nat) : Int :=
  match iw with
  | 0 => valueIn true 32 (v.get s reg.toNat 32 e)
  | 2 => (v.get s reg.toNat 64 e : Nat)
  | _ => (v.get s reg.toNat 32 e : Nat)

/-- The width of the index register of a form, as 13 R202 asks for it. -/
def indexFits (v : VCtx) (iw : Nat) : Prop := v.vl ≤ v.avail (if iw = 2 then 64 else 32)

/-- S of 13 R210 in bytes. -/
def bytesFor (bits : Nat) : Nat := if bits < 8 then 1 else bits / 8

/-- The address of element e (13 R210), with the bit of its first byte at which a packed element starts (R209). -/
def elementPlace (s : State) (v : VCtx) (f : VFields) (form : MemForm) (e : Nat) : Int × Nat :=
  let bits := storedWidth v.g.core.mfmt f
  let a : Int := (v.w f.vs1).toNat + valueIn true 16 (f.fn.toNat % 2 ^ 16)
  match form with
  | .unit => if bits < 8 then (a + (bits * e / 8 : Nat), bits * e % 8) else (a + (e * bytesFor bits : Nat), 0)
  | .strided => (a + e * (v.w f.vs2).toInt, 0)
  | .indexed =>
    (a + indexOf s v f.vs2 (f.fn.toNat / 2 ^ 17 % 4) e * (if f.fn.toNat / 2 ^ 16 % 2 = 1 then (bytesFor bits : Int) else 1), 0)

/-- Where an access of element e of a width meets memory: the physical addresses of its bytes, or of its single aligned run
of them, each translated as the element's lane does (13 R203), in the window where the form asks for it (R211). -/
def ElementAt (s : State) (v : VCtx) (k : Access) (w : Nat) (window : Bool) (bits : Nat) (x : Int × Nat) (e : Nat)
    (pas : List Nat) : Prop :=
  let n := bytesFor bits
  pas.length = (if n = 1 then (x.2 + bits + 7) / 8 else 1)
    ∧ ∀ j (h : j < pas.length), let va := ((x.1 + j) % 2 ^ 64).toNat
        va % n = 0 ∧ (window = true → 0x00FFFFFFFF000000 ≤ va) ∧ translate s (v.accessor s w e) va k = .ok pas[j]

/-- The stored bits of an element. -/
def elementBits (s : State) (v : VCtx) (bits : Nat) (x : Int × Nat) (pas : List Nat) : Nat :=
  joinNumbers (8 * bytesFor bits) (pas.map (fun p => seenNumber s v p (bytesFor bits))) / 2 ^ x.2 % 2 ^ bits

/-- A bit of memory after an element's value is stored at its bytes. -/
def storedBit (bits : Nat) (x : Int × Nat) (pas : List Nat) (value p q : Nat) (b : Bool) : Bool :=
  (pas.zipIdx).foldl (fun b y =>
    let i := 8 * (bytesFor bits * y.2 + (p - y.1)) + q
    if y.1 ≤ p ∧ p < y.1 + bytesFor bits ∧ x.2 ≤ i ∧ i < x.2 + bits then value.testBit (i - x.2) else b) b

/-- The lane of the core, and the core, through which element e is accessed (03 R38). -/
def laneAt (v : VCtx) (w e : Nat) : Nat × Nat :=
  match v.place w e with
  | some (p, lane, _) => (p.core, lane)
  | none => (0, 0)

/-- Only stores. -/
def OnlyStores (es : List Effect) (fill : Bool) : Prop :=
  ∀ e ∈ es, ∃ lane pa va size value mask, e = .store lane pa va size value mask fill

/-! Packed streams (13 R213). -/

/-- The block header breaks no rule of its table for elements of w bits. -/
def BlockOk (w mode cnt bw rest : Nat) : Prop :=
  mode < 3 ∧ 1 ≤ cnt ∧ cnt ≤ 256 ∧ bw ≤ w ∧ (mode ≠ 2 → bw = 0) ∧ rest = 0

/-- Bits of a block's payload. -/
def payloadBits (w mode cnt bw : Nat) : Nat :=
  match mode with
  | 0 => cnt * w
  | 1 => 0
  | _ => (w + 7) / 8 * 8 + cnt * bw

/-- The block's size in bytes. -/
def blockBytes (w mode cnt bw : Nat) : Nat := (4 + (payloadBits w mode cnt bw + 7) / 8 + 3) / 4 * 4

/-- Element i of a block from its payload. -/
def blockElem (w mode bw payload i : Nat) : Nat :=
  match mode with
  | 0 => payload / 2 ^ (i * w) % 2 ^ w
  | 1 => 0
  | _ => (payload % 2 ^ w + payload / 2 ^ ((w + 7) / 8 * 8 + i * bw) % 2 ^ bw) % 2 ^ w

/-- The loop of VLDZ (13 R214) from n elements and `used` bytes on, over bytes that the group can read: it ends with these
elements and bytes. -/
inductive Unpacks (s : State) (v : VCtx) (w a lim : Nat) : List Nat → Nat → List Nat → Nat → Prop
  | past (out : List Nat) (used : Nat) (h : lim < used + 4) : Unpacks s v w a lim out used out used
  | full (out : List Nat) (used mode cnt bw rest : Nat) (fit : used + 4 ≤ lim)
      (head : WordsRead s v ((a + used) % 2 ^ 64) 4 [mode * 2 ^ 30 + cnt * 2 ^ 21 + bw * 2 ^ 14 + rest])
      (small : cnt < 2 ^ 9 ∧ bw < 2 ^ 7 ∧ rest < 2 ^ 14) (ok : BlockOk w mode cnt bw rest)
      (h : lim < used + blockBytes w mode cnt bw ∨ v.vl < out.length + cnt) : Unpacks s v w a lim out used out used
  | block (out : List Nat) (used mode cnt bw rest : Nat) (ps : List Nat) (out' : List Nat) (used' : Nat) (fit : used + 4 ≤ lim)
      (head : WordsRead s v ((a + used) % 2 ^ 64) 4 [mode * 2 ^ 30 + cnt * 2 ^ 21 + bw * 2 ^ 14 + rest])
      (small : cnt < 2 ^ 9 ∧ bw < 2 ^ 7 ∧ rest < 2 ^ 14) (ok : BlockOk w mode cnt bw rest)
      (room : used + blockBytes w mode cnt bw ≤ lim ∧ out.length + cnt ≤ v.vl)
      (size : 4 + 4 * ps.length = blockBytes w mode cnt bw)
      (read : WordsRead s v ((a + used + 4) % 2 ^ 64) 4 ps)
      (more : Unpacks s v w a lim (out ++ (List.range cnt).map (blockElem w mode bw (joinNumbers 32 ps)))
        (used + blockBytes w mode cnt bw) out' used') : Unpacks s v w a lim out used out' used'

/-! Reductions and windows. -/

/-- Op of VREDM, VACC and VMERGE on elements of a type (13 R223): 0 ADD, 1 AND, 2 OR, 3 XOR, 4 MIN, 5 MAX; a floating ADD
rounds by the block's FMODE with rsr as rne. -/
def mergeOp (t : ElemType) (m : RoundMode) (op x y : Nat) : Nat × Flags :=
  match t with
  | .flt g => if op = 0 then fAdd g ⟨m.noRsr, 0⟩ x y else fMinMax g (op == 5) x y
  | .int sg n =>
    (match op with
      | 0 => (x + y) % 2 ^ n
      | 1 => x &&& y
      | 2 => x ||| y
      | 3 => x ^^^ y
      | 4 => if valueIn sg n y < valueIn sg n x then y else x
      | _ => if valueIn sg n x < valueIn sg n y then y else x, 0)

/-- The identity of a window's operation (13 R224): 0 ADD, 2 OR, 4 MIN, 5 MAX. -/
def identityOf (t : ElemType) (op : Nat) : Nat :=
  match op, t with
  | 4, .flt g => g.inf false
  | 5, .flt g => g.inf true
  | 4, .int sg n => if sg then 2 ^ (n - 1) - 1 else 2 ^ n - 1
  | 5, .int sg n => if sg then 2 ^ (n - 1) else 0
  | _, _ => 0

/-- Every lane of the group as 13 R226 orders them: by die position, then from the base upward. -/
def lanesOf (v : VCtx) : List (Nat × Nat) := v.parts.flatMap (fun p => (List.range p.lanes).map (fun l => (p.core, p.base + l)))

/-- No word of n bytes of a lane slice from an offset is poisoned (07 R130). -/
def SliceClean (s : State) (core lane off n : Nat) : Prop :=
  ∀ u, off / 8 ≤ u → 8 * u < off + n → sliceKey core lane u ∉ s.sys.slicePoison

/-- A fold with its flags joined. -/
def foldFlags (op : Nat → Nat → Nat × Flags) (x : Nat) (ys : List Nat) : Nat × Flags :=
  ys.foldl (fun a y => ((op a.1 y).1, a.2 ||| (op a.1 y).2)) (x, 0)

/-! Boundaries. -/

/-- The group is at its committed boundary already, with nothing left of an earlier commit, so that a boundary instruction
starts with its own part (03 R46). -/
structure AtBoundary (v : VCtx) : Prop where
  pending : v.g.core.pending = []
  strip : v.g.strip = none
  issues : v.g.issues = []
  leaving : v.g.leaving = []
  outgoing : v.g.outgoing = []
  notifies : v.g.notifies = []
  done : v.g.committing = false

/-- A strip just opened: it holds nothing. -/
def freshStrip (ck : Checkpoint) (grant : Nat) (setvl : Bool) : Strip :=
  { ckpt := ck, effects := [], written := [], flags := 0, k := 0, grant := grant, setvl := setvl }

/-- The new value of a VAMO element on n bytes, none for no write (13 R222, 11 R180). -/
def amoTable (opc n old x cmp : Nat) : Option Nat :=
  let w := 8 * n
  let a := BitVec.ofNat w old
  let b := BitVec.ofNat w x
  match opc with
  | 0 => some b.toNat
  | 1 => some (a + b).toNat
  | 2 => some (a &&& b).toNat
  | 3 => some (a ||| b).toNat
  | 4 => some (a ^^^ b).toNat
  | 5 => some (if a.toInt ≤ b.toInt then a else b).toNat
  | 6 => some (if a.toInt ≤ b.toInt then b else a).toNat
  | 7 => some (min a.toNat b.toNat)
  | 8 => some (max a.toNat b.toNat)
  | 9 => if a = BitVec.ofNat w cmp then some b.toNat else none
  | _ => none

/-- Elements of VAMO in order: each reads n bytes where the ones before it have left them and writes its new value. -/
def AmoSteps (s : State) (n : Nat) (new : Nat → Nat → Option Nat) : List (Nat × Nat) → MemSys → MemSys → List (Nat × Nat) → Prop
  | [], m, m', out => m' = m ∧ out = []
  | (e, pa) :: rest, m, m', out =>
    poisonAt m pa n = none ∧ ∃ tail,
      let old := leValue (presentBytes { s with sys := m } pa n)
      AmoSteps s n new rest (match new e old with
        | some x => storeBytes m (lineShare s.proctor) pa (bytesOf n x) false
        | none => m) m' tail ∧ out = (e, old) :: tail

/-- The address of an element of VAMO and VREDM (13 R222, R223): size n, index width and scaling of layout A. -/
def atomicPlace (s : State) (v : VCtx) (f : VFields) (n e : Nat) : Nat :=
  (((v.w f.vs1).toNat + indexOf s v f.vs2 (f.fn.toNat / 2 ^ 12 % 4) e * (if f.fn.toNat / 2 ^ 11 % 2 = 1 then (n : Int) else 1))
    % 2 ^ 64).toNat

/-- Each element's address is aligned, translates as its lane does, and has a route. -/
def AtomicAt (s : State) (v : VCtx) (f : VFields) (ro : Bool) (n : Nat) (es : List Nat) (pa : Nat → Nat) : Prop :=
  ∀ e ∈ es, atomicPlace s v f n e % n = 0 ∧ translate s (v.accessor s (8 * n) e) (atomicPlace s v f n e) (.atomic ro) = .ok (pa e)
    ∧ lostNode s (pa e) = none

/-- The number of a lane in the acknowledgements of a core (11 R185). -/
def laneNumber (v : VCtx) (w e : Nat) : Nat := (laneAt v w e).1 * 256 + (laneAt v w e).2

/-- The pending gather of a register goes (13 R215, R217): once the strip commits, at once outside one. -/
def withoutGather (reg : Nat) (g : Group) : Group :=
  if ∃ x ∈ g.gathers, x.reg = reg then
    (if g.strip = none then { g with gathers := g.gathers.filter (fun x => x.reg != reg) }
    else { g with core := { g.core with gread := setAdd reg g.core.gread } })
  else g

/-- The words of a VBIND descriptor (13 R215). -/
structure DescribesStream (ws : List Nat) (base : Nat) (exts : List Nat) (strs : List Int) : Prop where
  words : ws.length = 11
  base : ws.getD 0 0 = base ∧ base < 2 ^ 56
  dims : ws.getD 1 0 = exts.length ∧ exts.length = strs.length ∧ 1 ≤ exts.length ∧ exts.length ≤ 6
  extents : (∀ x ∈ exts, 1 ≤ x) ∧ ∀ d, d < 6 → ws.getD (2 + d / 2) 0 / 2 ^ (32 * (d % 2)) % 2 ^ 32 = exts.getD d 0
  strides : ∀ d, d < 6 → (BitVec.ofNat 64 (ws.getD (5 + d) 0)).toInt = strs.getD d 0

/-- Byte `off` of a lane slice (07 R108). -/
def sliceByteOf (l : LaneSys) (core lane off : Nat) : Nat :=
  (cellGet l.slices (sliceKey core lane (off / 8))).toNat / 2 ^ (8 * (off % 8)) % 256

end Sys2Proof.Safety
end

