-- ==== Sys2Proof/Safety/Array.lean ====
section
/-! DEFINITION. The array as chapter 17 sets it out: when an array operation can be queued, what it names, and where the elements of its layouts lie, for claims to compare the machine with. -/

namespace Sys2Proof.Safety

open Sys2Proof.Machine

/-- The sequencer may issue to the array queue: nothing but the queue stands before the instruction (17 R271, R272). -/
structure ReadyToQueue (s : State) (tid : Nat) (v : VCtx) (i : Instr) : Prop where
  actor : s.actor = .sequencer tid
  ctx : vctx s tid = some v
  unbound : ∀ r, r ∈ vreads i ∨ r ∈ vwrites i → tableGet r v.g.core.streams = none
  taken : ∀ r, r ∈ vreads i ∨ r ∈ vwrites i → ∀ x ∈ v.g.gathers, x.reg = r → r ∈ v.g.core.gread
  unmarked : ∀ r, r ∈ vreads i → ∀ m ∈ v.g.core.gmark, m.1 ≠ r

/-- The rows and columns of processing elements of a lane count (17 R263). -/
def gridFor (lanes : Nat) : Option (Nat × Nat) :=
  if lanes = 64 then some (8, 8) else if lanes = 128 then some (16, 8) else if lanes = 256 then some (16, 16) else none

/-- The AM code of a lane count (13 R199, 17 R263). -/
def modeCode (lanes : Nat) : Option (BitVec 2) :=
  if lanes = 64 then some 1 else if lanes = 128 then some 2 else if lanes = 256 then some 3 else none

/-- The registers of a tile. -/
def tileOf (x : BitVec 6) : List Nat := (List.range 8).map (fun k => 8 * (x.toNat / 8) + k)

/-- A register of an operand code with block scales (05 R74, 17 R269). -/
def scaleRegs (f : VFields) : List (BitVec 6) := if 12 ≤ f.ty.toNat then [f.vs3] else []

/-- Result registers of MWB.Q (17 R278): one for the 4-bit codes, else two. -/
def quantised (f : VFields) : List Nat :=
  if f.ty.toNat = 7 ∨ f.ty.toNat = 14 then [f.vd.toNat] else [f.vd.toNat, f.vd.toNat + 1]

/-- Bits 0 and 1 of FN: Z or AC, and CH (17 R269). -/
def flagZ (f : VFields) : Bool := f.fn.getLsbD 0
def flagCH (f : VFields) : Bool := f.fn.getLsbD 1

/-- A part takes an upstream entry for MPASS.CH, or delivers its results downstream (17 R276). -/
def takesUp (f : VFields) (v : VCtx) (die : Nat) : Prop := flagCH f = true ∧ (linksOf v.g die).up ≠ none
def sendsDown (f : VFields) (v : VCtx) (die : Nat) : Prop := flagCH f = true ∧ (linksOf v.g die).down ≠ none

/-- The registers that an array operation writes, as 03 R49 counts them (17 R274 to R278). -/
def arrayWrites (v : VCtx) : Instr → Option (List Nat)
  | .moxa f => some (tileOf f.vd)
  | .moxs f => some (tileOf f.vd)
  | .mldw f => some (tileOf f.vd)
  | .mpass f => some (if ∀ p ∈ v.parts, flagCH f = true ∧ (linksOf v.g p.die).down ≠ none then [] else [f.vd.toNat])
  | .mwb f => some (tileOf f.vd ++ (if flagZ f = true then tileOf f.vs1 else []))
  | .mwbQ f => some (quantised f ++ [f.vs2.toNat] ++ (if flagZ f = true then tileOf f.vs1 else []))
  | _ => none

/-- The detail code of an array operation whose operands 17 R270, R276 and R278 do not allow, none where they do. -/
def arrayDetail (v : VCtx) : Instr → Option Nat
  | .moxa f => if ∃ x ∈ [f.vs1, f.vs2] ++ scaleRegs f, x.toNat / 8 = f.vd.toNat / 8 then some 15 else none
  | .moxs f => if ∃ x ∈ [f.vs1, f.vs2] ++ scaleRegs f, x.toNat / 8 = f.vd.toNat / 8 then some 15 else none
  | .mpass f =>
    if ∃ x ∈ [f.vs1] ++ scaleRegs f ++ (if flagZ f = true then [f.vd] else []), x.toNat / 8 = f.vs2.toNat / 8 then some 15
    else if flagZ f = true ∧ ∃ p ∈ v.parts, flagCH f = true ∧ (linksOf v.g p.die).up ≠ none then some 23
    else none
  | .mwb f => if flagZ f = true ∧ f.vd.toNat / 8 = f.vs1.toNat / 8 then some 15 else none
  | .mwbQ f =>
    if ∃ r ∈ quantised f, 64 ≤ r ∨ r = f.vs2.toNat ∨ r / 8 = f.vs1.toNat / 8 then some 15
    else if 12 ≤ f.ty.toNat ∧ f.fn.toNat / 2 % 4 ≠ 2 then some 24
    else none
  | _ => none

/-- A member's eleven bits in MCHAIN's word (17 R282). -/
def memberBits (m : Member) : Nat := m.die * 2 ^ 9 + m.clu * 2 ^ 6 + m.core * 2 ^ 3 + m.slot

def MemberOk (m : Member) : Prop := m.die < 4 ∧ m.clu < 8 ∧ m.core < 8 ∧ m.slot < 8

/-- MCHAIN's word: SET, the upstream and downstream members, the part (17 R282). -/
def chainWord (set : Bool) (up down : Option Member) (part : Nat) : Nat :=
  set.toNat * 2 ^ 63 + (match up with
    | some m => 2 ^ 57 + memberBits m * 2 ^ 46
    | none => 0) + (match down with
    | some m => 2 ^ 45 + memberBits m * 2 ^ 34
    | none => 0) + part * 2 ^ 32

/-- Element e of a register in the part at a die position (17 R263). -/
def partElem (s : State) (v : VCtx) (p reg w e : Nat) : Nat := v.get s reg w (p * v.vmax w + e)

/-- Accumulator (i, j) of a tile in accumulator layout (17 R266): register a, position b of lane l. -/
def accOf (s : State) (v : VCtx) (gc p : Nat) (tile : BitVec 6) (i j : Nat) : Nat :=
  partElem s v p (8 * (tile.toNat / 8) + i % 8) 32 (j % 8 * v.lanes + (i / 8 * gc + j / 8))

/-- Value g of a group of 8 registers at width w (17 R267). -/
def groupOf (s : State) (v : VCtx) (p : Nat) (group : BitVec 6) (w g : Nat) : Nat :=
  partElem s v p (8 * (group.toNat / 8) + g / v.vmax w) w (g % v.vmax w)

/-- Weight (k, n) of width w of a tile in weight layout (17 R275): its register and element. -/
def weightOf (s : State) (v : VCtx) (gc p : Nat) (tile : BitVec 6) (w k n : Nat) : Nat :=
  let kb := 256 / w
  let bit := (8 * (k % kb) + n % 8) * w
  partElem s v p (8 * (tile.toNat / 8) + bit / 256) w (bit % 256 / w * v.lanes + (k / kb * gc + n / 8))

/-- The results of steps along k (17 R274; 05 R86, R87): n products of the step size at a time, each rounded into the
accumulator. -/
def stepsAlong (code : Nat) (sub : Bool) (depth : Nat) (a b sa sb : Nat → Nat) (start : Nat) : Nat × Flags :=
  let n := operandStep code
  (List.range (depth / n)).foldl (fun (x : Nat × Flags) i =>
    let r := arrayStep code sub (sa (n * i)) (sb (n * i)) ((List.range n).map (fun t => (a (n * i + t), b (n * i + t)))) x.1
    (r.1, x.2 ||| r.2)) (start, 0)

/-- The elements of an MLDT read (17 R279): base, row and tile pitch, rotation, the scales' base and pitch, the edges. -/
structure TileFields where
  base : Nat
  rp : Nat
  tp : Nat
  rot : Nat
  sbase : Nat
  srp : Nat
  drem : Nat
  krem : Nat
  deriving DecidableEq, Repr

/-- The three w operands of MLDT hold these fields. -/
structure TileFields.In (x : TileFields) (a b c : Nat) : Prop where
  first : a = x.base ∧ x.base < 2 ^ 24
  second : b = x.rp * 2 ^ 44 + x.tp * 2 ^ 24 + x.rot * 2 ^ 21 ∧ x.rp < 2 ^ 20 ∧ x.tp < 2 ^ 20 ∧ x.rot < 2 ^ 3
  third : c = x.sbase * 2 ^ 40 + x.srp * 2 ^ 24 + x.drem * 2 ^ 12 + x.krem ∧ x.sbase < 2 ^ 24 ∧ x.srp < 2 ^ 16
    ∧ x.drem < 2 ^ 12 ∧ x.krem < 2 ^ 12

/-- The bit of its row, and the scratchpad offset of its byte, of value (h, i, k) (17 R280). -/
def TileFields.bitOf (x : TileFields) (w depth i k : Nat) : Nat := (k * w + 64 * (i % 2 ^ x.rot)) % (depth * w)

def TileFields.offset (x : TileFields) (w depth h i k : Nat) : Nat := x.base + h * x.tp + i * x.rp + x.bitOf w depth i k / 8

/-- n bytes at an offset of the scratchpad window can be read by the lane of an element (17 R280). -/
def WindowRead (s : State) (v : VCtx) (w e off n pa : Nat) : Prop :=
  off < 2 ^ 24 ∧ translate s (v.accessor s w e) (0x00FFFFFFFF000000 + off) .read = .ok pa ∧ Usable s pa n

/-- Result (i, j) of MOXA and MOXS in a part (17 R268, R274). -/
def outerResult (s : State) (v : VCtx) (f : VFields) (gr gc : Nat) (sub : Bool) (p i j : Nat) : Nat × Flags :=
  let w := operandBits f.ty.toNat
  let depth := 256 * v.lanes / (w * (8 * gr))
  let scale := fun (n : Nat) => if 12 ≤ f.ty.toNat then partElem s v p f.vs3.toNat 8 n else 127
  stepsAlong f.ty.toNat sub depth (fun k => partElem s v p f.vs1.toNat w (k * (8 * gr) + i))
    (fun k => partElem s v p f.vs2.toNat w (k * (8 * gc) + j)) (fun k => scale (i * (depth / 32) + k / 32))
    (fun k => scale (8 * gr * (depth / 32) + j * (depth / 32) + k / 32)) (if flagZ f = true then 0 else accOf s v gc p f.vd i j)

/-- Result (r, j) of MPASS in a part (17 R268, R276): from the entry taken upstream, or from VD with AC, or from zero. -/
def passResult (s : State) (v : VCtx) (f : VFields) (op : ArrayOp) (gr gc : Nat) (p die r j : Nat) : Nat × Flags :=
  let w := operandBits f.ty.toNat
  let kw := 256 / w * gr
  let scale := fun (n : Nat) => if 12 ≤ f.ty.toNat then partElem s v p f.vs3.toNat 8 n else 127
  let own := if flagZ f = true then partElem s v p f.vd.toNat 32 (r * (8 * gc) + j) else 0
  let start := if flagCH f = true ∧ (linksOf v.g die).up ≠ none then (match tableGet die op.entries with
      | some e => (e.results.getD (r * (8 * gc) + j) 0).toNat
      | none => own)
    else own
  stepsAlong f.ty.toNat false kw (fun k => partElem s v p f.vs1.toNat w (r * kw + k)) (fun k => weightOf s v gc p f.vs2 w k j)
    (fun k => scale (r * (kw / 32) + k / 32)) (fun k => scale (gc * (kw / 32) + j * (kw / 32) + k / 32)) start

/-- What a part delivers downstream (17 R283). -/
def passEntry (s : State) (v : VCtx) (f : VFields) (op : ArrayOp) (gr gc : Nat) (p die : Nat) : LinkEntry :=
  { results := (List.range (gc * (8 * gc))).map (fun n => BitVec.ofNat 32 (passResult s v f op gr gc p die (n / (8 * gc)) (n % (8 * gc))).1)
    code := f.ty.toNat
    lanes := v.lanes
    hop := if flagCH f = true ∧ (linksOf v.g die).up ≠ none then (match tableGet die op.entries with
        | some e => e.hop + 1
        | none => 1)
      else 1
    consumed := false
    dest := (linksOf v.g die).down }

/-- The scaling groups of MWB.Q: the index of the scale with its accumulators in order (17 R278). -/
def quantGroup (grp rows cols n : Nat) : List (Nat × Nat) :=
  match grp with
  | 0 => (List.range (rows * cols)).map (fun m => (m / cols, m % cols))
  | 1 => (List.range cols).map (fun j => (n, j))
  | _ => (List.range 32).map (fun j => (n / (cols / 32), 32 * (n % (cols / 32)) + j))

def quantGroups (grp rows cols : Nat) : Nat := match grp with
  | 0 => 1
  | 1 => rows
  | _ => rows * (cols / 32)

/-- What the registers hold after an array operation, in the part at a die position (17 R274 to R278). -/
def ArrayValues (s t : State) (v : VCtx) (op : ArrayOp) (gr gc p die : Nat) : Prop :=
  let rows := 8 * gr
  let cols := 8 * gc
  let cleared := fun (f : VFields) => flagZ f = true → ∀ i j, i < rows → j < cols → accOf t v gc p f.vs1 i j = 0
  match op.instr with
  | .moxa f => ∀ i j, i < rows → j < cols → accOf t v gc p f.vd i j = (outerResult s v f gr gc false p i j).1 % 2 ^ 32
  | .moxs f => ∀ i j, i < rows → j < cols → accOf t v gc p f.vd i j = (outerResult s v f gr gc true p i j).1 % 2 ^ 32
  | .mldw f =>
    let w := operandBits f.ty.toNat
    ∀ k n, k < 256 / w * gr → n < cols → weightOf t v gc p f.vd w k n = groupOf s v p f.vs1 w (k * cols + n)
  | .mpass f =>
    (∀ n, n < v.vmax 32 → partElem t v p f.vd.toNat 32 n =
      if n < gc * cols ∧ ¬ (flagCH f = true ∧ (linksOf v.g die).down ≠ none)
      then (passResult s v f op gr gc p die (n / cols) (n % cols)).1 % 2 ^ 32 else partElem s v p f.vd.toNat 32 n)
  | .mwb f => (∀ i j, i < rows → j < cols → groupOf t v p f.vd 32 (i * cols + j) = accOf s v gc p f.vs1 i j) ∧ cleared f
  | .mwbQ f =>
    let w := operandBits f.ty.toNat
    let grp := f.fn.toNat / 2 % 4
    (∀ n k i j, n < quantGroups grp rows cols → (quantGroup grp rows cols n)[k]? = some (i, j) →
      let q := quantise f.ty.toNat ((quantGroup grp rows cols n).map (fun x => accOf s v gc p f.vs1 x.1 x.2))
      let at' := i * cols + j
      partElem t v p (f.vd.toNat + at' / v.vmax w) w (at' % v.vmax w) = q.1.getD k 0 % 2 ^ w
        ∧ (¬ (flagZ f = true ∧ f.vs2.toNat / 8 = f.vs1.toNat / 8) → partElem t v p f.vs2.toNat 8 n = q.2.1 % 2 ^ 8))
    ∧ cleared f
  | _ => True

end Sys2Proof.Safety
end

