-- ==== Sys2Proof/Safety/Slate.lean ====
section
/-! DEFINITION. Slate slots and memory graphs as chapter 19 sets them out, for claims to compare the machine with. -/

namespace Sys2Proof.Safety

open Sys2Proof.Machine

/-- The slot number of a Slate instruction (19 R303). -/
def slotOf (f : VFields) : Nat := f.fn.toNat % 2 ^ 3

/-- The slot is not empty (19 R288). -/
def InSlot (v : VCtx) (k : Nat) (sl : Slot) : Prop := tableGet k v.g.slots = some sl ∧ sl.st ≠ 0

/-- An empty slot. -/
def EmptySlot (v : VCtx) (k : Nat) : Prop := ∀ sl, tableGet k v.g.slots = some sl → sl.st = 0

/-- Source fields past a graph's sources are zero (19 R303). -/
def SourcesOk (f : VFields) (n : Nat) : Prop := ∀ k x, n ≤ k → [f.vs1, f.vs2, f.vs3][k]? = some x → x = 0

/-- The sources that a graph has. -/
def sourcesOf (f : VFields) (n : Nat) : List (BitVec 6) := [f.vs1, f.vs2, f.vs3].take n

/-- A compute graph over elements in order, each with the live state that the one before it left (19 R297): the results with
their flags, and the last state. -/
def graphSteps (g : Graph) (input : Nat → GInput) : List Nat → List Word → List (Nat × Nat × Flags) × List Word
  | [], live => ([], live)
  | e :: es, live =>
    let r := evalElement g (input e) live
    let rest := graphSteps g input es r.2.1
    ((e, r.1, r.2.2) :: rest.1, rest.2)

/-- Cells of a core's Slate that are free for a slot, as the strip's own loads and frees leave them (19 R287, R304). -/
def cellsFree (v : VCtx) (k : Nat) : Nat :=
  128 - ((tableDel k ((v.g.issues ++ v.g.visible).foldl (fun (c : Table Nat) e => match e with
    | .load slot _ _ cost => tablePut slot cost c
    | .clear slot => tableDel slot c
    | _ => c) (v.g.slots.filterMap (fun e => if e.2.st = 0 then none else some (e.1, e.2.cost))))).map Prod.snd).foldl (fun n x => n + x) 0

/-- SLOAD's status (19 R304): 1 too few cells, 2 too short an iteration time, 3 too much live state. -/
def loadStatus (v : VCtx) (k : Nat) (g : Graph) : Nat :=
  if cellsFree v k < g.cost then 1 else if g.lat < g.path then 2 else if 256 < g.liveBytes then 3 else 0

/-- The run of a slot of a thread that is there, as its iterations see it. -/
def runOf (s : State) (v : VCtx) (sl : Slot) : RunCtx :=
  { tid := v.tid, lnum := v.t.lnum, shadow := v.t.isShadow
    acc := { tr := trCtx s v.t, core := v.tid / 8, cluster := v.tid / 64, strip := true, priv := false }
    slot := sl, orphan := none }

/-- One iteration's nodes in order (19 R298). -/
def iterationOf (s : State) (v : VCtx) (sl : Slot) (r : Run) : Iter :=
  let g := graphOf (leValue sl.image)
  let inp : GInput := { srcs := r.params.map (fun p => ⟨p.toNat, 64, false⟩), index := r.next }
  let before := g.liveOr sl.live
  (g.nodes.zipIdx).foldl (fun (it : Iter) x => iterNode (runOf s v sl) g inp before it x.2 x.1)
    { s := s, ev := { vals := [], live := before, flags := 0 }, loads := [], stores := [], out := [], stop := none, waits := false,
      unknown := [] }

/-- A byte with an iteration's store over it. -/
def overPort (st : Nat × Nat × Nat × Nat) (a : Nat) (b : Byte) : Byte :=
  if st.2.1 ≤ a ∧ a < st.2.1 + st.2.2.1 then BitVec.ofNat 8 (st.2.2.2 / 2 ^ (8 * (a - st.2.1))) else b

/-- A run's completion entry (19 R301). -/
def completionBytes (slot : Nat) (r : Run) : List Byte :=
  let stop := match r.stopped with
    | some (c, a) => (2 ^ 62 + c * 2 ^ 58, a)
    | none => (0, 0)
  bytesOf 8 (2 ^ 63 + stop.1 + slot * 2 ^ 32 + r.next) ++ bytesOf 8 stop.2 ++ bytesOf 8 r.flags.toNat ++ List.replicate 40 0

/-- The slots and run streams of a group after a run has left its slot (19 R288, R302). -/
def runLeft (slot : Nat) (sl : Slot) (r : Run) (g : Group) : Group :=
  { g with
    slots := if sl.st = 0 then tableDel slot g.slots else tablePut slot { sl with st := 3, run := none } g.slots
    runData := match r.stream with
      | none => g.runData
      | some reg => tableMod reg (fun d => { d with ended := true }) g.runData }

end Sys2Proof.Safety
end

