-- ==== Sys2Proof/Safety/Events.lean ====
section
/-! DEFINITION. Convoys, faults, wake-ups and the events of the units, as the chapters set them out, for claims to compare the machine with. -/

namespace Sys2Proof.Safety

open Sys2Proof.Machine

/-! Convoys. -/

/-- The chaining class of an opcode (09 R147), none where it never stands in a convoy. -/
def chainingClass (op : Nat) : Option Nat :=
  if op ∈ [0x02, 0x03, 0x04, 0x05, 0x06, 0x07, 0x08, 0x15, 0x16, 0x11, 0x13] then some 0
  else if op ∈ [0x22, 0x23, 0x24, 0x25, 0x26, 0x27, 0x2C, 0x2D, 0x3A, 0x3B] then some 1
  else if op ∈ [0x20, 0x21, 0x28, 0x29, 0x2A, 0x2B, 0x2E, 0x2F, 0x30, 0x31, 0x32, 0x33, 0x34, 0x35, 0x36, 0x37, 0x38, 0x39, 0x3C,
      0x40, 0x41, 0x42, 0x43, 0x59] then some 2
  else if op ∈ [0x56, 0x57] then some 3
  else if op ∈ [0x48, 0x49, 0x4A, 0x4B, 0x4C, 0x4D, 0x4E, 0x4F, 0x51, 0x52, 0x53, 0x54, 0x55] then some 4
  else if op = 0x92 then some 5
  else if op ∈ [0x85, 0x86] then some 6
  else none

/-- The units of a header, of at most six instructions: none is 7, and none is used twice, but that the load-store unit may
stand first and last (03 R62). -/
def UnitsOk (ks : List Nat) : Prop :=
  (∀ k ∈ ks, k ≠ 7)
    ∧ ∀ i j, j < i → i < ks.length → ks[i]? = ks[j]? → ks[i]? = some 0 ∧ j = 0 ∧ i + 1 = ks.length

/-- These opcodes stand from an address on, every parcel of their instructions readable (09 R135, R136, R149). -/
def OpcodesAt (s : State) (a : Accessor) : Nat → List Nat → Prop
  | _, [] => True
  | pc, op :: ops => ∃ hi, fetchParcel s a (pc % 2 ^ 64) (pc % 2 ^ 64) = .ok hi ∧ op = hi.toNat / 2 ^ 24
      ∧ (if op < 0xFC then (∃ lo, fetchParcel s a ((pc + 4) % 2 ^ 64) (pc % 2 ^ 64) = .ok lo) ∧ OpcodesAt s a (pc + 8) ops
        else OpcodesAt s a (pc + 4) ops)

/-! Faults. -/

/-- The sixteen words of a record (23 R347). -/
def recordOf (kind : Nat) (vec ends shd : Bool) (tid edie : Nat) (pc vcp ssn : Word) (lnum : Nat) (cyc : Word) (d : List Word) :
    List Word :=
  let bit := fun (b : Bool) (n : Nat) => if b then 2 ^ n else 0
  [BitVec.ofNat 64 (kind * 2 ^ 56 + bit vec 55 + bit ends 54 + bit shd 53 + tid / 384 * 2 ^ 48 + tid / 64 % 6 * 2 ^ 45
      + tid / 8 % 8 * 2 ^ 42 + tid % 8 * 2 ^ 39 + edie * 2 ^ 37), pc, vcp, ssn, BitVec.ofNat 64 lnum, cyc]
    ++ (List.range 10).map (fun k => d.getD k 0)

/-- A fault that neither meets an injection nor a poisoned table entry nor a lost route. -/
def PlainFault (f : FaultInfo) : Prop := f.hit = none ∧ f.walked = none ∧ f.node = none

/-- An array operation that a rollback to a checkpoint leaves: issued outside any strip, no later than the checkpoint (03 R51,
17 R273, R285). -/
def StaysQueued (c : Checkpoint) (op : ArrayOp) : Bool := op.outside && decide (op.ssn.toNat ≤ c.core.vssn.toNat)

/-- A group whose open strip rolls back (03 R50, R51): the checkpoint's core, nothing of the strip buffered, read ahead, queued or
consumed; array operations issued before it go on once those that have started are complete; it replays at its SETVL with the
same grant, or is open again after VAMO or VTBLLD. -/
def rolledBack (g : Group) : Group :=
  match g.strip with
  | none => { g with waiting := none }
  | some st =>
    { g with core := st.ckpt.core, queue := g.queue.filter (StaysQueued st.ckpt), quiesce := g.queue.any (StaysQueued st.ckpt)
             held := [], waiting := none, outgoing := []
             buffers := g.buffers.map (fun b => (b.1, b.2.map (fun e => { e with consumed := false })))
             strip := if st.setvl then none else some { st with effects := [], written := [], flags := 0, k := 0 }
             replay := if st.setvl then some st.grant else g.replay }

/-- The registers and masks of the parts' own lanes are those of the checkpoint, every other lane's as before (03 R50). -/
def LanesRolledBack (s u : State) (v : VCtx) : Prop :=
  u.lanes.slices = s.lanes.slices ∧ (v.g.strip = none → u.lanes = s.lanes)
    ∧ ∀ st, v.g.strip = some st → cellsWf s.lanes.vregs = true → cellsWf s.lanes.masks = true →
      cellsWf st.ckpt.cells.vregs = true → cellsWf st.ckpt.cells.masks = true →
      ∀ key, let own := fun (core : Nat) => ∃ p ∈ v.parts, core = p.core ∧ p.base ≤ key % 256 ∧ key % 256 < p.base + p.lanes
        (own (key / 16384) → cellGet u.lanes.vregs key = cellGet st.ckpt.cells.vregs key)
        ∧ (¬ own (key / 16384) → cellGet st.ckpt.cells.vregs key = 0 → cellGet u.lanes.vregs key = cellGet s.lanes.vregs key)
        ∧ (own (key / 2048) → cellGet u.lanes.masks key = cellGet st.ckpt.cells.masks key)
        ∧ (¬ own (key / 2048) → cellGet st.ckpt.cells.masks key = 0 → cellGet u.lanes.masks key = cellGet s.lanes.masks key)

/-! Wake-ups. -/

/-- The machine as a waiting control thread executes its instruction again (11 R167), and as a Proctor core or a sequencer
does. -/
def againThread (s : State) (tid : Nat) : State :=
  ({ s with actor := .thread tid } : State).modThread tid (fun t => { t with waiting := none })

def againProctor (s : State) (k : Nat) (p : ProctorCore) : State :=
  ({ s with actor := .proctor k } : State).putPcore k { p with waiting := none }

def againVector (s : State) (tid : Nat) : State :=
  ({ s with actor := .sequencer tid } : State).modGroup tid (fun g => { g with waiting := none })

/-- The scalar wake-ups: the agent they wake and the waiting instructions that they have executed again. -/
def scalarWake : Instr → Option (Nat × (Instr → Bool))
  | .releaseAtomicResume tid => some (tid, fun i => (atomicForm i).isSome)
  | .consumingLoadWake tid => some (tid, fun i => (consumingForm i).isSome)
  | .fenceVsComplete tid => some (tid, fun i => match i with | .fenceSv => true | .fenceVs => true | .fenceVv => true | _ => false)
  | .bwaitWake tid => some (tid, fun i => match i with | .bwait .. => true | .arrive .. => true | .arriveDrop .. => true | _ => false)
  | .phendComplete tid => some (tid, fun i => i == .phend)
  | .qpostResume tid false => some (tid, fun i => match i with | .qpost .. => true | _ => false)
  | .qtakeWake tid => some (tid, fun i => match i with | .qtake .. => true | _ => false)
  | .qwaitnWake tid => some (tid, fun i => match i with | .qwaitn .. => true | _ => false)
  | .postbResume tid => some (tid, fun i => match i with | .postb .. => true | _ => false)
  | .getrWake tid => some (tid, fun i => match i with | .getr .. => true | _ => false)
  | .waitcWake tid => some (tid, fun i => match i with | .waitc .. => true | _ => false)
  | .klaunchResume tid => some (tid, fun i => match i with | .klaunch .. => true | _ => false)
  | .exitComplete tid => some (tid, fun i => i == .exit)
  | _ => none

/-- The same of the sequencers' wake-ups. -/
def vectorWake : Instr → Option (Nat × (Instr → Bool))
  | .watchWake tid => some (tid, fun i => match i with | .setvl _ => true | _ => false)
  | .commitResume tid => some (tid, fun i => match i with | .setvl _ => true | .vamo _ => true | .vtblld _ => true | .vend _ => true | _ => false)
  | .replyPostResume tid => some (tid, fun i => match i with | .vpostr _ => true | _ => false)
  | .vectorWLoadWake tid => some (tid, fun i => match i with | .vld _ => true | .vlds _ => true | .vldx _ => true | .mldt _ => true | _ => false)
  | .vectorInterlockResume tid => some (tid, fun i => (vrowOf i).isSome || (match i with | .convoy .. => true | .microcodeOpcode .. => true | _ => false))
  | _ => none

/-- `exec` of a wake-up completes as its waiting sequencer instruction does: the group of the machine that executes it again
becomes what f gives, and nothing else changes. -/
def WakesInto (e : Instr) (s : State) (tid : Nat) (v : VCtx) (f : Group → Group) : Prop :=
  ∃ t, exec e s = .next t ∧ OnlyGroup (againVector s tid) t v { v.t with group := some (f v.g) } ∧ t.lanes = s.lanes

/-- The group waits in an instruction, neither held by a fault nor stopped. -/
def Asleep (s : State) (tid : Nat) (i : Instr) : Prop :=
  ∃ g, s.group tid = some g ∧ g.waiting = some i ∧ g.faulted = false ∧ g.stop = none

/-! What engines read. -/

/-- The address of element n of a bound sequence (13 R215), its dimensions innermost first, before it wraps. -/
def streamPlace (b : Stream) (n : Nat) : Int :=
  b.base + ((List.range b.exts.length).map (fun d =>
    ((n / (b.exts.take d).foldl (fun x y => x * y) 1 % b.exts.getD d 1 : Nat) : Int) * b.strs.getD d 0)).foldl (fun x y => x + y) 0

/-- What a read of n bytes ahead of its instruction delivers: the value, or the mark of the poison it meets (13 R216, R218,
07 R131, 25 R388). -/
def readAhead (s : State) (pa va n : Nat) : Nat × Option Mark :=
  if lostNode s pa ≠ none then (0, some ⟨6, va, 0⟩)
  else match poisonAt s.sys pa n with
    | some (p, unit) => (0, some ⟨6, va + (p - pa), unit⟩)
    | none => (leValue (presentBytes s pa n), none)

/-- The bytes of a stored type, one for a packed element. -/
def storedSize (m : Word) (ty sg : Nat) : Nat := max 1 (storedBits m ty sg / 8)

/-! Copies and pigeonholes. -/

/-- A chunk of a copy (07 R121): 128 bytes, or what is left of its row; its offset in the job, its source and destination. -/
structure ChunkOf (d : CopyDesc) (i off src dst n : Nat) : Prop where
  inside : i < d.rows * ((d.rowLen + 127) / 128)
  off : off = i / ((d.rowLen + 127) / 128) * d.rowLen + i % ((d.rowLen + 127) / 128) * 128
  src : (src : Int) =
    ((d.src : Int) + (i / ((d.rowLen + 127) / 128) : Nat) * d.spitch + (i % ((d.rowLen + 127) / 128) * 128 : Nat)) % 2 ^ 64
  dst : (dst : Int) =
    ((d.dst : Int) + (i / ((d.rowLen + 127) / 128) : Nat) * d.dpitch + (i % ((d.rowLen + 127) / 128) * 128 : Nat)) % 2 ^ 64
  len : n = min 128 (d.rowLen - i % ((d.rowLen + 127) / 128) * 128)

/-- The 16-byte pieces of an engine's access lie in memory at these physical addresses (07 R132). -/
def PiecesAt (s : State) (a : Accessor) (va n : Nat) (k : Access) (pa : Nat → Nat) : Prop :=
  ∀ i, i < n / 16 → translate s a ((va + 16 * i) % 2 ^ 64) k = .ok (pa i) ∧ lostNode s (pa i) = none ∧ ∀ off, physKind (pa i) ≠ .device off

/-- Only the fabric and memory may differ. -/
structure OnlyFabric (s t : State) : Prop where
  rest : SameSurroundings s { t with fabric := s.fabric }
  threads : t.threads = s.threads
  proctor : t.proctor = s.proctor

/-- A copy job's entry changed alone. -/
structure OnlyJob (s t : State) (job : Nat) (j : Option CopyJob) : Prop where
  rest : OnlyFabric s t
  fabric : { t.fabric with copies := s.fabric.copies } = s.fabric
  copies : ∀ n, tableGet n t.fabric.copies = if n = job then j else tableGet n s.fabric.copies

end Sys2Proof.Safety
end

