-- ==== Sys2Proof/Safety/Module.lean ====
section
/-! DEFINITION. The module around its dies and its host: injections, device registers, power, heat, links, the submission ring and its journal, as chapters 01, 23 and 25 set them out, for claims to compare the machine with. -/

namespace Sys2Proof.Safety

open Sys2Proof.Machine

/-! Injections and device registers. -/

/-- The KIND of FINJ that an event writes, with the value. -/
def finjEvent : Instr → Option (Nat × Word)
  | .finjClear v => some (0, v)
  | .finjSignatureFlip v => some (1, v)
  | .finjCorrectable v => some (2, v)
  | .finjUncorrectable v => some (3, v)
  | .finjDiscardReturn v => some (4, v)
  | .finjParity v => some (5, v)
  | .finjEventFlip v => some (6, v)
  | _ => none

/-- A value of FINJ that 23 R375 allows for a KIND: it holds that KIND, and what the KIND does not use is zero. -/
def FinjValue (v : Word) (kind : Nat) : Prop :=
  v.toNat / 2 ^ 59 % 16 = kind
    ∧ (match kind with
      | 0 => v.toNat = 0
      | 1 => v.toNat % 2 ^ 48 = 0
      | 6 => v.toNat % 2 ^ 48 = 0
      | 2 => v.toNat / 2 ^ 48 % 2 ^ 11 = 0
      | 3 => v.toNat / 2 ^ 48 % 2 ^ 11 = 0
      | _ => v.toNat / 2 ^ 11 % 2 ^ 48 = 0)

/-- What a write of v leaves in a device register with RW fields (25 R379): PDL of a die (23 R353), PXFRAME and PXHAND of a
Proctor core (25 R378); none where the register has none. -/
def deviceKeeps (off : Nat) (v : Word) : Option Word :=
  if off = 0 ∨ off = 0x10000000 ∨ off = 0x20000000 ∨ off = 0x30000000 then some (v &&& 0xFFFFFFFF)
  else if 0x40000000 ≤ off ∧ off < 0x40000100 ∧ off % 8 = 0 then some (v &&& 0x000FFFFFFFFFFFF0)
  else none

/-- The device register in which a junction sensor reads (25 R379). -/
def sensorRegister (r : SensorReading) : Nat :=
  if r.die < 4 then r.die * 0x10000000 + 0x10 + 8 * r.sensor else 0x40200010 + 8 * r.sensor

/-! Host memory and the ring. -/

/-- n bytes of host memory as a number, lowest first. -/
def hostNumber (s : State) (a n : Nat) : Nat := leValue ((List.range n).map (fun i => Config.hostByte s.tick (a + i)))

/-- The command that a slot holds (25 R394). -/
structure SlotHolds (s : State) (a : Nat) (c : Command) : Prop where
  typ : c.typ.toNat = hostNumber s a 2
  dom : c.dom.toNat = hostNumber s (a + 2) 1
  flg : c.flg.toNat = hostNumber s (a + 3) 1
  tgt : c.tgt.toNat = hostNumber s (a + 4) 2
  htag : c.htag.toNat = hostNumber s (a + 8) 8
  ops : [c.op0, c.op1, c.op2, c.op3, c.op4, c.op5].map BitVec.toNat = (List.range 6).map (fun i => hostNumber s (a + 16 + 8 * i) 8)
  cseq : c.cseq.toNat = hostNumber s (a + 64) 8
  mac : c.mac.toNat = hostNumber s (a + 80) 48
  zeros : c.zeros = true ↔ hostNumber s (a + 6) 2 = 0 ∧ hostNumber s (a + 72) 8 = 0

/-! Power, heat, links. -/

/-- Everything is as after reset but the configuration flash and what has already left for the host (01 R30). -/
structure LostPower (s t : State) : Prop where
  power : t.power = .off
  machine : t.sys = State.reset.sys ∧ t.lanes = State.reset.lanes ∧ t.cores = [] ∧ t.threads = [] ∧ t.fabric = State.reset.fabric
    ∧ t.sched = State.reset.sched ∧ t.proctor = State.reset.proctor
  host : { t.host with flashNode := none, hssUsed := 0, staged := none, msix := [], writes := [] } = HostSys.reset
  flash : t.host.flashNode = s.host.flashNode ∧ t.host.hssUsed = s.host.hssUsed ∧ t.host.staged = s.host.staged

/-- The module serves its host port: as bridge, or with a bring-up step that failed (01 R27, 25 R382). -/
def Serves (h : HostSys) : Prop := h.bridge = true ∨ h.fail ≠ 0

/-- The host port with these MSI-X vectors signalled, where the module serves it (25 R393). -/
def Signalled (h h' : HostSys) (vs : List Nat) : Prop :=
  { h' with msix := h.msix } = h ∧ (Serves h → h'.msix = h.msix ++ vs) ∧ (¬ Serves h → h'.msix = h.msix)

/-- A bring-up step fails (25 R381, R382, R384): the firmware in flash does not verify; steps 1 to 4 meet a failure; the node
number is another module's, of a lower serial number. -/
def StepFails (s : State) (b : BringUp) (code : Nat) : Prop :=
  let forged := ∃ f, s.host.staged = some f ∧ brynpolVerifies f = false
  let met := 1 ≤ b.fail ∧ b.fail ≤ 4
  forged ∧ code = 1 ∨ ¬ forged ∧ met ∧ code = b.fail
    ∨ ¬ forged ∧ ¬ met ∧ code = 5 ∧ ∃ n a, s.host.flashNode = some n ∧ a ∈ b.announced ∧ a.1 = n ∧ a.2.toNat < b.serial.toNat

/-- A junction is above a temperature in °C once a reading is taken (25 R379). -/
def Above (s : State) (r : SensorReading) (c : Nat) : Prop :=
  c * 256 < r.temp ∨ ∃ x ∈ s.proctor.sensors, x.1 ≠ r.die * 8 + r.sensor ∧ c * 256 < x.2.toNat

/-- LSTAT of a trained or failed port reads (25 R380). -/
def lstatReads (s : State) (port : Nat) : Option Word := readDevice s (0x40100000 + 8 * port)

/-- A port's LSTAT changed alone among the ports. -/
def OnlyPort (s t : State) (port : Nat) (x : Word) : Prop :=
  lstatReads t port = some x ∧ ∀ q, q < 24 → q ≠ port → lstatReads t q = lstatReads s q

/-- The value that an atomic of another module writes, none for no write, by its operation as 11 R180 numbers it. -/
def remoteAtomic (op w old data compare : Nat) : Option Nat :=
  let i := [Instr.amoswap 0 0 0 0 0 0, .amoadd 0 0 0 0 0 0, .amoand 0 0 0 0 0 0, .amoor 0 0 0 0 0 0, .amoxor 0 0 0 0 0 0,
    .amomin 0 0 0 0 0 0, .amomax 0 0 0 0 0 0, .amominu 0 0 0 0 0 0, .amomaxu 0 0 0 0 0 0, .amocas 0 0 0 0 0 0, .amold 0 0 0 0 0,
    .amost 0 0 0 0 0].getD op (.amold 0 0 0 0 0)
  (atomicTable (BitVec.ofNat w old) (BitVec.ofNat w data) (BitVec.ofNat w compare) i).map BitVec.toNat

/-! Caches, errors, pairs. -/

/-- The tags of every slice are a table in order. -/
def TagsInOrder (s : State) : Prop := ∀ k sl, tableGet k s.sys.cache = some sl → keysRise sl.tags = true

/-- The home slice of a line has a tag and an entry free (07 R117). -/
def SliceHasRoom (s : State) (line : Nat) : Prop :=
  ∀ sl, tableGet (sliceOf line) s.sys.cache = some sl → sl.tags.length < 65536 ∧ sl.entries.length < 32768

/-- Only the shared caches and the poison marks of HBM may differ. -/
structure OnlyCaches (s t : State) : Prop where
  rest : SameSurroundings s t
  sys : { t.sys with cache := s.sys.cache, poison := s.sys.poison } = s.sys
  threads : t.threads = s.threads
  proctor : t.proctor = s.proctor

/-- The machine, and the frames to release, once the leaves that satchels kept are gone (25 R402, 23 R357). -/
def unpinned (s : State) (i : Invalidation) : State × List Nat :=
  match tableGet i.dom s.proctor.domains with
  | some d => i.kept.foldl (fun acc x => dropLeaf acc d.root x.1) (s, i.release)
  | none => (s, i.release)

/-- An access that a thread, resident or saved, has translated and not yet performed lies in a frame that the invalidation
releases, or a satchel pins a page of its range (25 R402, 23 R357). -/
def HeldBack (s : State) (i : Invalidation) : Prop :=
  (∃ x ∈ i.kept, satchelPinned s i.dom x.1 x.2 = true) ∨
  ∃ t : Thread, ((∃ n, (n, t) ∈ s.threads) ∨ ∃ n k m f sv, (n, k) ∈ s.sched.kernels ∧ (m, f) ∈ k.forms ∧ sv ∈ f.saved ∧ sv.thread = t)
    ∧ ∃ f ∈ pendingFrames t, f ∈ (unpinned s i).2

/-- A TLB entry that an invalidation removes (25 R402). -/
def Removed (i : Invalidation) (e : TlbEntry) : Prop :=
  e.dom = i.dom ∧ e.asid = i.dom ∧ e.page * 2 ^ pageBits e.level < i.hi ∧ i.lo < (e.page + 1) * 2 ^ pageBits e.level

/-- The thread whose group holds the lanes of a slot: one that has a partner there, or the slot's own (03 R55). -/
def LanesOf (s : State) (slot tid : Nat) : Prop :=
  let partner := fun (t : Thread) => ∃ p ∈ t.partners, p.core * 8 + p.slot = slot
  (∃ t, (tid, t) ∈ s.threads ∧ partner t) ∧ (∀ x ∈ s.threads, partner x.2 → x.1 = tid)
    ∨ tid = slot ∧ ∀ x ∈ s.threads, ¬ partner x.2

/-- The log gains one record of a TYPE, in the place of a UNIT (23 R373). -/
def Logged (s t : State) (typ unit : Nat) : Prop :=
  t.proctor.logNext = s.proctor.logNext + 1
    ∧ ∃ r, t.proctor.log.getLast? = some r ∧ r.w0.toNat / 2 ^ 56 = typ ∧ r.w1.toNat / 2 ^ 56 = unit

/-- DIE, CLU, CORE and SLOT of a thread as word 0 of a record places them (23 R347). -/
def coordWord (tid : Nat) : Word :=
  BitVec.ofNat 64 (tid / 384 * 2 ^ 48 + tid / 64 % 6 * 2 ^ 45 + tid / 8 % 8 * 2 ^ 42 + tid % 8 * 2 ^ 39)

/-- Nothing of a member's commits is left to do, and nothing waits for its next boundary. -/
structure CommitsFree (g : Group) : Prop where
  queues : g.issues = [] ∧ g.leaving = [] ∧ g.outgoing = [] ∧ g.posts = [] ∧ g.notifies = []
  done : g.committing = false

/-- A paired member after a mismatch (23 R370): it stands at the checkpoint of its oldest closed strip, with the blocks taken
since to take again. -/
structure BackTo (y g : Group) (c : ClosedStrip) : Prop where
  core : y.core = c.strip.ckpt.core
  none : y.closed = [] ∧ y.redo = [] ∧ y.running = true ∧ y.committing = false
  blocks : y.block = c.block ∧ y.vblk = g.redo.drop c.blocks ++ g.vblk
  strip : (c.strip.setvl = true → y.strip = .none ∧ y.replay = some c.strip.grant)
    ∧ (c.strip.setvl = false → y.strip = some { c.strip with effects := [], written := [], flags := 0, k := 0 })

/-- A member whose oldest external event is done (23 R368). -/
def eventDone (t : Thread) (c : ScalarCtx) : Thread := { t with events := t.events.drop 1, waiting := none, ctx := c }

end Sys2Proof.Safety
end

