-- ==== Sys2Proof/Safety/Timetable.lean ====
section
/-! DEFINITION. Forms as they start, stop and end: initial registers, the satchel's words, status words, as chapters 21 and 23 set them out, for claims to compare the machine with. -/

namespace Sys2Proof.Safety

open Sys2Proof.Machine

/-- SZ of a thread's stack region (21 R330), VLB being four times VLHI (09 R162). -/
def stackRegion (im : Image) (e : KernelEntry) : Nat := (e.framea + (e.frameb + e.spillb) * (4 * im.vlhi) + 63) / 64 * 64

/-- The thread word in g3 (21 R332). -/
def wordOfThread (form res tid i : Nat) : Nat :=
  form * 2 ^ 40 + res * 2 ^ 24 + tid / 384 * 2 ^ 14 + tid / 64 % 6 * 2 ^ 11 + tid / 8 % 8 * 2 ^ 8 + i

/-- A lane group as its form starts (21 R331). -/
structure GroupStarts (g : Group) (x : Seat) : Prop where
  queues : g.vblk = [] ∧ g.vreply = [] ∧ g.running = false ∧ g.strip = none ∧ g.waiting = none
  core : g.core.vl = 0 ∧ g.core.ty = 0 ∧ g.core.sg = 0 ∧ g.core.mfmt = 0 ∧ g.core.vssn = 0 ∧ g.core.w = Vector.replicate 16 0
    ∧ g.core.lc = Vector.replicate 6 0
  slate : g.slots = [] ∧ g.core.streams = [] ∧ g.core.window = none ∧ g.core.tables = [] ∧ g.core.links = []
  blocks : g.block0 = x.block0 ∧ g.nblk = x.nblk

/-- Thread i of a newly admitted form (21 R331). -/
structure ThreadStarts (t : Thread) (k : Kernel) (lnum : Nat) (f : Form) (im : Image) (e : KernelEntry) (x : Seat) (i : Nat) : Prop where
  pc : t.ctx.pc = e.entry + BitVec.ofNat 64 im.base
  link : t.ctx.rd 1 = 0
  stack : t.ctx.rd 2 = BitVec.ofNat 64 (k.card.stk + (f.res * e.threads + i) * stackRegion im e + stackRegion im e)
  word : t.ctx.rd 3 = BitVec.ofNat 64 (wordOfThread f.no f.res x.tid i)
  args : ∀ j, j < 8 → t.ctx.rd (BitVec.ofNat 5 (4 + j)) = k.card.args.getD j 0
  others : ∀ r : BitVec 5, 12 ≤ r.toNat → t.ctx.rd r = 0
  flags : t.ctx.fflags = 0 ∧ t.ctx.fmode = 0 ∧ t.ctx.seed = 0
  span : t.att = BitVec.ofNat 4 (2 ^ (x.tid / 384)) ∧ t.pend = 0
  own : t.lnum = lnum ∧ t.form = f.no ∧ t.res = f.res ∧ t.f = i
  idle : t.waiting = none ∧ t.stopped = false ∧ t.faulted = false ∧ t.loader = none
  group : (x.nblk = 0 → t.group = none) ∧ (x.nblk ≠ 0 → ∃ g, t.group = some g ∧ GroupStarts g x)

/-- A kernel's work is over (21 R322): no copy, no run, no held post and no thread of it is left. -/
def WorkDone (s : State) (lnum : Nat) : Prop :=
  (∀ j ∈ s.fabric.copies, j.2.own.lnum ≠ lnum) ∧ (∀ o ∈ s.fabric.orphans, o.lnum ≠ lnum)
    ∧ (∀ p ∈ s.fabric.latePosts, p.1 ≠ lnum) ∧ ∀ t ∈ s.threads, t.2.lnum ≠ lnum

/-- The status word of a done kernel (21 R319). -/
def kernelStatus (cause det fdone : Nat) : Word :=
  BitVec.ofNat 64 (2 ^ 63 + (if cause = 0 then 0 else 2 ^ 62) + cause * 2 ^ 56 + det * 2 ^ 48 + fdone % 2 ^ 48)

end Sys2Proof.Safety
end

