-- ==== Sys2Proof/Safety/Host.lean ====
section
/-! DEFINITION. The host's commands as chapter 25 sets them out: which slot is accepted, what the journal gains, the report, for claims to compare the machine with. -/

namespace Sys2Proof.Safety

open Sys2Proof.Machine

/-- The TYPE and the SEQ of a command's event (25 R396). -/
def commandEvent : Instr → Option (Nat × Nat)
  | .dcreate seq => some (1, seq)
  | .ddestroy seq => some (2, seq)
  | .load seq => some (3, seq)
  | .unload seq => some (4, seq)
  | .launch seq => some (5, seq)
  | .cancel seq => some (6, seq)
  | .stagein seq => some (7, seq)
  | .stageout seq => some (8, seq)
  | .map seq => some (9, seq)
  | .unmap seq => some (10, seq)
  | .attest seq => some (11, seq)
  | .mcode seq => some (12, seq)
  | .fwstage seq => some (13, seq)
  | .nodeset seq => some (14, seq)
  | _ => none

/-- The types that take no MAC (25 R396). -/
def NoMac (typ : Nat) : Prop := typ = 1 ∨ typ = 11 ∨ typ = 12 ∨ typ = 13 ∨ typ = 14

/-- The next slot holds a command of a type, its SEQ is the one that the event names, the entry that it would overwrite is
final (25 R398), and the ring holds no slot after it. -/
structure CommandReady (s : State) (c : Command) (typ seq : Nat) : Prop where
  pending : s.host.pending = some c
  typ : c.typ.toNat = typ
  next : s.host.nextSeq = seq
  journal : keysRise s.host.journal = true
  room : 2 ^ 20 < seq → ∀ e, tableGet (seq - 2 ^ 20) s.host.journal = some e → e.state = 2 ∨ 4 ≤ e.state
  ring : s.host.head + 1 = s.host.tail
  fresh : ∀ q, s.proctor.queued.head? = some q → q.seq ≠ seq

/-- A slot that R394 makes malformed, or whose type a module of no number, or one that failed with FAIL 5, does not take
(25 R382, R384, R394). -/
def Malformed (s : State) (c : Command) : Prop :=
  c.zeros = false ∨ 4 ≤ c.flg.toNat ∨ (s.host.node = 0x7FF ∧ c.typ.toNat ≠ 11 ∧ c.typ.toNat ≠ 13 ∧ c.typ.toNat ≠ 14)
    ∨ (s.host.fail = 5 ∧ c.typ.toNat ≠ 14) ∨ (NoMac c.typ.toNat ∧ ¬ (c.dom = 0xFF ∧ c.cseq = 0 ∧ c.mac = 0)) ∨ (¬ NoMac c.typ.toNat ∧ 64 ≤ c.dom.toNat)

/-- Bytes 0 to 79 of a command (25 R394). -/
def macText (c : Command) : List Byte :=
  bytesOf 2 c.typ.toNat ++ bytesOf 1 c.dom.toNat ++ bytesOf 1 c.flg.toNat
    ++ bytesOf 2 c.tgt.toNat ++ bytesOf 2 0 ++ bytesOf 8 c.htag.toNat ++ bytesOf 8 c.op0.toNat ++ bytesOf 8 c.op1.toNat
    ++ bytesOf 8 c.op2.toNat ++ bytesOf 8 c.op3.toNat ++ bytesOf 8 c.op4.toNat ++ bytesOf 8 c.op5.toNat
    ++ bytesOf 8 c.cseq.toNat ++ bytesOf 8 0

/-- The MAC of a command is the one of its bytes 0 to 79 under its domain's command key (25 R394, R410). -/
def MacRight (d : Domain) (c : Command) : Prop := c.mac.toNat = leValue (hmac384 d.command (macText c))

/-- A slot that is accepted before its operands are looked at: not malformed, its domain there, its MAC right, its CSEQ the
next one (25 R395). -/
structure SlotAccepted (s : State) (c : Command) : Prop where
  form : ¬ Malformed s c
  maced : ¬ NoMac c.typ.toNat → ∃ d, tableGet c.dom.toNat s.proctor.domains = some d ∧ d.dying = none
    ∧ MacRight d c ∧ c.cseq.toNat = d.cseq + 1

/-- An accepted command has raised its domain's CSEQ (25 R395). -/
def counted (s : State) (c : Command) (seq : Nat) : State :=
  { s with proctor := { s.proctor with domains := tableMod c.dom.toNat (fun d => { d with cseq := seq }) s.proctor.domains } }

/-- The journal gains the command's entry (25 R397), HEAD passes its slot, and vector 0 signals a final state where NTF asks for
it and the module serves its port (01 R27, 25 R393); apart from these the machine is s. -/
structure Journalled (s u : State) (c : Command) (state det : Nat) (result : Word) : Prop where
  entry : tableGet s.host.nextSeq u.host.journal = some
    { seq := s.host.nextSeq, cmd := c, state := state, det := det, src := 1024 + s.host.brn.toNat, result := result, tacc := s.cycle 4
      tend := if state = 2 ∨ 4 ≤ state then s.cycle 4 else 0 }
  others : ∀ n, n ≠ s.host.nextSeq → n + 2 ^ 20 ≠ s.host.nextSeq → tableGet n u.host.journal = tableGet n s.host.journal
  rest : { u with host := { u.host with journal := s.host.journal } } =
    { s with host := { s.host with
        nextSeq := s.host.nextSeq + 1, head := s.host.head + 1, pending := none
        msix := s.host.msix ++ (if (state = 2 ∨ 4 ≤ state) ∧ c.flg.getLsbD 0 = true ∧ (s.host.bridge = true ∨ s.host.fail ≠ 0) then [0] else []) } }

/-- A command's event answers with its entry, the machine otherwise being t: a refused command changes no CSEQ. -/
def Answers (i : Instr) (s t : State) (c : Command) (state det : Nat) (result : Word) : Prop :=
  ∃ u, exec i s = .next u
    ∧ Journalled (if state = 2 ∨ c.typ.toNat = 1 ∨ 11 ≤ c.typ.toNat then t else counted t c c.cseq.toNat) u c state det result

/-- n bytes of host memory. -/
def hostSlice (s : State) (a n : Nat) : List Byte := (List.range n).map (fun k => Config.hostByte s.tick (a + k))

/-- The bridge has written bytes to host memory, with nothing else. -/
def wroteHost (s : State) (a : Nat) (bs : List Byte) : State := { s with host := { s.host with writes := s.host.writes ++ [(a, bs)] } }

/-- The bytes of a report up to its signatures (25 R409). -/
def reportHead (s : State) (dom : Nat) (keydig nonce epub : List Byte) : List Byte :=
  bytesOf 4 0x52545441 ++ bytesOf 2 1 ++ bytesOf 2 1 ++ bytesOf 8 s.host.serial.toNat
    ++ sha384 (s.host.running.getD Config.shippedFirmware)
    ++ bytesOf 4 (dieLevel s 0) ++ bytesOf 4 (dieLevel s 1) ++ bytesOf 4 (dieLevel s 2) ++ bytesOf 4 (dieLevel s 3)
    ++ bytesOf 1 dom ++ bytesOf 7 0 ++ keydig ++ nonce ++ epub

/-- The machine after it has written a report to the host, the state of its signatures advanced (25 R408). -/
def reported (s : State) (a dom : Nat) (keydig nonce epub : List Byte) : State :=
  let h := { s.host with hssUsed := s.host.hssUsed + 1 }
  let body := reportHead s dom keydig nonce epub
  wroteHost { s with host := h } a (body ++ beBytes 96 (Config.reportEc s.host.hssUsed body).toNat ++ bytesOf 4 3604
    ++ beBytes 3604 (Config.reportHss s.host.hssUsed body).toNat)

/-- The HBM address of each 16-byte piece of a range of a domain (25 R396). -/
def StagedAt (s : State) (dom root va n : Nat) (k : Access) (pa : Nat → Nat) : Prop :=
  ∀ i, i < n / 16 → translate s (engineAccessor dom dom root) (va + 16 * i) k = .ok (pa i) ∧ ∃ d p, physKind (pa i) = .hbm d p

/-- A kernel has ended with CAUSE 5, unless it had ended before (21 R323). -/
structure Cancelled (s t : State) (lnum : Nat) : Prop where
  ends : ∀ k, s.kernel lnum = some k → k.ended = none → k.done = none →
    ∃ k', t.kernel lnum = some k' ∧ k'.ended = some (5, 0) ∧ k'.forms = []
  already : ∀ k, s.kernel lnum = some k → (k.ended ≠ none ∨ k.done ≠ none) → t = s

/-- A region that MAP's operands describe (25 R396, R401). -/
def mapRegion (c : Command) : Region :=
  let f := c.op2.toNat
  { dom := c.dom.toNat, base := c.op0.toNat, len := c.op1.toNat, page := f / 16 % 4, lazy := f.testBit 0, nsh := f.testBit 1
    wr := f.testBit 2, ex := f.testBit 3, die := 0 }

/-- MAP's operands keep the rules of ALLOC and of R396. -/
def MapLegal (c : Command) : Prop :=
  let r := mapRegion c
  c.op2.toNat < 64 ∧ r.page ≠ 3 ∧ ¬ (r.wr = true ∧ r.ex = true) ∧ r.len ≠ 0 ∧ r.len ≤ 2 ^ 40 ∧ r.base % pageSize r.page = 0
    ∧ r.len % pageSize r.page = 0 ∧ r.base + r.len ≤ 0x00FFFFFFFF000000
    ∧ (r.base + r.len ≤ 0x00FFFFFFFEFF0000 ∨ 0x00FFFFFFFF000000 ≤ r.base)

/-- No taken range of a domain meets a range. -/
def RangeFree (s : State) (dom base len : Nat) : Prop := ∀ x ∈ takenRanges s dom, base + len ≤ x.1 ∨ x.1 + x.2 ≤ base

/-- A package's microcode may not be taken: it lowers a die's level, or drops what a kernel not yet done relies on (25 R423). -/
def PackageBad (s : State) (m : Microcode) : Prop :=
  (∃ d, d < 4 ∧ m.level.toNat < dieLevel s d)
    ∨ ∃ n k im x, (n, k) ∈ s.sched.kernels ∧ k.done = none ∧ s.image k.image = some im ∧ x ∈ im.uses ∧ m.provides x = false

/-- The machine with an update begun at a die (25 R422). -/
def updating (s : State) (seq die : Nat) (m : Microcode) (h : die < 4) : State :=
  { s with proctor := { s.proctor with
      update := some { seq := seq, code := m, die := die }
      micro := s.proctor.micro.set die { s.proctor.micro[die] with upd := true } } }

end Sys2Proof.Safety
end

