-- ==== Sys2Proof/Safety/Turns.lean ====
section
/-! DEFINITION. Turns, fetching and what every step adds (03 R34, R41; 09 R134 to R137; 11 R196), and the words of chapter 09, for claims to compare the machine with. -/

namespace Sys2Proof.Safety

open Sys2Proof.Machine

/-- The turn that comes next, and the machine with it taken from the agenda (log 1). -/
def TurnComes (s : State) (turn : Turn) (u : State) : Prop :=
  (s.agenda = turn :: u.agenda ∧ u = { s with agenda := u.agenda }) ∨ (s.agenda = [] ∧ turn = Config.schedule s.tick ∧ u = s)

/-- What a step adds to an outcome: the units scan after a step that freed resources or accepted a kernel, then the tick and
the clocks advance. -/
def andSettles (o : Host.Outcome State Fault Refusal) : Host.Outcome State Fault Refusal :=
  match o with
  | .next t => .next (settle t)
  | .fault f => .fault f
  | .refused r => .refused r

/-- A parcel can be fetched at an address: aligned, translated as a fetch, a route to it, no poison; its bytes lie lowest first
(09 R134, R137). -/
structure ParcelAt (s : State) (a : Accessor) (pc : Word) (p : Parcel) : Prop where
  aligned : pc.toNat % 4 = 0
  read : ∃ pa, translate s a pc.toNat .fetch = .ok pa ∧ Usable s pa 4 ∧ p.toNat = leValue (presentBytes s pa 4)

/-- A control thread may take its next instruction (03 R34, 11 R167). -/
structure ThreadFree (s : State) (tid : Nat) (t : Thread) : Prop where
  here : s.thread tid = some t
  awake : t.waiting = none ∧ t.faulted = false ∧ t.stopped = false ∧ t.poisoned = false
  loader : ∀ h, t.loader = some h → h.leaving = false
  holes : ∀ e ∈ s.fabric.holes, e.2.owner = some ⟨tid, t.lnum, t.form⟩ → e.2.cause = none

/-- A sequencer may take its next instruction (03 R41). -/
structure SequencerFree (s : State) (tid : Nat) (t : Thread) (g : Group) : Prop where
  here : s.thread tid = some t
  group : t.group = some g
  awake : g.running = true ∧ g.waiting = none ∧ g.faulted = false ∧ g.stop = none ∧ g.poisoned = false

/-- An instruction that no instruction stream holds: a step of another agent. -/
def OfAnotherAgent (i : Instr) : Prop := encode i = [] ∧ ∀ hi lo, i ≠ .undefinedEncoding hi lo

end Sys2Proof.Safety
end

