-- ==== Sys2Proof/Certificates/Slice0/Obligations.lean ====
section
/-! DEFINITION. The statements about the machine that the provers are to settle. -/

open Sys2Proof Sys2Proof.Machine Sys2Proof.Safety

/-! Scalar instructions: chapter 11. -/

/-- 11 R169: every register-register integer instruction writes the table's result, as 11 R165 sets out, raises no flag
and no fault, and changes nothing else. -/
def Obligations.IntegerRegisterResults : Prop :=
  ∀ (s : State) (c : ScalarCtx) (i : Instr) (rd : BitVec 5) (v : Word),
    s.ctx = some c →
    integerTable (c.rd (integerSources i).1) (c.rd (integerSources i).2) i = some (rd, v) →
    Completes i s c rd v 0

/-- 11 R170, R171: the register-immediate instructions, LUI and AUIPC. -/
def Obligations.IntegerImmediateResults : Prop :=
  (∀ (s : State) (c : ScalarCtx) (i : Instr) (rd : BitVec 5) (v : Word),
    s.ctx = some c → immediateTable (c.rd (immediateSource i)) i = some (rd, v) → Completes i s c rd v 0)
  ∧ (∀ (s : State) (c : ScalarCtx) (rd : BitVec 5) (imm : BitVec 21), s.ctx = some c →
      Completes (.lui rd imm) s c rd (wrap (imm.toInt * 2 ^ 16)) 0
      ∧ Completes (.auipc rd imm) s c rd (wrap (c.pc.toNat + imm.toInt * 2 ^ 16)) 0)

/-- 11 R177 to R179 with R176: the scalar floating instructions write the value, zero above its width, gather the flags
and change nothing else. -/
def Obligations.ScalarFloatResults : Prop :=
  ∀ (s : State) (c : ScalarCtx) (i : Instr) (rd : BitVec 5) (x : Nat) (g : Flags),
    s.ctx = some c → i.wf = true → floatTable c i = some (rd, x, g) → Completes i s c rd (wrap x) g

/-- 11 R174, R175: where branches and jumps go and what they write, and that a jump to the loader return address by a
thread that runs its loader sets the loader's end going (19 R310) and nothing else. -/
def Obligations.BranchesAndJumps : Prop :=
  (∀ (s : State) (c : ScalarCtx) (i : Instr) (p : Prop) (off : Int),
    s.ctx = some c → branchTable c i = some (p, off) →
    (p → JumpsTo i s c (wrap (c.pc.toNat + 4 * off))) ∧
    (¬p → ∃ t, exec i s = .next t ∧ OnlyRegisters s t { c with pc := c.pc + 4 }))
  ∧ (∀ (s : State) (c : ScalarCtx) (off : BitVec 26), s.ctx = some c →
      JumpsTo (.j off) s c (wrap (c.pc.toNat + 4 * off.toInt))
      ∧ JumpsTo (.jal off) s (c.wr 1 (c.pc + 4)) (wrap (c.pc.toNat + 4 * off.toInt)))
  ∧ (∀ (s : State) (c : ScalarCtx) (rd rs1 : BitVec 5) (imm : BitVec 16), s.ctx = some c →
      (wrap ((c.rd rs1).toNat + imm.toInt)).toNat % 4 = 0 →
      JumpsTo (.jalr rd rs1 imm) s (c.wr rd (c.pc + 4)) (wrap ((c.rd rs1).toNat + imm.toInt)))
  ∧ (∀ (s : State) (c : ScalarCtx) (rd rs1 : BitVec 5) (imm : BitVec 16), s.ctx = some c →
      let t := (wrap ((c.rd rs1).toNat + imm.toInt)).toNat
      t % 4 ≠ 0 → Faults (.jalr rd rs1 imm) s 3 [0, t, 0])

/-- 11 R172: plain loads read n bytes at rs1 plus the offset and write rt, and change no memory and no granule state. -/
def Obligations.PlainLoads : Prop :=
  ∀ (s : State) (a : Agent) (i : Instr) (rt rs1 : BitVec 5) (imm : Int) (n : Nat) (signed : Bool) (pa : Nat),
    agentOf s = some a → i.wf = true → loadForm i = some (rt, rs1, imm, n, signed) →
    addressOf a.ctx rs1 imm % n = 0 →
    translate s a.acc (addressOf a.ctx rs1 imm) .read = .ok pa → Reachable s pa → poisonAt s.sys pa n = none →
    ∃ t c', exec i s = .next t ∧ LoadedInto a.ctx c' rt n signed (leValue (seenBytes s a pa n)) ∧ OnlyRegisters s t c'

/-- 11 R172, R173: stores write n bytes at rs1 plus the offset, filling stores in the scratchpad window only, and change no
other byte and no register but PC. -/
def Obligations.PlainAndFillingStores : Prop :=
  ∀ (s : State) (a : Agent) (i : Instr) (rt rs1 : BitVec 5) (imm : Int) (n : Nat) (fill : Bool) (pa : Nat),
    Memory.wf s.sys.mem = true → cellsWf s.sys.granules = true →
    agentOf s = some a → i.wf = true → storeForm i = some (rt, rs1, imm, n, fill) →
    addressOf a.ctx rs1 imm % n = 0 → (fill = true → 0x00FFFFFFFF000000 ≤ addressOf a.ctx rs1 imm) →
    translate s a.acc (addressOf a.ctx rs1 imm) .write = .ok pa → Reachable s pa →
    external a (addressOf a.ctx rs1 imm) = false →
    CompletesStore i s a.ctx pa (storeData a.ctx rt n) fill

/-- 11 R173, 07 R111: a consuming load whose granules are all full reads as its plain counterpart; .WC leaves them empty and
.W full. While one is empty and none poisoned it waits before every effect, which keeps PC, registers and memory
(11 R167). -/
def Obligations.ConsumingLoads : Prop :=
  ∀ (s : State) (a : Agent) (i : Instr) (rt rs1 : BitVec 5) (imm : Int) (n : Nat) (signed clear : Bool) (pa : Nat),
    cellsWf s.sys.granules = true →
    agentOf s = some a → i.wf = true → consumingForm i = some (rt, rs1, imm, n, signed, clear) →
    addressOf a.ctx rs1 imm % n = 0 → 0x00FFFFFFFF000000 ≤ addressOf a.ctx rs1 imm →
    translate s a.acc (addressOf a.ctx rs1 imm) .read = .ok pa → Reachable s pa →
    ((∀ u, pa / 16 ≤ u → u * 16 < pa + n → cellGet s.sys.granules u = 0b01) →
      poisonAt s.sys pa n = none → pairSettled a = true →
      ∃ t c', exec i s = .next t ∧ LoadedInto a.ctx c' rt n signed (leValue (seenBytes s a pa n)) ∧ SameSurroundings s t
        ∧ OnlyActor s t (fun x => { x with ctx := c' }) (fun p => { p with ctx := c' })
        ∧ (∀ u, cellGet t.sys.granules u =
            if clear = true ∧ pa / 16 ≤ u ∧ u * 16 < pa + n then 0b00 else cellGet s.sys.granules u)
        ∧ { t.sys with granules := s.sys.granules } = s.sys)
    ∧ ((∀ u, pa / 16 ≤ u → u * 16 < pa + n → cellGet s.sys.granules u ≠ 0b10) →
      (∃ u, pa / 16 ≤ u ∧ u * 16 < pa + n ∧ cellGet s.sys.granules u ≠ 0b01) →
      ∃ t, exec i s = .next t ∧ t.sys = s.sys ∧ SameSurroundings s t
        ∧ OnlyActor s t (fun x => { x with waiting := some i }) (fun p => { p with waiting := some i }))

/-- 11 R180: an atomic reads n bytes at rs1, writes the table's new value where it writes, puts the sign-extended old value
in rd (AMOST in none), and changes nothing else. A failed AMOCAS and AMOLD write nothing. -/
def Obligations.Atomics : Prop :=
  ∀ (s : State) (a : Agent) (i : Instr) (rd rs1 rs2 : BitVec 5) (ord asz : BitVec 2) (pa : Nat),
    Memory.wf s.sys.mem = true → cellsWf s.sys.granules = true →
    agentOf s = some a → i.wf = true → atomicForm i = some (rd, rs1, rs2, ord, asz) →
    let n := if asz = 2 then 4 else 8
    let va := (a.ctx.rd rs1).toNat
    let old := BitVec.ofNat (8 * n) (leValue (seenBytes s a pa n))
    let ro := match i with | .amold .. => true | _ => false
    va % n = 0 → translate s a.acc va (.atomic ro) = .ok pa → Reachable s pa → poisonAt s.sys pa n = none →
    Solo a → orderMet a ord →
    ∃ t c', exec i s = .next t
      ∧ WroteOne a.ctx c' (match i with | .amost .. => 0 | _ => rd) (old.signExtend 64) 0
      ∧ SameSurroundings s t ∧ OnlyActor s t (fun x => { x with ctx := c' }) (fun p => { p with ctx := c' })
      ∧ (match atomicTable old ((a.ctx.rd rs2).setWidth (8 * n)) ((a.ctx.rd rd).setWidth (8 * n)) i with
        | some x => StoredAt s t pa (bytesOf n x.toNat) false
        | none => t.sys = s.sys)

/-- 11 R181, R185, 07 R123: the fences and PHEND complete when what they wait for is done, changing PC alone, and FENCE.VV
the mark that the next posted block starts behind it; until then FENCE.VS and PHEND wait. A thread that owns no lane group
has nothing to wait for. -/
def Obligations.FencesAndPhaseEnd : Prop :=
  ∀ (s : State) (a : Agent), agentOf s = some a → pairSettled a = true →
    Completes .fenceSv s a.ctx 0 0 0
    ∧ CompletesAs .fenceVv s (fun x => { x with ctx := advance a.ctx, group := x.group.map (fun g => { g with fenced := true }) })
        (fun p => { p with ctx := advance a.ctx })
    ∧ ((∀ t, a.thread = some t → vectorDone t = true) → Completes .fenceVs s a.ctx 0 0 0)
    ∧ ((∃ t, a.thread = some t ∧ vectorDone t = false) → Waits .fenceVs s)
    ∧ ((∀ t, a.thread = some t → blocksDone t = true ∧ ∀ g, t.group = some g → ∀ e ∈ g.acks, e.2 = 0) →
        Completes .phend s a.ctx 0 0 0)
    ∧ ((∃ t, a.thread = some t ∧ (blocksDone t = false ∨ ∃ g, t.group = some g ∧ ∃ e ∈ g.acks, e.2 ≠ 0)) → Waits .phend s)

/-- 11 R182 to R184: BINIT writes a fresh object, ARRIVE and ARRIVE.DROP count an arrival and give the phase token, BWAIT
gives the phases elapsed, at most 255, or waits; a retired object, a second arrival and a count out of range fault with the
causes of 11 R183. -/
def Obligations.Barriers : Prop :=
  ∀ (s : State) (a : Agent) (rd rs1 rs2 : BitVec 5) (pa : Nat),
    Memory.wf s.sys.mem = true → cellsWf s.sys.granules = true → agentOf s = some a → pairSettled a = true → a.f < 64 →
    let va := (a.ctx.rd rs1).toNat
    va % 16 = 0 → 0x00FFFFFFFF000000 ≤ va → Reachable s pa →
    (translate s a.acc va .write = .ok pa → external a va = false →
      1 ≤ (a.ctx.rd rs2).toNat → (a.ctx.rd rs2).toNat ≤ 64 →
      CompletesStore (.binit rs1 rs2) s a.ctx pa (bytesOf 16 (barrierValue 0 0 0 (a.ctx.rd rs2).toNat)) false)
    ∧ (((a.ctx.rd rs2).toNat < 1 ∨ 64 < (a.ctx.rd rs2).toNat) → Faults (.binit rs1 rs2) s 10 [va, a.f, 0, 3])
    ∧ (∀ arrv phase pend exp : Nat, translate s a.acc va (.atomic false) = .ok pa → poisonAt s.sys pa 16 = none →
        BarrierOk arrv phase pend exp → leValue (seenBytes s a pa 16) = barrierValue arrv phase pend exp →
        (∀ drop : Bool,
          let i : Instr := if drop then .arriveDrop rd rs1 else .arrive rd rs1
          (exp ≠ 0 → arrv.testBit a.f = false →
            ∃ t c', exec i s = .next t ∧ WroteOne a.ctx c' rd (wrap phase) 0
              ∧ StoredAt s t pa (bytesOf 16 (arrivedValue arrv phase pend exp a.f drop)) false
              ∧ SameSurroundings s t ∧ OnlyActor s t (fun x => { x with ctx := c' }) (fun p => { p with ctx := c' }))
          ∧ (exp = 0 → Faults i s 10 [va, a.f, phase, 1])
          ∧ (exp ≠ 0 → arrv.testBit a.f = true → Faults i s 10 [va, a.f, phase, 0]))
        ∧ (let d := (phase + 2 ^ 16 - (a.ctx.rd rs2).toNat % 2 ^ 16) % 2 ^ 16
          (1 ≤ d ∧ d ≤ 32767 → Completes (.bwait rd rs1 rs2) s a.ctx rd (wrap (min d 255 : Nat)) 0)
          ∧ (d < 1 ∨ 32767 < d → Waits (.bwait rd rs1 rs2) s)))

/-- 11 R188 to R190: POSTB appends a block with its operands, FMODE and SEED to VBLK, GETR takes the oldest reply, WAITC
completes once each count is at or below its operand; each waits otherwise, and POSTB and GETR need a lane group. -/
def Obligations.BlocksRepliesAndCounts : Prop :=
  ∀ (s : State) (a : Agent) (tid : Nat) (t : Thread), agentOf s = some a → a.tid = some tid → a.thread = some t →
    (∀ (rs1 ra rb rc re : BitVec 5),
      (∀ g, t.group = some g → (a.ctx.rd rs1).toNat % 4 = 0 →
        (g.vblk.length < 64 → CompletesAs (.postb rs1 ra rb rc re) s (fun x => { x with
            ctx := advance a.ctx,
            group := x.group.map (fun g => { g with fenced := false, vblk := g.vblk ++ [(
              { addr := a.ctx.rd rs1, ops := #v[a.ctx.rd ra, a.ctx.rd rb, a.ctx.rd rc, a.ctx.rd re], fmode := a.ctx.fmode,
                seed := a.ctx.seed, fence := g.fenced } : VBlock)] }) }) id)
        ∧ (64 ≤ g.vblk.length → Waits (.postb rs1 ra rb rc re) s))
      ∧ (t.group = none → Faults (.postb rs1 ra rb rc re) s 2 [31, a.ctx.pc.toNat]))
    ∧ (∀ rd : BitVec 5,
      (∀ g v rest, t.group = some g → g.vreply = v :: rest →
        ∃ u c', exec (.getr rd) s = .next u ∧ WroteOne a.ctx c' rd v 0 ∧ SameSurroundings s u ∧ u.sys = s.sys
          ∧ OnlyActor s u (fun x => { x with ctx := c', group := x.group.map (fun g => { g with vreply := rest }) }) id)
      ∧ (∀ g, t.group = some g → g.vreply = [] → Waits (.getr rd) s)
      ∧ (t.group = none → Faults (.getr rd) s 2 [31, a.ctx.pc.toNat]))
    ∧ (∀ bl ns cp tl : BitVec 4,
      let c := countsOf s tid t
      let low := fun (b : BitVec 4) (n : Nat) => b.toNat = 15 ∨ n ≤ b.toNat
      (low bl c.1 ∧ low ns c.2.1 ∧ low cp c.2.2.1 ∧ low tl c.2.2.2 → Completes (.waitc bl ns cp tl) s a.ctx 0 0 0)
      ∧ (¬ (low bl c.1 ∧ low ns c.2.1 ∧ low cp c.2.2.1 ∧ low tl c.2.2.2) → Waits (.waitc bl ns cp tl) s))

/-- 11 R193, R194: a chart that no rule refuses becomes LSEAT.NEXT, a refused one leaves the machine to its privilege fault;
SPANATT and SPANREL set SPAN.PEND for the named dies whose state would change. -/
def Obligations.SeatingAndSpans : Prop :=
  ∀ (s : State) (a : Agent) (tid : Nat) (t : Thread) (rs1 : BitVec 5),
    agentOf s = some a → a.tid = some tid → a.thread = some t → keysRise s.cores = true →
    let x := (a.ctx.rd rs1).toNat
    let named := BitVec.ofNat 4 x
    (x < 2 ^ 32 → seatRefusal s tid t (BitVec.ofNat 32 x) = none →
      ∃ u, exec (.seat rs1) s = .next u ∧ (u.core (tid / 8)).nxt = BitVec.ofNat 32 x ∧ u.ctx = some (advance a.ctx)
        ∧ (∀ c, c ≠ tid / 8 → u.core c = s.core c) ∧ u.sys.mem = s.sys.mem ∧ u.sys.granules = s.sys.granules ∧ u.fabric = s.fabric
        ∧ ((∀ k, k < 8 → ∀ g, s.group (tid / 8 * 8 + k) = some g → g.idle = false) →
            u.lanes = s.lanes ∧ u.sys = s.sys ∧ u.sched = s.sched ∧ (u.core (tid / 8)).cur = (s.core (tid / 8)).cur
              ∧ OnlyActor s u (fun y => { y with ctx := advance a.ctx }) id))
    ∧ (∀ code, x < 2 ^ 32 → seatRefusal s tid t (BitVec.ofNat 32 x) = some code →
        Faults (.seat rs1) s 2 [code, a.ctx.pc.toNat])
    ∧ (2 ^ 32 ≤ x → Faults (.seat rs1) s 1 [2, a.ctx.pc.toNat, 0])
    ∧ (x < 16 → t.group ≠ none →
        (named &&& ~~~ t.att = 0#4 ∨ t.lanes = 32 * t.partnerLanes
            ∧ ∀ d, d < 4 → named.getLsbD d = true → t.att.getLsbD d = false → ∃ p ∈ t.partners, p.die = d) →
        CompletesAs (.spanatt rs1) s (fun y => { y with ctx := advance a.ctx, pend := y.pend ||| (named &&& ~~~ t.att) }) id)
    ∧ (x < 16 → t.group ≠ none → named.getLsbD (tid / 384) = false →
        CompletesAs (.spanrel rs1) s (fun y => { y with ctx := advance a.ctx, pend := y.pend ||| (named &&& t.att) }) id)

/-- 11 R186, R187, 07 R114 to R116: each pigeonhole instruction of a thread outside a pair that the table allows: QCFG takes
the pigeonhole and configures it; QPOST and QTAKE move 64 bytes with HEAD, TAIL, COUNT, PS, TK and NOTIFY, a remote producer
with its counter, or wait; QWAITN and QSTAT read; QRESYNC recovers. -/
def Obligations.Pigeonholes : Prop :=
  ∀ (s : State) (a : Agent) (tid : Nat) (t : Thread) (rd rs1 rs2 : BitVec 5) (die clu num : Nat),
    Memory.wf s.sys.mem = true → cellsWf s.sys.granules = true → s.proctor.finj.getLsbD 63 = false →
    agentOf s = some a → a.tid = some tid → a.thread = some t → t.role = .solo → t.events = [] →
    die < 4 → clu < 6 → num < 64 → (a.ctx.rd rs1).toNat = handleBits die clu num →
    let cl := die * 6 + clu
    let n := cl * 64 + num
    let h := s.hole n
    let allowed := tid / 64 = cl ∧ ∃ o, h.owner = some o ∧ o.lnum = t.lnum ∧ o.form = t.form
    let poster := match h.remote with
      | some r => h.owner ≠ none ∧ r = tid
      | none => allowed
    (∀ remote base depth, (a.ctx.rd rs2).toNat = configBits remote base depth → ConfigOk cl remote base depth →
      tid / 64 = cl → (h.owner = none ∨ h.owner = some ⟨tid, t.lnum, t.form⟩) →
      a.acc.tr.spLo ≤ base → base + 64 * depth ≤ a.acc.tr.spHi → (remote = none ∨ t.acked = true) →
      ∃ u, exec (.qcfg rs1 rs2) s = .next u
        ∧ u.hole n = configuredHole ⟨tid, t.lnum, t.form⟩ ⟨remote.map (fun x => ((x.1 * 6 + x.2.1) * 8 + x.2.2.1) * 8 + x.2.2.2),
            base, depth⟩ h.gen
        ∧ OnlyHole s u n [] ∧ (∀ x, byteOf u x = byteOf s x)
        ∧ (∀ i k, i < h.count → k < 4 → h.base + 64 * ((h.head + i) % h.depth) < 2 ^ 24 →
            cellGet u.sys.granules (entryAddress cl h ((h.head + i) % h.depth) / 16 + k) = 0b00)
        ∧ OnlyActor s u (fun x => { x with ctx := advance a.ctx, acked := false }) id)
    ∧ (∀ bs, poster → (a.ctx.rd rs2).toNat % 64 = 0 → Readable64 s a (a.ctx.rd rs2).toNat bs →
      (h.remote = none → h.count < h.depth →
        ∃ u, exec (.qpost rs1 rs2) s = .next u ∧ StoredAt s u (entryAddress cl h h.tail) bs true
          ∧ u.hole n = { h with tail := (h.tail + 1) % h.depth, count := h.count + 1, ps := h.ps + 1, notify := h.notify + 1 }
          ∧ OnlyHole s u n [] ∧ OnlyActor s u (fun x => { x with ctx := advance a.ctx }) id)
      ∧ (∀ c, h.remote = some tid → h.counter = some c → h.frz = false → 0 < c.cnt → c.cnt ≤ 256 →
          c.parity = evenParity c.cnt →
        ∃ u, exec (.qpost rs1 rs2) s = .next u ∧ StoredAt s u (entryAddress cl h h.tail) bs true
          ∧ u.hole n = { h with tail := (h.tail + 1) % h.depth, count := h.count + 1, ps := h.ps + 1, notify := h.notify + 1,
                                counter := some { c with cnt := c.cnt - 1, parity := evenParity (c.cnt - 1) } }
          ∧ OnlyHole s u n [] ∧ OnlyActor s u (fun x => { x with ctx := advance a.ctx }) id)
      ∧ (h.remote = none → h.depth ≤ h.count → Waits (.qpost rs1 rs2) s)
      ∧ (∀ c, h.remote = some tid → h.counter = some c → (h.frz = true ∨ c.cnt = 0) → Waits (.qpost rs1 rs2) s))
    ∧ (∀ pa, allowed → (a.ctx.rd rs2).toNat % 64 = 0 → Writable64 s a (a.ctx.rd rs2).toNat pa →
      (0 < h.count → poisonAt s.sys (entryAddress cl h h.head) 64 = none →
        ∃ u c', exec (.qtake rd rs1 rs2) s = .next u ∧ WroteOne a.ctx c' rd ((h.tk + 1).setWidth 64) 0
          ∧ (∀ k, k < 64 → byteOf u (pa + k) = byteOf s (entryAddress cl h h.head + k)) ∧ BytesOutside s u pa 64
          ∧ (∀ k, k < 4 → entryAddress cl h h.head % 64 = 0 →
              cellGet u.sys.granules (entryAddress cl h h.head / 16 + k) = 0b00)
          ∧ u.hole n = { h with head := (h.head + 1) % h.depth, count := h.count - 1, tk := h.tk + 1 }
          ∧ OnlyHole s u n (if h.remote = none then [] else [⟨n, h.gen, h.tk⟩])
          ∧ OnlyActor s u (fun x => { x with ctx := c' }) id)
      ∧ (h.count = 0 → Waits (.qtake rd rs1 rs2) s))
    ∧ (allowed →
      (h.notify ≠ a.ctx.rd rs2 → Completes (.qwaitn rd rs1 rs2) s a.ctx rd h.notify 0)
      ∧ (h.notify = a.ctx.rd rs2 → Waits (.qwaitn rd rs1 rs2) s)
      ∧ (h.count ≤ 256 → h.head < 256 → h.tail < 256 → 1 ≤ h.depth → h.depth ≤ 256 →
          Completes (.qstat rd rs1) s a.ctx rd (statusOf h) 0))
    ∧ (h.owner = some ⟨tid, t.lnum, t.form⟩ → h.depth ≤ 256 →
      ∃ u, exec (.qresync rs1) s = .next u ∧ OnlyHole s u n [] ∧ u.sys = s.sys
        ∧ OnlyActor s u (fun x => { x with ctx := advance a.ctx }) id
        ∧ u.hole n = { h with frz := false, cause := none, counter := h.counter.map (fun c =>
            { c with cnt := h.depth - (h.ps - h.tk).toNat, parity := evenParity (h.depth - (h.ps - h.tk).toNat),
                     eseq := h.tk.toNat }), inj := false })

/-- 11 R191, R192: COPY reads its descriptor and issues one job with the next number, after every conflicting job of its
thread; KLAUNCH gives the next launch number to a card that no check of 21 R317 refuses and 0 to a refused one. Neither
changes a register but rd and PC. -/
def Obligations.CopyAndLaunch : Prop :=
  ∀ (s : State) (a : Agent) (tid : Nat) (t : Thread) (rd rs1 : BitVec 5) (ws : List Nat),
    agentOf s = some a → a.tid = some tid → a.thread = some t → t.role = .solo → t.events = [] →
    (a.ctx.rd rs1).toNat % 16 = 0 → WordsAt s a (a.ctx.rd rs1).toNat ws →
    (ws.length = 6 + 2 * (ws.getD 5 0 % 16) → ws.getD 5 0 % 16 ≤ 8 → copyBad ws = false → copyMisaligned ws = none →
      ∃ u, exec (.copy rs1) s = .next u ∧ u.sys = s.sys ∧ OnlyActor s u (fun x => { x with ctx := advance a.ctx }) id
        ∧ SameSurroundings s { u with fabric := s.fabric }
        ∧ (∀ n, tableGet n u.fabric.copies = if n = s.fabric.nextCopy then some
            { desc := descriptorOf ws, own := ⟨tid, t.lnum, t.form⟩, vec := false, next := 0, error := none, tr := a.acc.tr,
              cluster := a.acc.cluster,
              after := s.fabric.copies.filterMap (fun j =>
                if j.2.own = ⟨tid, t.lnum, t.form⟩ && conflict (copyFootprint j.2.desc) (copyFootprint (descriptorOf ws))
                then some j.1 else none) }
          else tableGet n s.fabric.copies)
        ∧ { u.fabric with copies := s.fabric.copies, nextCopy := s.fabric.nextCopy } = s.fabric
        ∧ u.fabric.nextCopy = s.fabric.nextCopy + 1)
    ∧ (ws.length = 42 → unitLoad s (tid / 384) < 1024 →
      let det := cardDet s ws (tid / 384) a.acc.tr.dom a.acc.tr.asid (((s.kernel t.lnum).map Kernel.paired).getD false)
      ∃ u c', exec (.klaunch rd rs1) s = .next u
        ∧ (det = 0 → WroteOne a.ctx c' rd (wrap s.sched.nextLaunch) 0 ∧ u.sys = s.sys
            ∧ OnlyActor s u (fun x => { x with ctx := c' }) id
            ∧ SameSurroundings s { u with sched := s.sched }
            ∧ u.sched.nextLaunch = s.sched.nextLaunch + 1 ∧ u.sched.rescan = true
            ∧ (∃ k, u.kernel s.sched.nextLaunch = some k ∧ k.card = cardOf ws ∧ k.dom = a.acc.tr.dom ∧ k.asid = a.acc.tr.asid
                ∧ k.forms = [] ∧ k.nextForm = 0 ∧ k.fdone = 0 ∧ k.ended = none ∧ k.done = none
                ∧ k.edges = edgesOf s (cardOf ws) a.acc.tr.dom a.acc.tr.asid)
            ∧ ∀ n, n ≠ s.sched.nextLaunch → u.kernel n = s.kernel n)
        ∧ (det ≠ 0 → (cardOf ws).stat = 0 → WroteOne a.ctx c' rd 0 0 ∧ OnlyRegisters s u c'))
    ∧ (ws.length = 42 → 1024 ≤ unitLoad s (tid / 384) → Waits (.klaunch rd rs1) s)

/-- 11 R195, R166: each control-register instruction reads the old value into rd; CSRW, CSRS and CSRC then write FFLAGS, FMODE
and SEED, and on a Proctor core the RW fields of TRBASE, SATB and FINJ; a read-only register, a reserved rounding mode and
the privileged registers of a thread fault. -/
def Obligations.ControlRegisters : Prop :=
  ∀ (s : State) (a : Agent) (i : Instr) (rd : BitVec 5) (r : Nat) (new : Option Word),
    agentOf s = some a → i.wf = true → cregForm a.ctx (cregTable s a r) i = some (rd, r, new) →
    (∀ tid t, a.tid = some tid → a.thread = some t → tid < 1536) →
    (r = 0x032 → a.acc.priv = true) →
    (new = none → Completes i s a.ctx rd (cregTable s a r) 0)
    ∧ (∀ v, new = some v → (r = 0 ∨ r = 1 ∧ v.toNat % 8 ≤ 4 ∨ r = 2) →
        ∃ t c', exec i s = .next t ∧ WroteOne (wroteCreg a.ctx r v) c' rd (cregTable s a r) 0 ∧ OnlyRegisters s t c')
    ∧ (∀ v, new = some v → r = 1 → 4 < v.toNat % 8 → Faults i s 1 [1, a.ctx.pc.toNat, 0])
    ∧ (∀ v, new = some v → r ∈ [0x010, 0x011, 0x012, 0x013, 0x020] → Faults i s 1 [4, a.ctx.pc.toNat, 0])
    ∧ (∀ v tid, new = some v → a.tid = some tid → r = 0x030 ∨ r = 0x031 → Faults i s 2 [0, a.ctx.pc.toNat])
    ∧ (∀ v k, new = some v → s.actor = .proctor k → r = 0x030 ∨ r = 0x031 →
        ∃ t c', exec i s = .next t ∧ WroteOne a.ctx c' rd (cregTable s a r) 0 ∧ SameSurroundings s t ∧ t.sys = s.sys
          ∧ OnlyActor s t id (fun p => if r = 0x030 then { p with ctx := c', trbase := v &&& 0xFC0FFFFFFFFF0FFF }
              else { p with ctx := c', satb := v &&& 0x00FFFFFFFFFFFFFF }))

/-- 11 R166, 23 R375: a thread of a compute die takes a privilege fault at TRET, at every access to FINJ and at writes to TRBASE and
SATB, and reads these two; a Proctor core, which is privileged, executes all of them. -/
def Obligations.PrivilegedAccess : Prop :=
  (∀ (s : State) (a : Agent) (tid : Nat), agentOf s = some a → a.tid = some tid →
    Faults .tret s 2 [0, a.ctx.pc.toNat]
    ∧ (∀ (i : Instr) (rd : BitVec 5) (new : Option Word), cregForm a.ctx s.proctor.finj i = some (rd, 0x032, new) →
        Faults i s 2 [0, a.ctx.pc.toNat])
    ∧ (∀ (i : Instr) (rd : BitVec 5) (r : Nat), (r = 0x030 ∨ r = 0x031) → i.wf = true →
        (∀ v, cregForm a.ctx (cregTable s a r) i = some (rd, r, some v) → Faults i s 2 [0, a.ctx.pc.toNat])
        ∧ (cregForm a.ctx (cregTable s a r) i = some (rd, r, none) → Completes i s a.ctx rd (cregTable s a r) 0)))
  ∧ (∀ (s : State) (k : Nat) (p : ProctorCore), s.actor = .proctor k → s.pcore k = some p →
    (∃ f, CompletesAs .tret s id f)
    ∧ (∀ (i : Instr) (rd : BitVec 5) (new : Option Word), cregForm p.ctx s.proctor.finj i = some (rd, 0x032, new) →
        (∀ v, new = some v → ∃ kind, kind ≤ 6 ∧ FinjValue v kind) →
        ∃ t c', exec i s = .next t ∧ WroteOne p.ctx c' rd s.proctor.finj 0 ∧ t.sys = s.sys ∧ t.threads = s.threads
          ∧ t.pcore k = some { p with ctx := c' } ∧ t.proctor.finj = new.getD s.proctor.finj)
    ∧ (∀ (i : Instr) (rd : BitVec 5) (r : Nat) (v old : Word), (r = 0x030 ∧ old = p.trbase ∨ r = 0x031 ∧ old = p.satb) →
        cregForm p.ctx old i = some (rd, r, some v) →
        ∃ t c', exec i s = .next t ∧ WroteOne p.ctx c' rd old 0 ∧ t.sys = s.sys ∧ t.threads = s.threads
          ∧ t.pcore k = some (if r = 0x030 then { p with ctx := c', trbase := v &&& 0xFC0FFFFFFFFF0FFF }
              else { p with ctx := c', satb := v &&& 0x00FFFFFFFFFFFFFF })))

/-- 11 R197, 23 R352: TRAP with a code of no service returns all ones in g4 on a compute die; on a Proctor core it enters the
handler with the code, as TRET leaves it again at the PC of the frame. -/
def Obligations.TrapsAndReturns : Prop :=
  (∀ (s : State) (a : Agent) (tid : Nat) (code : BitVec 8), agentOf s = some a → a.tid = some tid →
    Completes (.trap code) s a.ctx 4 0xFFFFFFFFFFFFFFFF 0)
  ∧ (∀ (s : State) (k : Nat) (p : ProctorCore) (code : BitVec 8), s.actor = .proctor k → s.pcore k = some p →
      p.inHandler = false → p.pxhand.toNat % 2 ^ 52 / 16 ≠ 0 →
      let frame := p.pxframe.toNat % 2 ^ 52 / 16 * 16
      ∃ t, exec (.trap code) s = .next t
        ∧ t.pcore k = some { p with inHandler := true, waiting := none, ctx := { p.ctx with pc := wrap (p.pxhand.toNat % 2 ^ 52 / 16 * 16 : Nat) } }
        ∧ (∀ j, j ≠ k → t.pcore j = s.pcore j) ∧ t.threads = s.threads ∧ SameSurroundings s t
        ∧ (Memory.wf s.sys.mem = true →
            BytesOutside s t frame 144
            ∧ (∀ i, i < 8 → byteOf t (frame + i) = BitVec.ofNat 8 (p.ctx.pc.toNat / 2 ^ (8 * i)))
            ∧ (∀ i, i < 8 → byteOf t (frame + 8 + i) = BitVec.ofNat 8 (code.toNat / 2 ^ (8 * i)))))
  ∧ (∀ (s : State) (k : Nat) (p : ProctorCore), s.actor = .proctor k → s.pcore k = some p →
      let frame := p.pxframe.toNat % 2 ^ 52 / 16 * 16
      CompletesAs .tret s id (fun p => { p with inHandler := false, ctx := { p.ctx with
        pc := wrap (leValue ((List.range 8).map (fun i => byteOf s (frame + i)))) } }))

/-- 25 R401: the six services of a thread outside a pair. FEAT and KSTAT only read; FREE of no region and KCANCEL of no
kernel of the domain answer 1; LOGEV logs; FREE takes its region out and starts its invalidation; KCANCEL ends the kernel
as 21 R323 sets out; ALLOC answers 0, or a base of the page's alignment where the region joins the domain. -/
def Obligations.ProctorServices : Prop :=
  ∀ (s : State) (a : Agent) (tid : Nat) (t : Thread), agentOf s = some a → a.tid = some tid → a.thread = some t →
    t.role = .solo → t.trbase.toNat / 2 ^ 58 % 64 = a.acc.tr.dom →
    let dom := a.acc.tr.dom
    let arg := fun (r : BitVec 5) => (a.ctx.rd r).toNat
    Completes .feat s a.ctx 4 (flvlOf s (tid / 384)) 0
    ∧ Completes .kstat s a.ctx 4 (match s.kernel (arg 4) with
        | some k => if k.dom = dom then k.done.getD 0 else 0
        | none => 0) 0
    ∧ ((∀ k, s.kernel (arg 4) = some k → k.dom ≠ dom) → Completes .kcancel s a.ctx 4 1 0)
    ∧ (∀ k, s.kernel (arg 4) = some k → k.dom = dom → k.ended = none → k.done = none →
        ∃ u k', exec .kcancel s = .next u ∧ u.kernel (arg 4) = some k' ∧ k'.ended = some (5, 0) ∧ k'.forms = []
          ∧ (arg 4 ≠ t.lnum → k.forms = [] → (∀ e ∈ s.sched.kernels, ∀ x ∈ e.2.streams, x.1 ≠ arg 4) → ∃ c', WroteOne a.ctx c' 4 0 0 ∧ OnlyActor s u (fun x => { x with ctx := c' }) id))
    ∧ (∃ u c', exec .logev s = .next u ∧ WroteOne a.ctx c' 4 0 0 ∧ u.sys = s.sys ∧ SameSurroundings s u
        ∧ (∀ j, u.thread j = if s.actor = .thread j then (s.thread j).map (fun x => { x with ctx := c' }) else s.thread j)
        ∧ u.proctor.logNext = s.proctor.logNext + 1
        ∧ ∃ r, u.proctor.log.getLast? = some r ∧ r.w0.toNat / 2 ^ 56 = 6 ∧ r.tag = a.ctx.rd 4)
    ∧ ((∀ r ∈ s.proctor.regions, ¬ (r.dom = dom ∧ r.base = arg 4 ∧ r.len = arg 5)) → Completes .free s a.ctx 4 1 0)
    ∧ (∀ d, tableGet dom s.proctor.domains = some d →
        (∃ r ∈ s.proctor.regions, r.dom = dom ∧ r.base = arg 4 ∧ r.len = arg 5) →
        ∃ u c', exec .free s = .next u ∧ WroteOne a.ctx c' 4 0 0 ∧ u.ctx = some c' ∧ u.lanes = s.lanes ∧ u.fabric = s.fabric
          ∧ u.proctor.regions.length < s.proctor.regions.length
          ∧ ∃ i, u.sys.invalidations = s.sys.invalidations ++ [i] ∧ i.dom = dom ∧ i.lo = arg 4 ∧ i.hi = arg 4 + arg 5)
    ∧ (∃ u c' b, exec .alloc s = .next u ∧ WroteOne a.ctx c' 4 (wrap b) 0 ∧ u.ctx = some c'
        ∧ ((3 ≤ arg 6 ∨ 16 ≤ arg 5 ∨ arg 4 = 0 ∨ 2 ^ 40 < arg 4 ∨ arg 4 % pageSize (arg 6) ≠ 0
            ∨ (bitOf (arg 5) 2 = true ∧ bitOf (arg 5) 3 = true)) → b = 0 ∧ OnlyRegisters s u c')
        ∧ (b ≠ 0 → b % (pageSize (arg 6) : Int) = 0 ∧ b + arg 4 ≤ 0x00FFFFFFFF000000
            ∧ (∀ x ∈ takenRanges s dom, b + arg 4 ≤ x.1 ∨ (x.1 + x.2 : Nat) ≤ b)
            ∧ ∃ r, u.proctor.regions = s.proctor.regions ++ [r] ∧ r.dom = dom ∧ (r.base : Int) = b ∧ r.len = arg 4 ∧ r.page = arg 6
              ∧ r.lazy = bitOf (arg 5) 0 ∧ r.nsh = bitOf (arg 5) 1 ∧ r.wr = bitOf (arg 5) 2 ∧ r.ex = bitOf (arg 5) 3
              ∧ r.die = tid / 384))

/-- 11 R197, 21 R340: EXIT of a thread whose blocks have committed and whose copies have finished ends it: its slot is free
and its pigeonholes are unconfigured; otherwise it waits. On a Proctor core it halts the core once the core's copies have
finished. -/
def Obligations.ExitEndsTheThread : Prop :=
  (∀ (s : State) (a : Agent) (tid : Nat) (t : Thread), agentOf s = some a → a.tid = some tid → a.thread = some t →
    t.isShadow = false → pairSettled a = true → keysRise s.threads = true →
    let copies := (countsOf s tid t).2.2.1
    (blocksDone t = true → copies = 0 →
      ∃ u, exec .exit s = .next u ∧ u.thread tid = none
        ∧ ∀ e ∈ u.fabric.holes, e.2.owner ≠ some ⟨tid, t.lnum, t.form⟩)
    ∧ (blocksDone t = false ∨ copies ≠ 0 → Waits .exit s))
  ∧ (∀ (s : State) (k : Nat) (p : ProctorCore), s.actor = .proctor k → s.pcore k = some p →
      ((∀ j ∈ s.fabric.copies, j.2.own ≠ ⟨proctorTid k, 0, 0⟩) → CompletesAs .exit s id (fun p => { p with halted := true }))
      ∧ ((∃ j ∈ s.fabric.copies, j.2.own = ⟨proctorTid k, 0, 0⟩) → Waits .exit s))

/-! Vector computation: chapter 15. -/

/-- 15 R236 to R238 with R201: the elementwise instructions write Op of the table to the active elements of VD, gather its flags, and
change nothing else. -/
def Obligations.ElementwiseResults : Prop :=
  (∀ (s : State) (tid : Nat) (v : VCtx) (i : Instr) (r : VRow) (f : VFields) (value : Nat → Nat × Flags),
    Ready s tid v i → Placed s v → i.wf = true → vrowOf i = some (r, f) →
    let w := (elemTypeOf f).width
    let es := (actives s v f w).map (fun e => (e, value e))
    v.vl ≤ v.avail w → HasRoom v [f.vd.toNat] →
    (∀ e, e < v.vl → elementOp s v f e i = some (value e)) →
    ∃ t, exec i s = .next t ∧ WroteElements s t v w [(f.vd.toNat, es.map (fun x => (x.1, x.2.1)))] (joined (es.map Prod.snd))
      (roundsOp i && (elemTypeOf f).isFloat && v.rmo f == .rsr))
  ∧ (∀ (s : State) (tid : Nat) (v : VCtx) (f : VFields),
    Ready s tid v (.vcvt f) → Placed s v → (Instr.vcvt f).wf = true → HasRoom v [f.vd.toNat] →
    let dst := elemTypeOf f
    let src := typeOf (f.fn.toNat % 16) (f.fn.toNat / 2 ^ 8 % 2)
    let es := (actives s v f dst.width).map (fun e =>
      (e, convertOp src dst (f.fn.toNat.testBit 17) (v.rounding (v.rmo f) e 0) (v.get s f.vs1.toNat src.width e)))
    v.vl ≤ v.avail dst.width → v.vl ≤ v.avail src.width →
    ∃ t, exec (.vcvt f) s = .next t ∧ WroteElements s t v dst.width [(f.vd.toNat, es.map (fun x => (x.1, x.2.1)))]
      (joined (es.map Prod.snd)) ((dst.isFloat || src.isFloat) && v.rmo f == .rsr))

/-- 15 R240: each active pair of VCMUL and VCMAC takes its complex product, rounded once a component. -/
def Obligations.ComplexProducts : Prop :=
  ∀ (s : State) (tid : Nat) (v : VCtx) (f : VFields) (add : Bool),
    let i : Instr := if add then .vcmac f else .vcmul f
    Ready s tid v i → Placed s v → i.wf = true → v.vl ≤ v.avail 32 → HasRoom v [f.vd.toNat] →
    let x := fun (reg : BitVec 6) (e : Nat) => FType.f32.value (v.get s reg.toNat 32 e)
    let b := fun (e : Nat) => if f.fn.toNat % 2 = 1 then (x f.vs2 e).negate else x f.vs2 e
    let c := fun (e : Nat) => if add then x f.vs3 e else .fin false 0 0
    let m := v.rmo f
    ∃ (t : State) (es : List (Nat × Nat × Flags)), exec i s = .next t
      ∧ WroteElements s t v 32 [(f.vd.toNat, es.map (fun y => (y.1, y.2.1)))] (joined (es.map Prod.snd)) (m == .rsr)
      ∧ ∀ e y, (e, y) ∈ es ↔ ∃ p ∈ actives s v f 32, p % 2 = 0 ∧ p + 1 < v.vl
          ∧ (e = p ∧ y = complexPart (v.rounding m p 0) true (c p) (x f.vs1 p) (x f.vs2 p) (x f.vs1 (p + 1)) (b (p + 1))
            ∨ e = p + 1 ∧ y = complexPart (v.rounding m p 1) false (c (p + 1)) (x f.vs1 p) (b (p + 1)) (x f.vs1 (p + 1)) (x f.vs2 p))

/-- 15 R239, R241, R242: VCMP writes the condition to the active elements of its mask; the mask logic acts at the positions that
the fragment mask holds; VMPOP and VMFIRST count and find. Each of these, and the branches on a mask, faults where VL does not
fit its one-bit operand (13 R202). Across dies mask logic reads masks at the width of VTYPE (the model's choice: log 12). -/
def Obligations.MaskResults : Prop :=
  (∀ (s : State) (tid : Nat) (v : VCtx) (f : VFields), Ready s tid v (.vcmp f) → Placed s v → (Instr.vcmp f).wf = true →
    let w := (elemTypeOf f).width
    let es := (actives s v f w).map (fun e => (e, compareOp s v f e))
    v.vl ≤ v.avail w →
    ∃ t, exec (.vcmp f) s = .next t
      ∧ WroteMask s t v w f.vd.toNat (es.map (fun x => (x.1, x.2.1))) (joined (es.map Prod.snd)))
  ∧ (∀ (s : State) (tid : Nat) (v : VCtx) (f : VFields), v.vl ≤ v.avail 1 → Placed s v →
    let at' := fun (e : Nat) => (v.mask s v.vtypeWidth f.vs1.toNat e, v.mask s v.vtypeWidth f.vs2.toNat e)
    let on := (List.range v.vl).filter (fun e => v.g.core.frag.getLsbD e)
    let out := fun (i : Instr) (op : Bool → Bool → Bool) => Ready s tid v i → i.wf = true → ∃ t, exec i s = .next t
      ∧ WroteMask s t v v.vtypeWidth f.vd.toNat (on.map (fun e => (e, op (at' e).1 (at' e).2))) 0
    out (.vmand f) (fun a b => a && b) ∧ out (.vmor f) (fun a b => a || b) ∧ out (.vmxor f) (fun a b => a != b)
      ∧ out (.vmandn f) (fun a b => a && !b))
  ∧ (∀ (s : State) (tid : Nat) (v : VCtx) (f : VFields),
    let es := (actives s v f v.vtypeWidth).filter (fun e => v.mask s v.vtypeWidth f.vs1.toNat e)
    (v.avail 1 < v.vl → ∀ i ∈ [Instr.vmand f, .vmor f, .vmxor f, .vmandn f, .vmpop f, .vmfirst f, .vbany f, .vball f, .vbnone f, .vbrD f],
        Ready s tid v i → VectorFaults i s v 1 [5, v.iaddr.toNat, 0])
    ∧ (v.vl ≤ v.avail 1 → Ready s tid v (.vmpop f) → WritesW (.vmpop f) s v f.vd (BitVec.ofNat 64 es.length))
    ∧ (v.vl ≤ v.avail 1 → Ready s tid v (.vmfirst f) → WritesW (.vmfirst f) s v f.vd
        (match es with
        | e :: _ => BitVec.ofNat 64 e
        | [] => 0xFFFFFFFFFFFFFFFF)))

/-- 15 R244 to R246: the permutes within die blocks. -/
def Obligations.Permutes : Prop :=
  (∀ (s : State) (tid : Nat) (v : VCtx) (i : Instr) (r : VRow) (f : VFields) (value : Nat → Nat),
    Ready s tid v i → Placed s v → i.wf = true → vrowOf i = some (r, f) → HasRoom v [f.vd.toNat] →
    let w := (elemTypeOf f).width
    v.vl ≤ v.avail w → (∀ g, i = .vperm g → v.vl ≤ v.avail 32) →
    (∀ e, e < v.vl → permuteOp s v f e i = some (value e)) →
    ∃ t, exec i s = .next t ∧ WroteElements s t v w [(f.vd.toNat, (actives s v f w).map (fun e => (e, value e)))] 0 false)
  ∧ (∀ (s : State) (tid : Nat) (v : VCtx) (f : VFields), Placed s v → HasRoom v [f.vd.toNat] →
    let w := (elemTypeOf f).width
    let vm := v.vmax w
    v.vl ≤ v.avail w →
    (Ready s tid v (.vcompress f) → (Instr.vcompress f).wf = true →
      ∃ t es, exec (.vcompress f) s = .next t ∧ WroteElements s t v w [(f.vd.toNat, es)] 0 false
        ∧ ∀ j x, (j, x) ∈ es ↔ ∃ e ∈ actives s v f w, j = e / vm * vm + activeBefore s v f e
            ∧ x = blockElement s v f f.vs1 (e / vm) (e % vm))
    ∧ (Ready s tid v (.vexpand f) → (Instr.vexpand f).wf = true →
      ∃ t, exec (.vexpand f) s = .next t ∧ WroteElements s t v w [(f.vd.toNat, (actives s v f w).map (fun e =>
        (e, blockElement s v f f.vs1 (e / vm) (activeBefore s v f e))))] 0 false))

/-- 15 R247, R248: VXCHG moves CNT elements from one die position's block to another's, both ways where SWP is set, and faults on
a pair or range that the control does not allow. -/
def Obligations.ExchangeBetweenDies : Prop :=
  ∀ (s : State) (tid : Nat) (v : VCtx) (f : VFields), Ready s tid v (.vxchg f) → Placed s v → (Instr.vxchg f).wf = true →
    HasRoom v [f.vd.toNat] →
    let w := (elemTypeOf f).width
    let vm := v.vmax w
    let n := v.parts.length
    v.vl ≤ v.avail w →
    ∀ (swp : Bool) (pb pa cnt db sa hi : Nat), pb < 4 → pa < 4 → cnt < 2 ^ 16 → db < 2 ^ 16 → sa < 2 ^ 16 → hi < 2 ^ 11 →
      (v.w f.vs2).toNat = hi * 2 ^ 53 + swp.toNat * 2 ^ 52 + pb * 2 ^ 50 + pa * 2 ^ 48 + cnt * 2 ^ 32 + db * 2 ^ 16 + sa →
      let pair := n ≠ 1 ∧ pa < n ∧ pb < n ∧ pa ≠ pb
      let elem := fun (e : Nat) => v.get s f.vs1.toNat w e % 2 ^ (elemTypeOf f).bits
      (¬ pair → VectorFaults (.vxchg f) s v 1 [16, v.iaddr.toNat, 0])
      ∧ (pair → (vm < sa + cnt ∨ vm < db + cnt ∨ hi ≠ 0) → VectorFaults (.vxchg f) s v 1 [17, v.iaddr.toNat, 0])
      ∧ (pair → sa + cnt ≤ vm → db + cnt ≤ vm → hi = 0 →
          ∃ t es, exec (.vxchg f) s = .next t ∧ WroteElements s t v w [(f.vd.toNat, es)] 0 false
            ∧ ∀ j x, (j, x) ∈ es ↔ ∃ k, k < cnt ∧ (j = pb * vm + db + k ∧ x = elem (pa * vm + sa + k)
                ∨ swp = true ∧ j = pa * vm + sa + k ∧ x = elem (pb * vm + db + k)))

/-- 15 R249, R250: the reductions over rows by the tree of 05 R88, and VROWSTAT's four statistics of 05 R89. -/
def Obligations.Reductions : Prop :=
  (∀ (s : State) (tid : Nat) (v : VCtx) (i : Instr) (r : VRow) (f : VFields) (op : Nat → Nat → Nat × Flags) (ident : Nat),
    Ready s tid v i → Placed s v → i.wf = true → vrowOf i = some (r, f) → HasRoom v [f.vd.toNat] →
    reductionOp (elemTypeOf f) (v.mode 0) i = some (op, ident) →
    let w := (elemTypeOf f).width
    v.vl ≤ v.avail w →
    let one := fun (k : Nat) => reduceTree op ident ((rowOf v.vl (rowLength v f) k).map (fun e =>
      if (actives s v f w).contains e then some (v.get s f.vs1.toNat w e % 2 ^ (elemTypeOf f).bits) else none))
    let rows := (List.range (rowCount v.vl (rowLength v f))).map (fun k => (k, one k))
    ∃ t, exec i s = .next t
      ∧ WroteElements s t v w [(f.vd.toNat, rows.map (fun x => (x.1, x.2.1)))] (joined (rows.map Prod.snd)) false)
  ∧ (∀ (s : State) (tid : Nat) (v : VCtx) (f : VFields), Ready s tid v (.vrowstat f) → Placed s v → (Instr.vrowstat f).wf = true →
    let regs := [f.vd.toNat, f.vd.toNat + 1, f.vd.toNat + 2, f.vd.toNat + 3]
    let one := fun (k : Nat) => rowStat ((rowOf v.vl (rowLength v f) k).map (fun e =>
      if (actives s v f 32).contains e then some (v.get s f.vs1.toNat 32 e) else none))
    let rows := (List.range (rowCount v.vl (rowLength v f))).map (fun k => (k, one k))
    (60 < f.vd.toNat → VectorFaults (.vrowstat f) s v 1 [15, v.iaddr.toNat, 0])
    ∧ (f.vd.toNat ≤ 60 → v.vl ≤ v.avail 32 → HasRoom v regs →
      ∃ t, exec (.vrowstat f) s = .next t ∧ WroteElements s t v 32
        [(f.vd.toNat, rows.map (fun x => (x.1, x.2.1.1))), (f.vd.toNat + 1, rows.map (fun x => (x.1, x.2.1.2.1))),
          (f.vd.toNat + 2, rows.map (fun x => (x.1, x.2.1.2.2.1))), (f.vd.toNat + 3, rows.map (fun x => (x.1, x.2.1.2.2.2)))]
        (joined (rows.map Prod.snd)) false))

/-- 15 R260, R261, R253: the sequencer's arithmetic, VWLI, and the element access of VEXTW and VINSW. -/
def Obligations.SequencerArithmetic : Prop :=
  (∀ (s : State) (tid : Nat) (v : VCtx) (i : Instr) (r : VRow) (f : VFields) (x : Word),
    Ready s tid v i → i.wf = true → vrowOf i = some (r, f) → waluTable (v.w f.vs1) (waluSecond v f i) i = some x →
    WritesW i s v f.vd x)
  ∧ (∀ (s : State) (tid : Nat) (v : VCtx) (f : VFields),
    (Ready s tid v (.vwaluRlc f) → WritesW (.vwaluRlc f) s v f.vd (((v.g.core.lc[f.vs1.toNat]?).getD 0).setWidth 64))
    ∧ (Ready s tid v (.vwaluRvl f) → WritesW (.vwaluRvl f) s v f.vd (BitVec.ofNat 64 v.vl))
    ∧ (Ready s tid v (.vwaluRssn f) → WritesW (.vwaluRssn f) s v f.vd v.g.core.vssn)
    ∧ (Ready s tid v (.vwli f) → WritesW (.vwli f) s v f.vd (wrap (valueIn true 24 (f.fn.toNat % 2 ^ 24)))))
  ∧ (∀ (s : State) (tid : Nat) (v : VCtx) (f : VFields),
    let t := elemTypeOf f
    let k := (v.w f.vs2).toNat
    v.vl ≤ v.avail t.width →
    (Ready s tid v (.vextw f) → (Instr.vextw f).wf = true →
      let x := v.get s f.vs1.toNat t.width k % 2 ^ t.bits
      WritesW (.vextw f) s v f.vd (if k < v.vl then
        (if f.fn.toNat / 2 ^ 23 % 2 = 1 then wrap (valueIn true t.width x) else BitVec.ofNat 64 x) else 0))
    ∧ (Ready s tid v (.vinsw f) → (Instr.vinsw f).wf = true → Placed s v → HasRoom v [f.vd.toNat] →
      ∃ u, exec (.vinsw f) s = .next u ∧ WroteElements s u v t.width
        [(f.vd.toNat, if k < v.vl ∧ v.g.core.frag.getLsbD k = true then [(k, (v.w f.vs1).toNat % 2 ^ t.bits)] else [])] 0 false))

/-! Vector control flow and memory: chapters 15 and 13. -/

/-- 15 R254 to R257, R259 with 03 R59: the vector branches, divergence and its end, loops, and replies. Across dies a mask is read
at the width of VTYPE (the model's choice: log 12). -/
def Obligations.VectorBranches : Prop :=
  ∀ (s : State) (tid : Nat) (v : VCtx) (f : VFields),
    let far := v.iaddr + wrap (4 * valueIn true 24 f.fn.toNat)
    let bit := fun (e : Nat) => v.mask s v.vtypeWidth f.vs1.toNat e
    let on := (List.range v.vl).filter (fun e => v.g.core.frag.getLsbD e)
    let lc := fun (r : BitVec 6) => (v.g.core.lc[r.toNat]?).getD 0
    let withLc := fun (r : BitVec 6) (c : BitVec 32) (g : Group) => { g with core := { g.core with lc := g.core.lc.setIfInBounds r.toNat c } }
    (v.vl ≤ v.avail 1 → Ready s tid v (.vbany f) → Branches (.vbany f) s v (∃ e ∈ on, bit e = true) far)
    ∧ (v.vl ≤ v.avail 1 → Ready s tid v (.vball f) → Branches (.vball f) s v (∀ e ∈ on, bit e = true) far)
    ∧ (v.vl ≤ v.avail 1 → Ready s tid v (.vbnone f) → Branches (.vbnone f) s v (∀ e ∈ on, bit e = false) far)
    ∧ (∀ m : BitVec 65536, v.vl ≤ v.avail 1 → Ready s tid v (.vbrD f) → (∀ e, e < 65536 → m.getLsbD e = (decide (e < v.vl) && bit e)) →
      (v.g.core.pending.length < 8 → GroupBecomes (.vbrD f) s v (fun g => { g with core := { g.core with
          pc := v.iaddr + 8, frag := g.core.frag &&& ~~~ m,
          pending := { target := far, taken := g.core.frag &&& m, saved := g.core.frag, joining := false } :: g.core.pending } }))
      ∧ (8 ≤ v.g.core.pending.length → VectorFaults (.vbrD f) s v 12 [47, v.iaddr.toNat]))
    ∧ (Ready s tid v (.vjoin f) →
      (∀ p rest, v.g.core.pending = p :: rest → p.joining = false → GroupBecomes (.vjoin f) s v (fun g => { g with core := { g.core with
          pc := p.target, frag := p.taken, pending := { p with joining := true } :: rest } }))
      ∧ (∀ p rest, v.g.core.pending = p :: rest → p.joining = true → GroupBecomes (.vjoin f) s v (fun g => { g with core := { g.core with
          pc := v.iaddr + 8, frag := p.saved, pending := rest } }))
      ∧ (v.g.core.pending = [] → VectorFaults (.vjoin f) s v 12 [46, v.iaddr.toNat]))
    ∧ (Ready s tid v (.vjmp f) → f.fn.toNat / 2 ^ 20 ≤ 6 →
      Branches (.vjmp f) s v (jumpHolds (f.fn.toNat / 2 ^ 20) (v.w f.vs1) (v.w f.vs2))
        (v.iaddr + wrap (4 * valueIn true 20 (f.fn.toNat % 2 ^ 20))))
    ∧ (7 ≤ f.fn.toNat / 2 ^ 20 → (Instr.vjmp f).wf = false)
    ∧ (f.fn.toNat / 2 ^ 20 = 0 → (Instr.vjmp f).wf = true → f.vs1 = 0 ∧ f.vs2 = 0)
    ∧ (Ready s tid v (.vloop f) →
      let c := (v.w f.vs1).setWidth 32
      (c = 0 → GroupBecomes (.vloop f) s v (atPc far))
      ∧ (c ≠ 0 → GroupBecomes (.vloop f) s v (fun g => atPc (v.iaddr + 8) (withLc f.vd c g))))
    ∧ (Ready s tid v (.vendlp f) →
      let c := lc f.vd - 1
      (c = 0 → GroupBecomes (.vendlp f) s v (fun g => atPc (v.iaddr + 8) (withLc f.vd c g)))
      ∧ (c ≠ 0 → GroupBecomes (.vendlp f) s v (fun g => atPc far (withLc f.vd c g))))
    ∧ (Ready s tid v (.vpostr f) →
      (∀ st, RoomFor v st 0 → Holds (.vpostr f) s v st [.reply (v.w f.vs1)] 0 false)
      ∧ (v.g.strip = none → v.g.issues = [] → v.g.vreply.length < 16 →
          GroupBecomes (.vpostr f) s v (fun g => { atPc (v.iaddr + 8) g with vreply := g.vreply ++ [v.w f.vs1] }))
      ∧ (v.g.strip = none → 16 ≤ v.g.vreply.length → VectorWaits (.vpostr f) s v))

/-- 13 R207, 03 R46, R47, R52, 15 R258: at a committed boundary SETVL grants what the request and the lanes allow, waits for a
watched word, and opens a strip whose checkpoint is the state before it; a replayed SETVL takes its recorded grant; VEND ends
the block, after which blocks that wait for an idle group move (03 R39). -/
def Obligations.StripsOpenAndBlocksEnd : Prop :=
  ∀ (s : State) (tid : Nat) (v : VCtx) (f : VFields), AtBoundary v →
    let req := if f.fn.toNat / 2 ^ 20 % 2 = 1 then f.fn.toNat % 2 ^ 16 else (v.w f.vs1).toNat
    let avail := v.avail (elemTypeOf f).width
    let exact := f.fn.toNat / 2 ^ 22 % 2 = 1
    let watch := f.fn.toNat / 2 ^ 21 % 2 = 1
    let grants := fun (n : Nat) => GroupBecomes (.setvl f) s v (fun g => { g with
      replay := none
      strip := some (freshStrip { core := g.core, cells := laneCells s.lanes v.parts } n true)
      core := { g.core with pc := v.iaddr + 8, ty := f.ty, sg := BitVec.ofNat 1 (f.fn.toNat / 2 ^ 23), vl := n,
                            w := g.core.w.setIfInBounds f.vd.toNat (BitVec.ofNat 64 n) } })
    (Ready s tid v (.setvl f) → (Instr.setvl f).wf = true →
      (∀ n, v.g.replay = some n → grants n)
      ∧ (v.g.replay = none → v.g.stopping = false →
        (exact → avail < req → VectorFaults (.setvl f) s v 7 [42, avail, req])
        ∧ ((exact → req ≤ avail) → (¬ watch ∨ req = 0) → grants (min req avail))
        ∧ ((exact → req ≤ avail) → watch → req ≠ 0 → ∀ p, quiet s → WordsRead s v (v.w f.vs2).toNat 8 [p] →
          let n := min (min req avail) (min (p - (v.w f.vs3).toNat) avail)
          ((exact ∧ n = req ∨ ¬ exact ∧ 1 ≤ n) → grants n)
          ∧ (¬ (exact ∧ n = req ∨ ¬ exact ∧ 1 ≤ n) → VectorWaits (.setvl f) s v))))
    ∧ (Ready s tid v (.vend f) → v.g.stopping = false →
      (∃ t g, exec (.vend f) s = .next t ∧ t.group tid = some g ∧ t.sys.mem = s.sys.mem
        ∧ g.core.pc = v.iaddr + 8 ∧ g.running = false ∧ g.block = none ∧ g.replay = none)
      ∧ (SeatsSettled s (tid / 8) →
        GroupBecomes (.vend f) s v (fun g => { atPc (v.iaddr + 8) g with running := false, block := none, replay := none })))

/-- 03 R46, R60, 23 R348: SETVL, VAMO, VTBLLD and VEND fault where a fragment is pending; else they go on from the commit of the
open strip, or wait for it with what it has done in place. -/
def Obligations.BoundaryCommits : Prop :=
  ∀ (s : State) (tid : Nat) (v : VCtx) (i : Instr) (f : VFields),
    s.actor = .sequencer tid → vctx s tid = some v → (i = .setvl f ∨ i = .vamo f ∨ i = .vtblld f ∨ i = .vend f) →
    (v.g.core.pending ≠ [] → VectorFaults i s v 12 [45, v.iaddr.toNat])
    ∧ (v.g.core.pending = [] → v.g.strip ≠ none → (∃ op ∈ v.g.queue, op.outside = false) → VectorWaits i s v)
    ∧ (v.g.core.pending = [] → (toBoundary s tid).2 = false → exec i s = .next ((toBoundary s tid).1.setWaiting (some i)))
    ∧ (v.g.core.pending = [] → (toBoundary s tid).2 = true → (vctx (toBoundary s tid).1 tid).isSome = true →
        (toBoundary (toBoundary s tid).1 tid) = ((toBoundary s tid).1, true) →
        ((vctx (toBoundary s tid).1 tid).map (fun x => x.g.core.pending)) = some [] →
        (toBoundary s tid).1.actor = s.actor → exec i s = exec i (toBoundary s tid).1)

/-- 03 R45, R48: the commit of an unpaired strip that holds stores alone leaves every byte as the strip's own loads last saw it,
merges its flags into FFLAGS, raises VSSN by one and closes the strip. -/
def Obligations.CommitWritesWhatLoadsSaw : Prop :=
  ∀ (s : State) (tid : Nat) (v : VCtx) (st : Strip), vctx s tid = some v → Memory.wf s.sys.mem = true → quiet s →
    v.t.role = .solo → v.g.strip = some st → v.g.queue = [] → v.g.closed = [] → v.g.posts = [] → v.g.issues = [] →
    v.g.notifies = [] → v.g.leaving = [] → v.g.outgoing = [] →
    (∀ e ∈ st.effects, ∃ lane pa va size value mask fill, e = .store lane pa va size value mask fill ∧ lostNode s pa = none) →
    let t := (toBoundary s tid).1
    (∀ a, byteOf t a = overStrip v a (byteOf s a))
    ∧ (∃ x g, t.thread tid = some x ∧ x.group = some g ∧ x.ctx = { v.t.ctx with fflags := v.t.ctx.fflags ||| st.flags }
        ∧ g.strip = none ∧ g.core.vssn = v.g.core.vssn + 1)

/-- 13 R201, R204, R208 to R211: VLD, VLDS and VLDX put the converted stored value of each active element in VD and change no
byte; a .W load of the window reads full granules and waits while one is empty and none poisoned. -/
def Obligations.VectorLoads : Prop :=
  ∀ (s : State) (tid : Nat) (v : VCtx) (i : Instr) (f : VFields) (form : MemForm), Ready s tid v i → Placed s v → quiet s →
    i.wf = true → loadOf i = some (f, form) → HasRoom v [f.vd.toNat] →
    let m := v.g.core.mfmt
    let w := (elemTypeOf f).width
    let bits := storedWidth m f
    let es := actives s v f w
    let window := f.fn.toNat / 2 ^ 20 % 4 = 1
    FormatOk m f form → v.vl ≤ v.avail w → (form = .indexed → indexFits v (f.fn.toNat / 2 ^ 17 % 4)) →
    ∀ pas : Nat → List Nat,
      (∀ e ∈ es, ElementAt s v .read w (decide window) bits (elementPlace s v f form e) e (pas e)) →
      let granules := fun (u : Nat) => ∃ e ∈ es, ∃ p ∈ pas e, p / 16 ≤ u ∧ u * 16 < p + bytesFor bits
      ((∀ e ∈ es, ∀ p ∈ pas e, Usable s p (bytesFor bits)) →
        (window → ∀ u, granules u → cellGet s.sys.granules u = 0b01) →
        let rs := es.map (fun e => (e, loadValue m f (v.rounding (v.mode 0) e 0) (elementBits s v bits (elementPlace s v f form e) (pas e))))
        ∃ t, exec i s = .next t ∧ WroteElements s t v w [(f.vd.toNat, rs.map (fun r => (r.1, r.2.1)))] (joined (rs.map Prod.snd))
          (convertRounds m f && v.mode 0 == .rsr))
      ∧ (window → (∀ u, granules u → cellGet s.sys.granules u ≠ 0b10) → (∃ u, granules u ∧ cellGet s.sys.granules u ≠ 0b01) →
        VectorWaits i s v)

/-- 13 R209 to R212: VST, VSTS and VSTX hold stores that give each bit of memory the bit of the highest active element that
covers it, .FL stores that fill, and with NT a notify write of the count of active elements; nothing else changes. -/
def Obligations.VectorStores : Prop :=
  ∀ (s : State) (tid : Nat) (v : VCtx) (i : Instr) (f : VFields) (form : MemForm) (st : Strip), Ready s tid v i → Placed s v → quiet s →
    i.wf = true → storeOf i = some (f, form) →
    let m := v.g.core.mfmt
    let w := (elemTypeOf f).width
    let bits := storedWidth m f
    let es := actives s v f w
    let fills := f.fn.toNat / 2 ^ 20 % 4 = 3
    let word := (v.w f.vd).toNat
    FormatOk m f form → v.vl ≤ v.avail w → (form = .indexed → indexFits v (f.fn.toNat / 2 ^ 17 % 4)) →
    RoomFor v st (es.length * (2 * bytesFor bits)) →
    ∀ (pas : Nat → List Nat) (pn : Nat),
      (∀ e ∈ es, ElementAt s v .write w (decide fills) bits (elementPlace s v f form e) e (pas e)) →
      (f.fn.toNat / 2 ^ 19 % 2 = 1 → es ≠ [] → word % 8 = 0 ∧ translate s (vecAccessor s v v.home) word (.atomic false) = .ok pn) →
      let value := fun (e : Nat) => storeValue m f (v.rounding (v.mode 0) e 0) (v.get s f.vs3.toNat w e)
      ∃ stores, OnlyStores stores (decide fills)
        ∧ (∀ p q b, q < 8 → (stores.foldl (fun x e => overByte e p x) b).getLsbD q =
            es.foldl (fun x e => storedBit bits (elementPlace s v f form e) (pas e) (value e).1 p q x) (b.getLsbD q))
        ∧ Holds i s v st (stores ++ (if f.fn.toNat / 2 ^ 19 % 2 = 1 ∧ es ≠ [] then [.notify pn word es.length] else []))
            (joined (es.map value)) (convertRounds m f && v.mode 0 == .rsr)

/-- 13 R213, R214: VLDZ version 1 takes whole blocks while they fit the limit and VL, and leaves their elements in VD, their
count in VL and the bytes used in w[VS3]; version 0 and a misaligned stream fault. -/
def Obligations.PackedStreams : Prop :=
  ∀ (s : State) (tid : Nat) (v : VCtx) (f : VFields), Ready s tid v (.vldz f) → (Instr.vldz f).wf = true →
    let t := elemTypeOf f
    let ver := f.fn.toNat % 2 ^ 8
    let a := (v.w f.vs1).toNat
    (ver = 0 → VectorFaults (.vldz f) s v 1 [0, v.iaddr.toNat, 0])
    ∧ (ver = 1 → v.vl ≠ 0 → v.vl ≤ v.avail t.width → a % 4 ≠ 0 → VectorFaults (.vldz f) s v 3 [0, a, 0])
    ∧ (ver = 1 → v.vl ≤ v.avail t.width → Placed s v → quiet s → HasRoom v [f.vd.toNat] → a % 4 = 0 →
      ∀ out used, Unpacks s v t.bits a (v.w f.vs2).toNat [] 0 out used → v.vl ≠ 0 →
        ∃ u, exec (.vldz f) s = .next u ∧ WroteInto s u v
          { v.g.core with vl := out.length, w := v.g.core.w.setIfInBounds f.vs3.toNat (BitVec.ofNat 64 used) }
          t.width [(f.vd.toNat, (out.zipIdx).map (fun x => (x.2, x.1)))] 0 false)
    ∧ (ver = 1 → v.vl = 0 → WritesW (.vldz f) s v f.vs3 0)

/-- 13 R227 with 07 R107, R108: VLDL reads each active element from its lane's slice, VSTL holds a write of it, at the element's
offset; an offset of 4,096 or more and a misaligned one fault. -/
def Obligations.LaneSlices : Prop :=
  ∀ (s : State) (tid : Nat) (v : VCtx) (f : VFields), Placed s v →
    let t := elemTypeOf f
    let n := t.width / 8
    let es := actives s v f t.width
    let off := fun (e : Nat) => v.get s f.vs1.toNat 32 e + f.fn.toNat % 2 ^ 16
    let lane := fun (e : Nat) => laneAt v t.width e
    v.vl ≤ v.avail t.width → v.vl ≤ v.avail 32 →
    ((∀ e ∈ es, off e < 4096 ∧ off e % n = 0) →
      (Ready s tid v (.vldl f) → (Instr.vldl f).wf = true → HasRoom v [f.vd.toNat] →
        (∀ e ∈ es, SliceClean s (lane e).1 (lane e).2 (off e) n) →
        ∃ u, exec (.vldl f) s = .next u ∧ WroteElements s u v t.width
          [(f.vd.toNat, es.map (fun e => (e, readSlice s v.g (lane e).1 (lane e).2 (off e) n % 2 ^ t.bits)))] 0 false)
      ∧ (∀ st, Ready s tid v (.vstl f) → (Instr.vstl f).wf = true → RoomFor v st (8 * es.length) →
        Holds (.vstl f) s v st
          (es.map (fun e => .slice (lane e).1 (lane e).2 (off e) n (v.get s f.vs3.toNat t.width e % 2 ^ t.bits) true)) 0 false))
    ∧ (∀ e before after, es = before ++ e :: after → (∀ b ∈ before, off b < 4096 ∧ off b % n = 0) →
      let i : Bool → Instr := fun load => if load then .vldl f else .vstl f
      ∀ load, Ready s tid v (i load) → (i load).wf = true →
        let bad := fun (code : Nat) => exec (i load) s = .next (deliverFault s tid true
          { faultOf 3 [code, off e, e] with edie := (v.place t.width e).map (fun x => x.1.die) })
        (4096 ≤ off e → bad 40) ∧ (off e < 4096 → off e % n ≠ 0 → bad 0))

/-- 13 R215 to R220, R208: VBIND binds a register to the sequence that its descriptor sets out, VUNBIND ends a binding and
leaves the register reading zero, VGATHERB issues a gather and its duplicate mask, SBAR and VCOPY join the strip, and VSETMF
writes MFMT or faults. -/
def Obligations.StreamsAndCopies : Prop :=
  ∀ (s : State) (tid : Nat) (v : VCtx) (f : VFields), Placed s v → quiet s →
    let reg := f.vd.toNat
    let va := (v.w f.vs1).toNat
    (∀ ws base exts strs, Ready s tid v (.vbind f) → (Instr.vbind f).wf = true → 48 ≤ reg → FormatOk v.g.core.mfmt f .strided →
      va % 8 = 0 → WordsRead s v va 8 ws → DescribesStream ws base exts strs →
      let b : Stream := { base := base, exts := exts, strs := strs, ty := f.ty.toNat, sg := f.fn.toNat / 2 ^ 23 % 2,
                          mfmt := v.g.core.mfmt, pos := 0, slot := none }
      GroupBecomes (.vbind f) s v (fun g => let g := withoutGather reg g;
        { g with held := tableDel reg g.held
                 core := { g.core with pc := v.iaddr + 8, streams := tablePut reg b g.core.streams,
                                       gmark := g.core.gmark.filter (fun m => m.1 != reg) } }))
    ∧ (Ready s tid v (.vunbind f) → 48 ≤ reg →
      let live := tableGet reg v.g.core.streams ≠ none ∨ (reg ∉ v.g.core.gread ∧ ∃ x ∈ v.g.gathers, x.reg = reg)
      (¬ live → GroupBecomes (.vunbind f) s v (atPc (v.iaddr + 8)))
      ∧ (live → ∃ t, exec (.vunbind f) s = .next t ∧ OnlyGroup s t v { v.t with group := some (let g := withoutGather reg v.g;
          { g with held := tableDel reg g.held
                   core := { g.core with pc := v.iaddr + 8, streams := tableDel reg g.core.streams,
                                         gmark := g.core.gmark.filter (fun m => m.1 != reg)
                                         tags := v.parts.foldl (fun t p => tablePut (p.die * 64 + reg)
                                           (((tableGet (p.die * 64 + reg) t).getD (0, false)).1, true) t) g.core.tags } }) }
          ∧ t.lanes.masks = s.lanes.masks ∧ t.lanes.slices = s.lanes.slices
          ∧ (∀ k, ownCell v reg k → cellGet t.lanes.vregs k = 0) ∧ (∀ k, ¬ ownCell v reg k → cellGet t.lanes.vregs k = cellGet s.lanes.vregs k)))
    ∧ (∀ i, i = Instr.vbind f ∨ i = .vunbind f ∨ i = .vgatherb f → Ready s tid v i → reg < 48 →
        VectorFaults i s v 1 [6, v.iaddr.toNat, 0])
    ∧ (∀ (st : Strip) (pa : Nat → Nat), Ready s tid v (.vgatherb f) → (Instr.vgatherb f).wf = true → 48 ≤ reg → RoomFor v st 0 →
      let m := v.g.core.mfmt
      let w := (elemTypeOf f).width
      let iw := f.fn.toNat / 2 ^ 17 % 4
      let es := actives s v f w
      let place := fun (e : Nat) => elementPlace s v f .indexed e
      FormatOk m f .indexed → v.vl ≤ v.avail w → indexFits v iw → v.vl ≠ 0 →
      (∀ e ∈ es, ElementAt s v .read w false (storedWidth m f) (place e) e [pa e]) →
      ∃ t, exec (.vgatherb f) s = .next t
        ∧ WroteMaskInto s t v { v.t with group := some (heldGroup v v.g.core st [.gather v.iaddr [v.w f.vs1] {
              reg := reg, addrs := (List.range v.vl).map (fun e => if e ∈ es then some (pa e, ((place e).1 % 2 ^ 64).toNat) else none),
              ty := f.ty.toNat, sg := f.fn.toNat / 2 ^ 23 % 2, mfmt := m, fmode := v.fmode,
              rand := (List.range v.vl).map (fun e => (v.rounding (v.mode 0) e 0).rand), delivered := none }] 0
            (convertRounds m f && v.mode 0 == .rsr)) } w f.vs3.toNat
          ((List.range v.vl).map (fun e => (e, decide (e ∈ es ∧ ∃ d ∈ es, d < e ∧ indexOf s v f.vs2 iw d = indexOf s v f.vs2 iw e)))))
    ∧ (∀ st, RoomFor v st 0 → v.vl = 0 → 48 ≤ reg → Ready s tid v (.vgatherb f) → (Instr.vgatherb f).wf = true →
        FormatOk v.g.core.mfmt f .indexed →
        Holds (.vgatherb f) s v st [] 0 (convertRounds v.g.core.mfmt f && v.mode 0 == .rsr))
    ∧ (∀ st, RoomFor v st 0 → Ready s tid v (.sbar f) →
        Holds (.sbar f) s v st [.sbar (f.fn.toNat % 2 ^ 16) (f.fn.toNat / 2 ^ 16)] 0 false)
    ∧ (∀ st ws, RoomFor v st 0 → Ready s tid v (.vcopy f) → va % 16 = 0 → WordsRead s v va 8 ws →
        ws.length = 6 + 2 * (ws.getD 5 0 % 16) → ws.getD 5 0 % 16 ≤ 8 →
        (copyBad ws = false → copyMisaligned ws = none → Holds (.vcopy f) s v st [.copy v.iaddr [v.w f.vs1] (descriptorOf ws)] 0 false)
        ∧ (copyBad ws = true → VectorFaults (.vcopy f) s v 1 [3, v.iaddr.toNat, va]))
    ∧ (Ready s tid v (.vsetmf f) →
      (mfmtIllegal (v.w f.vs1) = false →
        GroupBecomes (.vsetmf f) s v (fun g => { g with core := { g.core with pc := v.iaddr + 8, mfmt := v.w f.vs1 } }))
      ∧ (mfmtIllegal (v.w f.vs1) = true → VectorFaults (.vsetmf f) s v 1 [8, v.iaddr.toNat, 0]))

/-- 13 R222, R223, R228: VAMO at a committed boundary, with release once earlier posts are made, performs its elements in order, leaves the old values in VD and opens a
strip with the same VL; VREDM holds one read-modify-write an active element; VQPOST holds its entries for a pigeonhole that the
thread may post to, and faults on a malformed handle or too many entries. -/
def Obligations.ReadModifyWrites : Prop :=
  (∀ (s : State) (tid : Nat) (v : VCtx) (f : VFields) (pa : Nat → Nat) (m : MemSys) (out : List (Nat × Nat)),
    Ready s tid v (.vamo f) → Placed s v → quiet s → AtBoundary v → (Instr.vamo f).wf = true → v.g.closed = [] → v.t.role = .solo →
    v.g.stopping = false →
    let n := if f.ty = 14 then 4 else 8
    let w := 8 * n
    let opc := f.fn.toNat / 2 ^ 19 % 16
    let es := actives s v f w
    v.vl ≤ v.avail w → indexFits v (f.fn.toNat / 2 ^ 12 % 4) →
    AtomicAt s v f (decide (opc = 10)) n es pa →
    (2 ≤ f.fn.toNat / 2 ^ 14 % 4 → v.g.posts ≠ [] → VectorWaits (.vamo f) s v)
    ∧ ((2 ≤ f.fn.toNat / 2 ^ 14 % 4 → v.g.posts = []) →
    AmoSteps s n (fun e old => amoTable opc n old (v.get s f.vs3.toNat w e) (v.get s f.vd.toNat w e)) (es.map (fun e => (e, pa e))) s.sys m out →
    ∃ t core, exec (.vamo f) s = .next t ∧ t.sys = m
      ∧ (∀ e, e < v.avail w → v.get t f.vd.toNat w e = (out.lookup e).getD (v.get s f.vd.toNat w e))
      ∧ (∀ k, ¬ ownCell v f.vd.toNat k → cellGet t.lanes.vregs k = cellGet s.lanes.vregs k)
      ∧ t.lanes.masks = s.lanes.masks ∧ t.lanes.slices = s.lanes.slices
      ∧ { core with tags := v.g.core.tags, gmark := v.g.core.gmark } = { v.g.core with pc := v.iaddr + 8 }
      ∧ OnlyGroup s { t with sys := s.sys } v { v.t with group := some { v.g with
          core := core, strip := some (freshStrip { core := core, cells := laneCells t.lanes v.parts } v.vl false) } }))
  ∧ (∀ (s : State) (tid : Nat) (v : VCtx) (f : VFields) (st : Strip) (pa : Nat → Nat),
    Ready s tid v (.vredm f) → Placed s v → (Instr.vredm f).wf = true →
    let t := elemTypeOf f
    let n := t.width / 8
    let es := actives s v f t.width
    v.vl ≤ v.avail t.width → indexFits v (f.fn.toNat / 2 ^ 12 % 4) → RoomFor v st (es.length * n) →
    AtomicAt s v f false n es pa →
    Holds (.vredm f) s v st (es.map (fun e => .redm (laneNumber v t.width e) (pa e) (atomicPlace s v f n e) n f.ty.toNat
      (f.fn.toNat / 2 ^ 23 % 2) (f.fn.toNat / 2 ^ 19 % 16) (v.get s f.vs3.toNat t.width e) v.fmode)) 0 false)
  ∧ (∀ (s : State) (tid : Nat) (v : VCtx) (f : VFields), Ready s tid v (.vqpost f) → v.t.role = .solo →
    let x := (v.w f.vs1).toNat
    let count := f.fn.toNat % 2 ^ 9
    ((2 ^ 11 ≤ x ∨ 6 ≤ x / 2 ^ 6 % 8) → VectorFaults (.vqpost f) s v 1 [2, v.iaddr.toNat, 0])
    ∧ (∀ die clu num, die < 4 → clu < 6 → num < 64 → x = handleBits die clu num →
      let n := (die * 6 + clu) * 64 + num
      let h := s.hole n
      (match h.remote with
        | some r => h.owner ≠ none ∧ r = tid
        | none => tid / 64 = die * 6 + clu ∧ ∃ o, h.owner = some o ∧ o.lnum = v.t.lnum ∧ o.form = v.t.form) →
      (32 * v.lanes * v.parts.length < 64 * count → VectorFaults (.vqpost f) s v 1 [11, v.iaddr.toNat, 0])
      ∧ (∀ st, 64 * count ≤ 32 * v.lanes * v.parts.length → RoomFor v st 0 →
          Holds (.vqpost f) s v st [.post v.iaddr [v.w f.vs1, BitVec.ofNat 64 count] n h.gen.toNat (v.w f.vs1)
            ((List.range count).map (fun j => (List.range 64).map (fun k => BitVec.ofNat 8 (v.get s f.vs2.toNat 8 (64 * j + k)))))] 0 false)))

/-- 13 R224 to R226: VWIN declares the window and fills every lane's bins with the identity, VACC folds each active element into
its lane's bin, VMERGE holds one read-modify-write a bin with the fold of every lane's copy; each faults as its entry says. -/
def Obligations.AccumulationWindows : Prop :=
  ∀ (s : State) (tid : Nat) (v : VCtx) (f : VFields) (st : Strip),
    let t := elemTypeOf f
    let n := t.width / 8
    let sg := f.fn.toNat / 2 ^ 23 % 2
    let x := (v.w f.vs1).toNat
    (Ready s tid v (.vwin f) → (Instr.vwin f).wf = true →
      let bins := (v.w f.vs2).toNat
      let op := f.fn.toNat / 2 ^ 19 % 16
      ((x % n ≠ 0 ∨ bins = 0 ∨ 4096 < x + bins * n) → VectorFaults (.vwin f) s v 3 [40, x, 0])
      ∧ (x % n = 0 → 1 ≤ bins → x + bins * n ≤ 4096 → RoomFor v st 0 →
        GroupBecomes (.vwin f) s v (fun _ => heldGroup v
          { v.g.core with window := some { off := x, bins := bins, ty := f.ty.toNat, sg := sg, op := op } } st
          ((lanesOf v).flatMap (fun l => (List.range bins).map (fun b => .slice l.1 l.2 (x + b * n) n (identityOf t op) false))) 0 false)))
    ∧ (∀ i, i = Instr.vacc f ∧ v.vl ≠ 0 ∨ i = .vmerge f → Ready s tid v i →
      (v.g.core.window = none → VectorFaults i s v 1 [13, v.iaddr.toNat, 0])
      ∧ (∀ win, v.g.core.window = some win → ¬ (win.ty = f.ty.toNat ∧ win.sg = sg) → VectorFaults i s v 1 [12, v.iaddr.toNat, 0]))
    ∧ (∀ win, v.g.core.window = some win → win.ty = f.ty.toNat → win.sg = sg → win.off % n = 0 → win.off + win.bins * n ≤ 4096 → Placed s v →
      let op := mergeOp t (v.mode 0) win.op
      (Ready s tid v (.vacc f) → (Instr.vacc f).wf = true → v.vl ≤ v.avail t.width → v.vl ≤ v.avail 32 →
        let es := actives s v f t.width
        let bin := fun (e : Nat) => v.get s f.vs1.toNat 32 e
        let old := fun (l : Nat × Nat) (b : Nat) => readSlice s v.g l.1 l.2 (win.off + b * n) n
        let into := fun (l : Nat × Nat) (b : Nat) => (es.filter (fun e => decide (laneAt v t.width e = l ∧ bin e = b))).map
          (fun e => v.get s f.vs2.toNat t.width e)
        RoomFor v st (8 * es.length) → (∀ e ∈ es, bin e < win.bins) →
        (∀ e ∈ es, SliceClean s (laneAt v t.width e).1 (laneAt v t.width e).2 (win.off + bin e * n) n) →
        ∃ news u g, exec (.vacc f) s = .next u ∧ u.lanes = s.lanes
          ∧ OnlyGroup s u v { v.t with group := some (heldGroup v v.g.core st news g false) }
          ∧ (∀ a ∈ news, ∃ core lane off value, a = .slice core lane off n value true)
          ∧ (∀ l ∈ lanesOf v, ∀ b, b < win.bins →
              readSlice u (heldGroup v v.g.core st news g false) l.1 l.2 (win.off + b * n) n
                = (foldFlags op (old l b) (into l b)).1 % 2 ^ (8 * n))
          ∧ (∀ core lane o, (∀ b, b < win.bins → o < win.off + b * n ∨ win.off + b * n + n ≤ o) →
              sliceByte u (heldGroup v v.g.core st news g false) core lane o = sliceByte s v.g core lane o)
          ∧ (∀ j, g.getLsbD j = true ↔ ∃ l ∈ lanesOf v, ∃ b, b < win.bins ∧ (foldFlags op (old l b) (into l b)).2.getLsbD j = true))
      ∧ (∀ pa : Nat → Nat, ∀ first rest, Ready s tid v (.vmerge f) → (Instr.vmerge f).wf = true → lanesOf v = first :: rest →
        let a := (x : Int) + valueIn true 16 (f.fn.toNat % 2 ^ 16)
        let va := fun (b : Nat) => ((a + (b * n : Nat)) % 2 ^ 64).toNat
        let bin := fun (b : Nat) (l : Nat × Nat) => readSlice s v.g l.1 l.2 (win.off + b * n) n
        let sum := fun (b : Nat) => foldFlags op (bin b first) (rest.map (bin b))
        RoomFor v st (win.bins * n) →
        (∀ b, b < win.bins → va b % n = 0 ∧ translate s (vecAccessor s v v.home) (va b) (.atomic false) = .ok (pa b)) →
        (∀ l ∈ lanesOf v, SliceClean s l.1 l.2 win.off (win.bins * n)) →
        Holds (.vmerge f) s v st ((List.range win.bins).map (fun b => .redm (v.home.core * 256 + v.home.base) (pa b) (va b) n
          win.ty win.sg win.op (sum b).1 v.fmode)) (joined ((List.range win.bins).map sum)) false))

/-- 15 R251, R252 with 05 R92 to R94: VFN gives each active element the value of its table, the die's built-in one or the one in
the element's lane, and VTBLLD at a committed boundary copies a table into every lane and opens a strip with the same VL. -/
def Obligations.FunctionsAndTables : Prop :=
  (∀ (s : State) (tid : Nat) (v : VCtx) (f : VFields), Ready s tid v (.vfn f) → Placed s v → (Instr.vfn f).wf = true → HasRoom v [f.vd.toNat] →
    let table := f.fn.toNat % 2 ^ 5
    let es := actives s v f 32
    v.vl ≤ v.avail 32 →
    let gives := fun (value : Nat → Nat × Flags) =>
      ∃ t, exec (.vfn f) s = .next t
        ∧ WroteElements s t v 32 [(f.vd.toNat, es.map (fun e => (e, (value e).1)))] (joined (es.map value)) false
    (∀ ver : Nat → Nat, table < 16 → (∀ p ∈ v.parts, builtinVersion s v.t p.die table = some (ver p.die)) →
      gives (fun e => builtinTable (builtinSegments (((v.place 32 e).map (fun x => ver x.1.die)).getD 0)) table (v.get s f.vs1.toNat 32 e)))
    ∧ (16 ≤ table → tableGet table v.g.core.tables = none → VectorFaults (.vfn f) s v 1 [18, v.iaddr.toNat, 0])
    ∧ (∀ off size, 16 ≤ table → tableGet table v.g.core.tables = some (off, size) →
      (∀ e ∈ es, SliceClean s (laneAt v 32 e).1 (laneAt v 32 e).2 off size) →
      gives (fun e => segTable (fun o => readSlice s v.g (laneAt v 32 e).1 (laneAt v 32 e).2 (off + o) 4) (v.get s f.vs1.toNat 32 e)))
    ∧ (table < 16 → (∃ p ∈ v.parts, builtinVersion s v.t p.die table = none) →
      ∃ x, x.kind = 9 ∧ exec (.vfn f) s = .next (deliverFault s tid true x)))
  ∧ (∀ (s : State) (tid : Nat) (v : VCtx) (f : VFields) (head words : List Nat) (size : Nat), Ready s tid v (.vtblld f) → Placed s v →
    quiet s → AtBoundary v → v.g.closed = [] → v.g.stopping = false →
    let a := (v.w f.vs1).toNat
    let off := (v.w f.vs2).toNat
    a % 16 = 0 → WordsRead s v a 4 head → head.length = 4 → head.getD 3 0 = 0 → tableSize (head.getD 0 0) = some size →
    WordsRead s v a 4 words → 4 * words.length = size →
    ((off % 16 ≠ 0 ∨ 4096 < off + size) → VectorFaults (.vtblld f) s v 3 [40, off, 0])
    ∧ (off % 16 = 0 → off + size ≤ 4096 →
      ∃ t ldt, exec (.vtblld f) s = .next t
        ∧ { t.sys with slicePoison := s.sys.slicePoison } = s.sys
        ∧ t.lanes.vregs = s.lanes.vregs ∧ t.lanes.masks = s.lanes.masks
        ∧ (∀ l ∈ lanesOf v, ∀ k, k < size → sliceByteOf t.lanes l.1 l.2 (off + k) = joinNumbers 32 words / 2 ^ (8 * k) % 256)
        ∧ (∀ core lane o, core < 192 → lane < 256 → o < 4096 → (core, lane) ∉ lanesOf v ∨ o < off ∨ off + size ≤ o →
            sliceByteOf t.lanes core lane o = sliceByteOf s.lanes core lane o)
        ∧ (∀ b, b < 16 → ldt.getLsbD b = (v.g.core.ldt.getLsbD b || decide (off < 256 * (b + 1) ∧ 256 * b < off + size)))
        ∧ OnlyGroup s { t with sys := s.sys } v { v.t with group := some (
            let core := { v.g.core with pc := v.iaddr + 8, ldt := ldt, tables := tablePut (f.fn.toNat % 2 ^ 5) (off, size) v.g.core.tables };
            { v.g with core := core, strip := some (freshStrip { core := core, cells := laneCells s.lanes v.parts } v.vl false) }) }))

/-! The array: chapter 17. -/

/-- 17 R264, R265, R270, R271, R274 to R278, R282 with 03 R49: VMODE sets AM to the grid of the lane count, or to 0 with a recess
asked for where it was another; an array
operation in array mode joins the queue of 8 and counts its registers, waits at a full queue, and faults outside array mode,
on another grid or on operands that it does not allow; MCHAIN sets or clears the links of a part; in a shadow its word names the matching
members (23 R364). -/
def Obligations.ArrayIssue : Prop :=
  ∀ (s : State) (tid : Nat) (v : VCtx),
    (∀ f, Ready s tid v (.vmodeArr f) →
      (∀ am, modeCode v.lanes = some am →
        GroupBecomes (.vmodeArr f) s v (fun g => { g with core := { g.core with pc := v.iaddr + 8, am := am } }))
      ∧ (modeCode v.lanes = none → VectorFaults (.vmodeArr f) s v 1 [20, v.iaddr.toNat, 0]))
    ∧ (∀ f, Ready s tid v (.vmodeVec f) →
        GroupBecomes (.vmodeVec f) s v (fun g => { g with
          quiesce := g.quiesce || g.core.am != 0, core := { g.core with pc := v.iaddr + 8, am := 0 } }))
    ∧ (∀ i regs, ReadyToQueue s tid v i → i.wf = true → arrayWrites v i = some regs →
      (8 ≤ v.g.queue.length → VectorWaits i s v)
      ∧ (v.g.queue.length < 8 → v.g.core.am = 0 → VectorFaults i s v 1 [21, v.iaddr.toNat, 0])
      ∧ (v.g.queue.length < 8 → v.g.core.am ≠ 0 → modeCode v.lanes ≠ some v.g.core.am → VectorFaults i s v 1 [20, v.iaddr.toNat, 0])
      ∧ (v.g.queue.length < 8 → v.g.core.am ≠ 0 → modeCode v.lanes = some v.g.core.am →
        (∀ d, arrayDetail v i = some d → VectorFaults i s v 1 [d, v.iaddr.toNat, 0])
        ∧ (arrayDetail v i = none → HasRoom v regs → GroupBecomes i s v (fun g => { g with
            core := { g.core with pc := v.iaddr + 8 }
            strip := g.strip.map (fun st => { st with written := regs.foldl (fun ws r => setAdd r ws) st.written })
            queue := g.queue ++ [{ instr := i, iaddr := v.iaddr, ssn := v.g.core.vssn, outside := decide (v.g.strip = none)
                                   started := false, entries := [] }] }))))
    ∧ (∀ f, ReadyToQueue s tid v (.mchain f) →
      (v.g.queue ≠ [] → VectorWaits (.mchain f) s v)
      ∧ (v.g.queue = [] → v.g.core.am ≠ 0 → modeCode v.lanes ≠ some v.g.core.am →
          VectorFaults (.mchain f) s v 1 [20, v.iaddr.toNat, 0])
      ∧ (∀ set up down part p, v.g.queue = [] → (v.g.core.am = 0 ∨ modeCode v.lanes = some v.g.core.am) →
          (∀ m, up = some m ∨ down = some m → MemberOk m) → (set = false → up = none ∧ down = none) → part < 4 →
          (v.w f.vs1).toNat = chainWord set up down part → v.parts[part]? = some p →
          let here := memberFor s v.t
          ((∀ m, up = some m ∨ down = some m → chainPartnerOk s v.t p (here m) = true) →
            GroupBecomes (.mchain f) s v (fun g => { g with core := { g.core with
              pc := v.iaddr + 8
              links := if set then tablePut p.die { up := up.map here, down := down.map here } g.core.links
                else tableDel p.die g.core.links } }))
          ∧ ((∃ m, (up = some m ∨ down = some m) ∧ chainPartnerOk s v.t p (here m) = false) →
            VectorFaults (.mchain f) s v 2 [33, v.iaddr.toNat])))

/-- 17 R279 to R281: MLDT fills its registers with the tile that its fields describe, zero past the edges, and for codes with
block scales the scale register, 127 past the edges; VTRN8 transposes the leading square of a group on each die. -/
def Obligations.TileReadsAndTransposes : Prop :=
  (∀ (s : State) (tid : Nat) (v : VCtx) (f : VFields) (gr gc : Nat) (x : TileFields) (pa : Nat → Nat → Nat → Nat → Nat)
      (ps : Nat → Nat → Nat → Nat),
    Ready s tid v (.mldt f) → Placed s v → quiet s → (Instr.mldt f).wf = true → gridFor v.lanes = some (gr, gc) →
    (v.g.core.am = 0 ∨ modeCode v.lanes = some v.g.core.am) →
    let w := operandBits f.ty.toNat
    let mx := 12 ≤ f.ty.toNat
    let opb := f.fn.getLsbD 16
    let d := if opb then 8 * gc else 8 * gr
    let depth := 256 * v.lanes / (w * (8 * gr))
    let gm := f.fn.toNat / 2 ^ 13 % 8 + 1
    let sreg := f.fn.toNat / 2 ^ 18
    let scaleAt := fun (i q : Nat) => (if opb then 8 * gr * (depth / 32) else 0) + i * (depth / 32) + q
    let regs := (List.range gm).map (fun h => f.vd.toNat + h) ++ (if mx then [sreg] else [])
    x.In (v.w f.vs1).toNat (v.w f.vs2).toNat (v.w f.vs3).toNat → (¬ mx → x.sbase = 0 ∧ x.srp = 0) →
    x.base % 16 = 0 → x.rp % 16 = 0 → x.tp % 16 = 0 →
    f.vd.toNat + gm ≤ 64 → (mx → gm = 1 ∧ sreg ≠ f.vd.toNat) → HasRoom v regs →
    (∀ p h i k, p < v.parts.length → h < gm → i < min d x.drem → k < depth → h * depth + k < x.krem →
      WindowRead s v w (p * v.vmax w + (k * d + i)) (x.offset w depth h i k) (bytesFor w) (pa p h i k)
        ∧ (f.fn.getLsbD 12 = true → ∀ u, pa p h i k / 16 ≤ u → u * 16 < pa p h i k + bytesFor w → cellGet s.sys.granules u = 0b01)) →
    (mx → ∀ p i q, p < v.parts.length → i < min d x.drem → q < depth / 32 → 32 * q < x.krem →
      WindowRead s v w (p * v.vmax w) (x.sbase + i * x.srp + q) 1 (ps p i q)
        ∧ (f.fn.getLsbD 12 = true → cellGet s.sys.granules (ps p i q / 16) = 0b01)) →
    ∃ t, exec (.mldt f) s = .next t
      ∧ (∀ p h n, p < v.parts.length → h < gm → n < v.vmax w →
          partElem t v p (f.vd.toNat + h) w n =
            (let k := n / d
             let i := n % d
             if k < depth ∧ i < x.drem ∧ h * depth + k < x.krem then
               seenNumber s v (pa p h i k) (bytesFor w) / 2 ^ (x.bitOf w depth i k % 8) % 2 ^ codeBits f.ty.toNat
             else 0))
      ∧ (mx → ∀ p i q, p < v.parts.length → i < d → q < depth / 32 →
          partElem t v p sreg 8 (scaleAt i q) = (if i < x.drem ∧ 32 * q < x.krem then seenNumber s v (ps p i q) 1 else 127))
      ∧ (mx → ∀ p n, p < v.parts.length → n < v.vmax 8 → (∀ i q, i < d → q < depth / 32 → n ≠ scaleAt i q) →
          partElem t v p sreg 8 n = partElem s v p sreg 8 n)
      ∧ (∀ key, (∀ r ∈ regs, ¬ ownCell v r key) → cellGet t.lanes.vregs key = cellGet s.lanes.vregs key)
      ∧ t.lanes.masks = s.lanes.masks ∧ t.lanes.slices = s.lanes.slices
      ∧ ∃ tags marks, OnlyGroup s t v (afterVector v { v.g.core with pc := v.iaddr + 8, tags := tags, gmark := marks } regs 0 false))
  ∧ (∀ (s : State) (tid : Nat) (v : VCtx) (f : VFields), Ready s tid v (.vtrn8 f) → Placed s v → (Instr.vtrn8 f).wf = true →
    (gridFor v.lanes = none → VectorFaults (.vtrn8 f) s v 1 [20, v.iaddr.toNat, 0])
    ∧ (gridFor v.lanes ≠ none → v.vl = 0 → GroupBecomes (.vtrn8 f) s v (atPc (v.iaddr + 8)))
    ∧ (∀ gr gc, gridFor v.lanes = some (gr, gc) → v.vl ≤ v.avail 32 → HasRoom v (tileOf f.vd) → v.vl ≠ 0 →
      let c := 8 * gc
      let rho := v.vmax 32 / c
      let side := fun (p : Nat) => min c ((min (v.vmax 32) (v.vl - p * v.vmax 32) + rho - 1) / rho)
      ∃ t, exec (.vtrn8 f) s = .next t
        ∧ (∀ p i j, p < v.parts.length → i * c + j < 8 * v.vmax 32 → j < c →
            groupOf t v p f.vd 32 (i * c + j) =
              (if i < side p ∧ j < side p then groupOf s v p f.vd 32 (j * c + i) else groupOf s v p f.vd 32 (i * c + j)))
        ∧ (∀ key, (∀ r ∈ tileOf f.vd, ¬ ownCell v r key) → cellGet t.lanes.vregs key = cellGet s.lanes.vregs key)
        ∧ t.lanes.masks = s.lanes.masks ∧ t.lanes.slices = s.lanes.slices
        ∧ ∃ tags marks, OnlyGroup s t v
            (afterVector v { v.g.core with pc := v.iaddr + 8, tags := tags, gmark := marks } (tileOf f.vd) 0 false)))

/-- 17 R266 to R268, R271, R274 to R278, R283: the completion of the oldest array operation, once started, leaves its results in
every part, takes it off the queue, holds its flags as the strip does, and sends a chained pass's results downstream. Of an
operation issued outside any strip the flags and what it delivers do not wait for a commit (the model's choice: log 16). -/
def Obligations.ArrayResults : Prop :=
  ∀ (s : State) (tid : Nat) (v : VCtx) (op : ArrayOp) (rest : List ArrayOp) (regs : List Nat) (gr gc : Nat),
    vctx s tid = some v → Placed s v → v.g.queue = op :: rest → op.started = true → op.instr.wf = true →
    arrayWrites v op.instr = some regs → arrayDetail v op.instr = none → gridFor v.lanes = some (gr, gc) →
    v.parts.Pairwise (fun p q => p.die ≠ q.die) →
    let delivers := fun (d : Nat) => ∃ f, op.instr = .mpass f ∧ flagCH f = true ∧ (linksOf v.g d).down ≠ none
    ∃ t core flags out, exec (.arrayOpComplete tid) s = .next t
      ∧ (∀ p part, v.parts[p]? = some part → ArrayValues s t v op gr gc p part.die)
      ∧ (∀ key, (∀ r ∈ regs, ¬ ownCell v r key) → cellGet t.lanes.vregs key = cellGet s.lanes.vregs key)
      ∧ t.lanes.masks = s.lanes.masks ∧ t.lanes.slices = s.lanes.slices
      ∧ (op.outside = true → v.g.strip = none → v.g.closed = [] → v.t.loader = none → v.g.leaving = [] →
        ((∀ p ∈ v.parts, ¬ delivers p.die) → OnlyGroup s t v { v.t with
            ctx := { v.t.ctx with fflags := v.t.ctx.fflags ||| flags }
            group := some { v.g with core := core, queue := rest } })
        ∧ (∀ f part q d buf h, op.instr = .mpass f → v.parts = [part] → delivers part.die → q ≠ tid → s.group q = some h →
            linkBuffer s tid part.die (passEntry s v f op gr gc 0 part.die) = some (q, d, buf) → buf.length < 4 →
            t.group q = some { h with buffers := tablePut d (buf ++ [passEntry s v f op gr gc 0 part.die]) h.buffers }))
      ∧ { core with tags := v.g.core.tags, gmark := v.g.core.gmark } = v.g.core
      ∧ (∀ d, tableGet d out = match op.instr, v.parts.zipIdx.find? (fun x => x.1.die == d) with
          | .mpass f, some (_, p) => if flagCH f = true ∧ (linksOf v.g d).down ≠ none
              then some ((tableGet d v.g.outgoing).getD [] ++ [passEntry s v f op gr gc p d]) else tableGet d v.g.outgoing
          | _, _ => tableGet d v.g.outgoing)
      ∧ (op.outside = false → OnlyGroup s t v { v.t with
          ctx := if v.g.strip = none then { v.t.ctx with fflags := v.t.ctx.fflags ||| flags } else v.t.ctx
          group := some { v.g with
            core := core
            queue := rest
            outgoing := out
            strip := v.g.strip.map (fun st => { st with flags := st.flags ||| flags }) } })

/-- 17 R271, R283, R285, 01 R31: the next queued operation starts unless the array rests or is to rest, the package is hot or a
chain entry is missing; the array rests once no started operation is left, a stopped group's until its resume; a chained pass takes the oldest entry of its link, and
faults on one of another code, lane count, or of a fifth hop. -/
def Obligations.ArrayEvents : Prop :=
  (∀ (s : State) (tid : Nat) (v : VCtx) (before : List ArrayOp) (op : ArrayOp) (after : List ArrayOp), vctx s tid = some v →
    v.g.queue = before ++ op :: after → (∀ x ∈ before, x.started = true) → op.started = false →
    (v.g.recess = false → v.g.quiesce = false → v.g.stop = none → s.sched.hot = false →
      (∀ f, op.instr = .mpass f → ∀ p ∈ v.parts, flagCH f = true → (linksOf v.g p.die).up ≠ none → tableGet p.die op.entries ≠ none) →
      GroupBecomes (.arrayOpStart tid) s v (fun g => { g with queue := before ++ { op with started := true } :: after }))
    ∧ ((v.g.recess = true ∨ v.g.quiesce = true ∨ v.g.stop ≠ none ∨ s.sched.hot = true
        ∨ ∃ f, op.instr = .mpass f ∧ ∃ p ∈ v.parts, flagCH f = true ∧ (linksOf v.g p.die).up ≠ none ∧ tableGet p.die op.entries = none) →
      exec (.arrayOpStart tid) s = .next s)
    ∧ (∀ f p e taken later, op.instr = .mpass f → v.parts = [p] → flagCH f = true → (linksOf v.g p.die).up ≠ none →
      tableGet p.die op.entries = none → v.g.stop = none → tableGet p.die v.g.buffers = some (taken ++ e :: later) →
      (∀ x ∈ taken, x.consumed = true) → e.consumed = false →
      (∀ l ∈ v.g.core.links, ∀ m q d g, l.2.up = some m → memberPart s m = some (q, d) → s.group q = some g → g.leaving = []) →
      let fault := fun (code : Nat) => exec (.chainEntryConsume tid) s =
        .next (deliverFault s tid true (faultOf 1 [code, op.iaddr.toNat, 0]))
      let tooFar := e.hop = 4 ∧ (linksOf v.g p.die).down ≠ none
      ((e.code ≠ f.ty.toNat ∨ e.lanes ≠ v.lanes) → fault 25)
      ∧ (e.code = f.ty.toNat → e.lanes = v.lanes → tooFar → fault 26)
      ∧ (e.code = f.ty.toNat → e.lanes = v.lanes → ¬ tooFar → GroupBecomes (.chainEntryConsume tid) s v (fun g => { g with
          buffers := tablePut p.die (taken ++ (if op.outside = true then [] else [{ e with consumed := true }]) ++ later) g.buffers
          queue := before ++ { op with entries := tablePut p.die e op.entries } :: after }))))
  ∧ (∀ (s : State) (tid : Nat) (v : VCtx), vctx s tid = some v →
    ((∀ x ∈ v.g.queue, x.started = false) →
      GroupBecomes (.arrayRecess tid) s v (fun g => { g with recess := g.recess || g.stop.isSome, quiesce := false }))
    ∧ ((∃ x ∈ v.g.queue, x.started = true) → exec (.arrayRecess tid) s = .next s))

/-! Slate: chapter 19. -/

/-- 19 R303 to R308: SLOAD checks an image and holds its load where the cells, the iteration time and the live state allow it,
SFREE holds a clearing, SQUERY reads the slots, XOP runs a compute graph over each die's active elements in order, SSTART
holds the start of a memory graph; an empty slot and a graph of another kind or type fault. -/
def Obligations.SlateInstructions : Prop :=
  ∀ (s : State) (tid : Nat) (v : VCtx) (f : VFields),
    let k := slotOf f
    let a := (v.w f.vs1).toNat
    (∀ st ws, Ready s tid v (.sload f) → quiet s → a % 16 = 0 → WordsRead s v a 8 ws → 2 ≤ ws.length →
      let x := joinNumbers 64 ws
      let g := graphOf x
      ws.length = 2 * (1 + graphRecords (x % 2 ^ 128)) →
      (∀ node, graphFault g = some node → VectorFaults (.sload f) s v 1 [27, v.iaddr.toNat, a, node])
      ∧ (graphFault g = none → g.ver = 1 → loadStatus v k g ≠ 0 → WritesW (.sload f) s v f.vd (BitVec.ofNat 64 (loadStatus v k g)))
      ∧ (graphFault g = none → g.ver = 1 → loadStatus v k g = 0 → RoomFor v st 0 →
          GroupBecomes (.sload f) s v (fun _ => heldGroup v { v.g.core with w := v.g.core.w.setIfInBounds f.vd.toNat 0 } st
            [.load k a (bytesOf (8 * ws.length) x) g.cost] 0 false)))
    ∧ (∀ st, Ready s tid v (.sfree f) → RoomFor v st 0 → Holds (.sfree f) s v st [.clear k] 0 false)
    ∧ (Ready s tid v (.squery f) → WritesW (.squery f) s v f.vd (BitVec.ofNat 64 (
        (128 - ((v.g.slots.filter (fun e => e.2.st != 0)).map (fun e => e.2.cost)).foldl (fun n c => n + c) 0) * 2 ^ 32
          + (v.g.slots.map (fun e => e.2.st * 8 ^ e.1)).foldl (fun n c => n + c) 0)))
    ∧ (∀ i, i = Instr.xop f ∨ i = .sstart f → Ready s tid v i → EmptySlot v k →
        VectorFaults i s v 8 [k, v.iaddr.toNat, match i with | .xop _ => 0 | _ => 1])
    ∧ (∀ sl, InSlot v k sl →
      let g := graphOf (leValue sl.image)
      (Ready s tid v (.xop f) → (Instr.xop f).wf = true →
        (g.kind ≠ 1 → VectorFaults (.xop f) s v 1 [29, v.iaddr.toNat, 0])
        ∧ (g.kind = 1 → ¬ (g.ty = f.ty.toNat ∧ g.sg = f.fn.toNat / 2 ^ 23 % 2) → VectorFaults (.xop f) s v 1 [30, v.iaddr.toNat, 0])
        ∧ (g.kind = 1 → g.ty = f.ty.toNat → g.sg = f.fn.toNat / 2 ^ 23 % 2 → SourcesOk f g.nsrc →
          (sl.st = 1 → VectorWaits (.xop f) s v)
          ∧ (sl.st ≠ 1 → Placed s v → HasRoom v [f.vd.toNat] →
            let w := (elemTypeOf f).width
            let input := fun (e : Nat) => ({ srcs := (sourcesOf f g.nsrc).map (fun r => ⟨v.get s r.toNat w e, w, g.sg == 1⟩), index := e } : GInput)
            let before := if f.fn.getLsbD 3 then [] else (tableGet k v.g.core.live).getD []
            let blocks := (List.range v.parts.length).map (fun p =>
              graphSteps g input ((actives s v f w).filter (fun e => e / v.vmax w == p)) (g.liveOr (before.getD p [])))
            let news := blocks.flatMap Prod.fst
            v.vl ≤ v.avail w →
            ∃ t, exec (.xop f) s = .next t
              ∧ WroteInto s t v { v.g.core with live := tablePut k (blocks.map Prod.snd) v.g.core.live } w
                [(f.vd.toNat, news.map (fun y => (y.1, y.2.1)))] (joined (news.map Prod.snd)) false)))
      ∧ (Ready s tid v (.sstart f) → (Instr.sstart f).wf = true →
        let params := (sourcesOf f g.nsrc).map v.w
        let start := fun (post : Option (Nat × Nat)) => ({
          slot := k, count := (v.w f.vd).toNat % 2 ^ 32, params := params, reset := f.fn.getLsbD 3,
          stream := if f.fn.getLsbD 8 then some (48 + f.fn.toNat / 2 ^ 4 % 16) else none, post := post } : RunStart)
        (g.kind ≠ 2 → VectorFaults (.sstart f) s v 1 [29, v.iaddr.toNat, 0])
        ∧ (∀ st, g.kind = 2 → SourcesOk f g.nsrc → RoomFor v st 0 →
          (f.fn.getLsbD 9 = false → Holds (.sstart f) s v st [.start v.iaddr (v.w f.vd :: params) (start none)] 0 false)
          ∧ (∀ die clu num, v.t.role = .solo → f.fn.getLsbD 9 = true → die < 4 → clu < 6 → num < 64 →
            f.fn.toNat / 2 ^ 10 % 2 ^ 11 = handleBits die clu num →
            let h := s.hole ((die * 6 + clu) * 64 + num)
            (match h.remote with
              | some r => h.owner ≠ none ∧ r = tid
              | none => tid / 64 = die * 6 + clu ∧ ∃ o, h.owner = some o ∧ o.lnum = v.t.lnum ∧ o.form = v.t.form) →
            Holds (.sstart f) s v st
              [.start v.iaddr (v.w f.vd :: params) (start (some ((die * 6 + clu) * 64 + num, h.gen.toNat)))] 0 false))))

/-- 19 R288, R298 to R302, R309, R310: a placement makes its slot ready; an iteration performs its stores in order, shifts its
live state and extends its stream, waits, or stops the run with its cause; a run that is over leaves its slot and posts its
entry; a loader that has returned, with its blocks over, gives back what was set aside. -/
def Obligations.SlateEvents : Prop :=
  (∀ (s : State) (tid : Nat) (v : VCtx) (k : Nat) (sl : Slot), vctx s tid = some v → tableGet k v.g.slots = some sl →
    (sl.st = 1 → sl.reload = false → GroupBecomes (.slatePlacementComplete tid k) s v (fun g => { g with
        slots := tablePut k { sl with st := if (graphOf (leValue sl.image)).kind = 1 then 2 else if sl.run.isSome then 4 else 3
                                      reload := false } g.slots }))
    ∧ (sl.st ≠ 1 → exec (.slatePlacementComplete tid k) s = .next s))
  ∧ (∀ (s : State) (tid : Nat) (v : VCtx) (k : Nat) (sl : Slot) (r : Run), vctx s tid = some v → quiet s → v.t.isShadow = false →
    tableGet k v.g.slots = some sl → sl.run = some r → sl.st = 4 → v.g.stop = none → r.stopped = none → r.next < r.count →
    Memory.wf s.sys.mem = true →
    let it := iterationOf s v sl r
    let g := graphOf (leValue sl.image)
    let inp : GInput := { srcs := r.params.map (fun p => ⟨p.toNat, 64, false⟩), index := r.next }
    (it.waits = true → it.stop = none → exec (.memgraphIteration tid k) s = .next s)
    ∧ (it.waits = false → it.stop = none → (∀ x ∈ it.loads, Usable s x.2.1 x.2.2) → (∀ x ∈ it.stores, lostNode s x.2.1 = none) →
      ∃ t, exec (.memgraphIteration tid k) s = .next t
        ∧ (∀ a, byteOf t a = it.stores.foldl (fun b x => overPort x a b) (byteOf s a))
        ∧ t.lanes = s.lanes ∧ OnlyGroup s { t with sys := s.sys } v { v.t with group := some { v.g with
            slots := tablePut k { sl with live := shiftDelays g inp it.ev
                                          run := some { r with next := r.next + 1, flags := r.flags ||| it.ev.flags } } v.g.slots
            runData := match r.stream with
              | some reg => tableMod reg (fun d => { d with values := d.values ++ it.out }) v.g.runData
              | none => v.g.runData } })
    ∧ (∀ cause addr, ((∃ m, it.stop = some (cause, addr, m))
          ∨ it.stop = none ∧ it.waits = false ∧ cause = 1 ∧ ∃ clean pa n later, it.loads = clean ++ (addr, pa, n) :: later
            ∧ (∀ x ∈ clean, Usable s x.2.1 x.2.2) ∧ (∀ x ∈ it.loads, lostNode s x.2.1 = none) ∧ poisonAt s.sys pa n ≠ none) →
      ∃ t x y, exec (.memgraphIteration tid k) s = .next t ∧ t.thread tid = some x ∧ x.group = some y
        ∧ tableGet k y.slots = some { sl with run := some { r with stopped := some (cause, addr) } }
        ∧ ∀ a, byteOf t a = byteOf s a))
  ∧ (∀ (s : State) (tid : Nat) (v : VCtx) (k : Nat) (sl : Slot) (r : Run), vctx s tid = some v →
    tableGet k v.g.slots = some sl → sl.run = some r → v.g.stop = none → (r.stopped ≠ none ∨ sl.st = 4 ∧ r.count ≤ r.next) →
    SeatsSettled s (tid / 8) →
    (r.post = none → GroupBecomes (.memgraphRunComplete tid k) s v (runLeft k sl r))
    ∧ (∀ n gen, r.post = some (n, gen) →
      let h := s.hole n
      ((h.owner = none ∨ h.gen.toNat ≠ gen) → GroupBecomes (.memgraphRunComplete tid k) s v (runLeft k sl r))
      ∧ (h.owner ≠ none → h.gen.toNat = gen → h.remote = none → h.depth ≤ h.count → exec (.memgraphRunComplete tid k) s = .next s)
      ∧ (h.owner ≠ none → h.gen.toNat = gen → h.remote = none → h.count < h.depth → quiet s → Memory.wf s.sys.mem = true →
          cellsWf s.sys.granules = true →
          ∃ t, exec (.memgraphRunComplete tid k) s = .next t ∧ StoredAt s t (entryAddress (n / 64) h h.tail) (completionBytes k r) true
            ∧ t.hole n = { h with tail := (h.tail + 1) % h.depth, count := h.count + 1, ps := h.ps + 1, notify := h.notify + 1 }
            ∧ (∀ m, m ≠ n → t.hole m = s.hole m)
            ∧ t.thread tid = some { v.t with group := some (runLeft k sl r v.g) })))
  ∧ (∀ (s : State) (tid : Nat) (v : VCtx) (h : LoaderHold), vctx s tid = some v → v.t.loader = some h → Placed s v →
    cellsWf h.ckpt.cells.masks = true →
    ((h.leaving = false ∨ v.g.blocksOver = false ∨ v.t.stopped = true ∨ v.g.stop ≠ none) → exec (.loaderReturn tid) s = .next s)
    ∧ (h.leaving = true → v.g.blocksOver = true → v.t.stopped = false → v.g.stop = none →
      let core := { h.ckpt.core with tables := v.g.core.tables, streams := v.g.core.streams, live := v.g.core.live,
                                     tags := v.g.core.tags, ldt := v.g.core.ldt }
      ∃ t y, exec (.loaderReturn tid) s = .next t
        ∧ t.thread tid = some { v.t with ctx := h.ctx, waiting := none, loader := none, group := some y }
        ∧ y.core = core ∧ y.running = true ∧ y.block = h.block ∧ y.vblk = h.vblk ∧ y.replay = h.replay
        ∧ (y.strip = none ↔ h.strip = none) ∧ (∀ st st', h.strip = some st → y.strip = some st' → st'.ckpt.core = core
            ∧ { st' with ckpt := st.ckpt } = st)
        ∧ y.slots = v.g.slots ∧ y.held = [] ∧ t.sys = s.sys
        ∧ (∀ key, (∃ p ∈ v.parts, key / 16384 = p.core ∧ p.base ≤ key % 256 ∧ key % 256 < p.base + p.lanes) →
            cellGet t.lanes.vregs key = cellGet s.lanes.vregs key)
        ∧ (∀ key, (∃ p ∈ v.parts, key / 2048 = p.core ∧ p.base ≤ key % 256 ∧ key % 256 < p.base + p.lanes) →
            cellGet t.lanes.masks key = cellGet h.ckpt.cells.masks key)))

/-! Other encodings, faults and waits: chapters 09, 11, 23. -/

/-- 09 R147, R149 to R151, 03 R62: a convoy header of legal units and classes only passes, any other faults at the header; an
encoding that no instruction defines faults where it stands, as does one that a provided opcode of row 0xE_ leaves undefined;
an opcode that a die of the group does not provide takes a feature-level fault, and the model refuses a defined one (log 15). -/
def Obligations.ConvoysAndReservedEncodings : Prop :=
  (∀ (s : State) (tid : Nat) (v : VCtx) (len k0 k1 k2 k3 k4 k5 : BitVec 3), Ready s tid v (.convoy len k0 k1 k2 k3 k4 k5) →
    let i := Instr.convoy len k0 k1 k2 k3 k4 k5
    let all := [k0.toNat, k1.toNat, k2.toNat, k3.toNat, k4.toNat, k5.toNat]
    let n := len.toNat
    let headerOk := 2 ≤ n ∧ n ≤ 6 ∧ (∀ k ∈ all.drop n, k = 0) ∧ UnitsOk (all.take n)
    (¬ headerOk → VectorFaults i s v 1 [0, v.iaddr.toNat, 0])
    ∧ (∀ ops, headerOk → ops.length = n → OpcodesAt s (threadAccessor s tid v.t) (v.iaddr.toNat + 4) ops →
      (ops.map chainingClass = (all.take n).map some → GroupBecomes i s v (atPc (v.iaddr + 4)))
      ∧ (ops.map chainingClass ≠ (all.take n).map some → VectorFaults i s v 1 [0, v.iaddr.toNat, 0])))
  ∧ (∀ (s : State) (first second : Parcel),
    (∀ a, agentOf s = some a → Faults (.undefinedEncoding first second) s 1 [0, a.ctx.pc.toNat, 0])
    ∧ (∀ tid v, Ready s tid v (.undefinedEncoding first second) →
        VectorFaults (.undefinedEncoding first second) s v 1 [0, v.iaddr.toNat, 0]))
  ∧ (∀ (s : State) (tid : Nat) (v : VCtx) (op : BitVec 4) (f : VFields), Ready s tid v (.microcodeOpcode op f) →
    let has := fun (d : Nat) => ∃ h : d < 4, (s.proctor.micro[d]).emask.getLsbD op.toNat = true
    let defined := Config.opcodeDefines (dieLevel s (tid / 384)) op.toNat f
    ((∀ p ∈ v.parts, has p.die) → defined = false → VectorFaults (.microcodeOpcode op f) s v 1 [0, v.iaddr.toNat, 0])
    ∧ ((∀ p ∈ v.parts, has p.die) → defined = true → exec (.microcodeOpcode op f) s = .refused (.microcodeDefined (0xE0 + op.toNat)))
    ∧ (∀ p ps qs, v.parts = ps ++ p :: qs → (∀ q ∈ ps, has q.die) → ¬ has p.die → ∀ (h : p.die < 4) hi lo,
        encode (.microcodeOpcode op f) = [hi, lo] →
        exec (.microcodeOpcode op f) s = .next (deliverFault s tid true { (faultOf 9 [v.iaddr.toNat, hi.toNat,
          (s.proctor.micro[p.die]).level.toNat]) with feature := some (.opcode op.toNat) })))

/-- 23 R343 to R347, R350, R352, 03 R50, R51: a fault delivers its record; one that ends the kernel ends it with CAUSE 2; a vector
fault takes the group back to its checkpoint and performs nothing; a fault that the Proctor resolves holds its agent alone; an
empty Slate slot enters the loader; a Proctor core enters its handler, or halts in it. -/
def Obligations.FaultsRollBackAndRecord : Prop :=
  (∀ (s : State) (tid : Nat) (v : VCtx) (f : FaultInfo), vctx s tid = some v → v.t.role = .solo → PlainFault f →
    let u := deliverFault s tid true f
    let word := fun (ends : Bool) => recordOf f.kind true ends false tid (f.edie.getD (tid / 384)) v.t.ctx.pc (vcpOf v.g) v.g.core.vssn
      v.t.lnum (s.cycle (tid / 384)) f.d
    let was := rolledBack v.g
    (faultEnds s v.t f = true → u.proctor.checks = s.proctor.checks ++ [word true] ∧
      ∀ k, s.kernel v.t.lnum = some k → k.ended = none → k.done = none →
        ∃ k', u.kernel v.t.lnum = some k' ∧ k'.ended = some (2, f.kind) ∧ k'.forms = [])
    ∧ (faultEnds s v.t f = false → f.kind = 4 ∨ f.kind = 9 →
      OnlyGroup s { u with proctor := s.proctor } v { v.t with group := some { was with faulted := true } }
        ∧ u.proctor = { s.proctor with faults := s.proctor.faults ++ [⟨word false, tid, true, f.kind, f.feature⟩] }
        ∧ LanesRolledBack s u v)
    ∧ (∀ k im e, faultEnds s v.t f = false → f.kind = 8 → s.kernel v.t.lnum = some k → s.image k.image = some im →
        im.kernels[k.kidx]? = some e →
      ∃ x h, u.thread tid = some x ∧ x.loader = some h ∧ u.sys = s.sys ∧ LanesRolledBack s u v
        ∧ x.ctx.pc = e.sldr + BitVec.ofNat 64 im.base ∧ x.ctx.rd 1 = 0x00FFFFFFFEFF0000 ∧ x.ctx.rd 4 = f.d.getD 0 0
        ∧ x.ctx.rd 5 = f.d.getD 1 0 ∧ x.ctx.rd 6 = f.d.getD 2 0
        ∧ (∀ r, r ≠ 1 → r ≠ 4 → r ≠ 5 → r ≠ 6 → x.ctx.rd r = v.t.ctx.rd r)
        ∧ h.ctx = v.t.ctx ∧ h.ckpt.core = was.core ∧ h.strip = was.strip ∧ h.replay = was.replay ∧ h.vblk = v.g.vblk
        ∧ h.block = v.g.block ∧ h.leaving = false
        ∧ x.group = some { was with
            core := { was.core with vl := 0, frag := BitVec.allOnes 65536, pending := [] }, running := false, block := none
            vblk := [], strip := none, replay := none, emptyAgain := (f.d.getD 1 0, v.g.core.vssn) :: v.g.emptyAgain }))
  ∧ (∀ (s : State) (tid : Nat) (t : Thread) (f : FaultInfo), s.thread tid = some t → PlainFault f →
    let u := deliverFault s tid false f
    let word := fun (ends : Bool) => recordOf f.kind false ends t.isShadow tid (f.edie.getD (tid / 384)) t.ctx.pc 0 0 t.lnum
      (s.cycle (tid / 384)) f.d
    (faultEnds s t f = true → u.proctor.checks = s.proctor.checks ++ [word true] ∧
      ∀ k, s.kernel t.lnum = some k → k.ended = none → k.done = none →
        ∃ k', u.kernel t.lnum = some k' ∧ k'.ended = some (2, f.kind) ∧ k'.forms = [])
    ∧ (faultEnds s t f = false → f.kind = 4 →
      SameSurroundings s u ∧ u.sys = s.sys ∧ (∀ j, u.thread j = if j = tid then some { t with faulted := true } else s.thread j)
        ∧ u.proctor = { s.proctor with faults := s.proctor.faults ++ [⟨word false, tid, false, 4, f.feature⟩] })
    ∧ (f.kind = 11 → SameSurroundings s u ∧ u.sys = s.sys ∧ u.threads = s.threads
        ∧ u.proctor.checks = s.proctor.checks ++ [word false] ∧ u.proctor.logNext = s.proctor.logNext + 1))
  ∧ (∀ (s : State) (k : Nat) (p : ProctorCore) (f : FaultInfo), s.actor = .proctor k → s.pcore k = some p → PlainFault f →
    let u := takeScalarFault s f
    let frame := p.pxframe.toNat % 2 ^ 52 / 16 * 16
    (p.inHandler = false → p.pxhand ≠ 0 →
      u.pcore k = some { p with inHandler := true, waiting := none, ctx := { p.ctx with pc := wrap (p.pxhand.toNat % 2 ^ 52 / 16 * 16 : Nat) } }
      ∧ u.threads = s.threads ∧ (Memory.wf s.sys.mem = true → BytesOutside s u frame 144
        ∧ ∀ j b x, b < 8 → (p.ctx.pc :: BitVec.ofNat 64 (0x100 + f.kind)
            :: recordOf f.kind false false false 0 0 p.ctx.pc 0 0 0 (s.cycle 4) f.d)[j]? = some x →
          byteOf u (frame + 8 * j + b) = BitVec.ofNat 8 (x.toNat / 2 ^ (8 * b))))
    ∧ (p.inHandler = true → u.pcore k = some { p with halted := true } ∧ u.sys = s.sys ∧ u.threads = s.threads
        ∧ u.proctor.checks = s.proctor.checks ++ [recordOf 0x85 false false false 0 0 0 0 0 0 (s.cycle 4) [BitVec.ofNat 64 k, p.ctx.pc]]))

/-- 11 R167: what wakes a waiting agent has it execute its instruction again from its start: the outcome is the one of that
instruction with the wait over. An agent that is stopped, held, or waits for something else stays as it is. -/
def Obligations.WakesExecuteAgain : Prop :=
  (∀ (s : State) (e i : Instr) (tid : Nat) (w : Instr → Bool), scalarWake e = some (tid, w) →
    (∀ t, tid < 1536 → s.thread tid = some t →
      (t.waiting = some i → w i = true → t.stopped = false → t.faulted = false →
        ∃ u, exec e s = .next u ∧ exec i (againThread s tid) = .next u)
      ∧ ((t.waiting = none ∨ t.waiting = some i ∧ w i = false ∨ t.stopped = true ∨ t.faulted = true) → exec e s = .next s))
    ∧ (∀ k p, tid = 1536 + k → s.pcore k = some p → p.waiting = some i →
      (w i = true → ∃ u, exec e s = .next u ∧ exec i (againProctor s k p) = .next u)
      ∧ (w i = false → exec e s = .next s)))
  ∧ (∀ (s : State) (tid : Nat) (t : Thread) (rs1 rs2 : BitVec 5), tid < 1536 → s.thread tid = some t →
    t.waiting = some (.qcfg rs1 rs2) → t.stopped = false → t.faulted = false →
    ∃ u, exec (.qcfgAck tid) s = .next u
      ∧ exec (.qcfg rs1 rs2) ((againThread s tid).modThread tid (fun t => { t with acked := true })) = .next u)
  ∧ (∀ (s : State) (e i : Instr) (tid : Nat) (w : Instr → Bool) (g : Group), vectorWake e = some (tid, w) →
    s.group tid = some g → g.waiting = some i →
    (w i = true → g.faulted = false → g.stop = none → exec e s = exec i (againVector s tid))
    ∧ ((w i = false ∨ g.faulted = true ∨ g.stop ≠ none) → exec e s = .next s))

/-- 03 R41, R43, R46, 11 R167, 13 R207, R212, R216, R218, 15 R259, 17 R272, 21 R339, 25 R402: what wakes a sequencer, starts its
next block, goes on with its commit, performs its notify writes, delivers its gathers, reads its streams ahead, and resolves its
faults. -/
def Obligations.SequencerEvents : Prop :=
  (∀ (s : State) (tid : Nat) (v : VCtx) (i : Instr) (r : VRow) (f : VFields) (value : Nat → Nat × Flags), let u := againVector s tid
    Asleep s tid i → Ready u tid v i → Placed u v → i.wf = true → vrowOf i = some (r, f) →
    let w := (elemTypeOf f).width
    let es := (actives u v f w).map (fun e => (e, value e))
    v.vl ≤ v.avail w → HasRoom v [f.vd.toNat] → (∀ e, e < v.vl → elementOp u v f e i = some (value e)) →
    ∃ t, exec (.vectorInterlockResume tid) s = .next t ∧ WroteElements u t v w [(f.vd.toNat, es.map (fun x => (x.1, x.2.1)))]
      (joined (es.map Prod.snd)) (roundsOp i && (elemTypeOf f).isFloat && v.rmo f == .rsr))
  ∧ (∀ (s : State) (tid : Nat) (v : VCtx) (f : VFields), let u := againVector s tid
    (Asleep s tid (.vpostr f) → Ready u tid v (.vpostr f) → v.g.strip = none → v.g.issues = [] → v.g.vreply.length < 16 →
      WakesInto (.replyPostResume tid) s tid v (fun g => { atPc (v.iaddr + 8) g with vreply := g.vreply ++ [v.w f.vs1] }))
    ∧ (∀ p, Asleep s tid (.setvl f) → Ready u tid v (.setvl f) → AtBoundary v → (Instr.setvl f).wf = true → v.g.replay = none →
      v.g.stopping = false → quiet s → f.fn.toNat / 2 ^ 21 % 2 = 1 → f.fn.toNat / 2 ^ 22 % 2 = 0 → WordsRead u v (v.w f.vs2).toNat 8 [p] →
      let req := if f.fn.toNat / 2 ^ 20 % 2 = 1 then f.fn.toNat % 2 ^ 16 else (v.w f.vs1).toNat
      let n := min (min req (v.avail (elemTypeOf f).width)) (p - (v.w f.vs3).toNat)
      1 ≤ n → WakesInto (.watchWake tid) s tid v (fun g => { g with
        strip := some (freshStrip { core := g.core, cells := laneCells s.lanes v.parts } n true)
        core := { g.core with pc := v.iaddr + 8, ty := f.ty, sg := BitVec.ofNat 1 (f.fn.toNat / 2 ^ 23), vl := n,
                              w := g.core.w.setIfInBounds f.vd.toNat (BitVec.ofNat 64 n) } }))
    ∧ (Asleep s tid (.vend f) → Ready u tid v (.vend f) → AtBoundary v → v.g.stopping = false → SeatsSettled s (tid / 8) →
      WakesInto (.commitResume tid) s tid v (fun g => { atPc (v.iaddr + 8) g with running := false, block := none, replay := none }))
    ∧ (∀ x, vctx s tid = some v → v.g.waiting = none → v.g.strip ≠ none → v.g.issues = [.reply x] → v.g.leaving = [] →
      v.g.vreply.length < 16 →
      GroupBecomes (.commitResume tid) s v (fun g => { g with issues := [], vreply := g.vreply ++ [x] })))
  ∧ (∀ (s : State) (tid : Nat) (v : VCtx) (i : Instr) (f : VFields) (form : MemForm), let u := againVector s tid
    Asleep s tid i → Ready u tid v i → Placed u v → quiet s → i.wf = true → loadOf i = some (f, form) → HasRoom v [f.vd.toNat] →
    let m := v.g.core.mfmt
    let w := (elemTypeOf f).width
    let bits := storedWidth m f
    let es := actives u v f w
    FormatOk m f form → v.vl ≤ v.avail w → (form = .indexed → indexFits v (f.fn.toNat / 2 ^ 17 % 4)) → f.fn.toNat / 2 ^ 20 % 4 = 1 →
    ∀ pas : Nat → List Nat, (∀ e ∈ es, ElementAt u v .read w true bits (elementPlace u v f form e) e (pas e)) →
      (∀ e ∈ es, ∀ p ∈ pas e, Usable u p (bytesFor bits)) →
      (∀ e ∈ es, ∀ p ∈ pas e, ∀ k, p / 16 ≤ k → k * 16 < p + bytesFor bits → cellGet u.sys.granules k = 0b01) →
      let rs := es.map (fun e => (e, loadValue m f (v.rounding (v.mode 0) e 0) (elementBits u v bits (elementPlace u v f form e) (pas e))))
      ∃ t, exec (.vectorWLoadWake tid) s = .next t ∧ WroteElements u t v w [(f.vd.toNat, rs.map (fun r => (r.1, r.2.1)))]
        (joined (rs.map Prod.snd)) (convertRounds m f && v.mode 0 == .rsr))
  ∧ (∀ (s : State) (tid : Nat) (v : VCtx) (b : VBlock) (rest : List VBlock), vctx s tid = some v → v.g.vblk = b :: rest →
    let free := v.g.running = false ∧ v.g.faulted = false ∧ v.g.stopping = false ∧ v.g.stop = none ∧ v.g.issues = []
    let behind := v.g.notifies = [] ∧ v.g.posts = [] ∧ v.g.closed = [] ∧ (∀ x ∈ v.g.gathers, x.delivered ≠ none)
      ∧ ∀ e ∈ v.g.slots, e.2.run = none
    (free → (b.fence = true → behind) → GroupBecomes (.blockStart tid) s v (fun g => { g with
      running := true, block := some b, vblk := rest, redo := if g.closed = [] then [] else g.redo ++ [b]
      held := if b.fence then [] else g.held
      core := { g.core with pc := b.addr, vl := 0, frag := BitVec.allOnes 65536, pending := []
                            w := Vector.ofFn (fun k => if h : k.val < 4 then b.ops[k.val] else g.core.w[k]) } }))
    ∧ ((¬ free ∨ b.fence = true ∧ ¬ behind) → exec (.blockStart tid) s = .next s))
  ∧ (∀ (s : State) (tid : Nat) (v : VCtx) (n : PendingNotify) (rest : List PendingNotify), vctx s tid = some v → quiet s →
    Memory.wf s.sys.mem = true → cellsWf s.sys.granules = true → v.g.notifies = n :: rest → lostNode s n.pa = none →
    ∃ t, exec (.notifyWritePerform tid) s = .next t ∧ t.lanes = s.lanes
      ∧ OnlyGroup s { t with sys := s.sys, proctor := s.proctor } v { v.t with group := some { v.g with notifies := rest } }
      ∧ (poisonAt s.sys n.pa 8 = none → t.proctor = s.proctor
          ∧ StoredAt s t n.pa (bytesOf 8 (leValue (presentBytes s n.pa 8) + n.count)) false)
      ∧ (poisonAt s.sys n.pa 8 ≠ none → t.sys = s.sys ∧ t.proctor.logNext = s.proctor.logNext + 1))
  ∧ (∀ (s : State) (tid : Nat) (v : VCtx) (x : Gather), vctx s tid = some v → quiet s → x ∈ v.g.gathers → x.delivered = none →
    (∀ y ∈ v.g.gathers, y.reg = x.reg → y.delivered = none → y = x) →
    let got := x.addrs.map (fun a => match a with
      | none => (0, none)
      | some (pa, va) => readAhead s pa va (storedSize x.mfmt x.ty x.sg))
    GroupBecomes (.gatherDelivery tid x.reg) s v (fun g => { g with
      gathers := g.gathers.map (fun y => if y = x then { y with delivered := some got } else y) }))
  ∧ (∀ (s : State) (tid reg : Nat) (v : VCtx) (b : Stream), vctx s tid = some v → quiet s →
    tableGet reg v.g.core.streams = some b → b.slot = none → b.exts.length = b.strs.length →
    let h := (tableGet reg v.g.held).getD []
    let n := b.pos + h.length
    let va := (streamPlace b n % 2 ^ 64).toNat
    let size := storedSize b.mfmt b.ty b.sg
    let gives := fun (x : Nat × Option Mark) =>
      GroupBecomes (.streamRefill tid reg) s v (fun g => { g with held := tablePut reg (h ++ [x]) g.held })
    (b.exts.foldl (fun x y => x * y) 1 ≤ n → exec (.streamRefill tid reg) s = .next s)
    ∧ (n < b.exts.foldl (fun x y => x * y) 1 →
      (va % size ≠ 0 → gives (0, some ⟨3, va, 0⟩))
      ∧ (∀ pa, va % size = 0 → translate s (vecAccessor s v v.home) va .read = .ok pa → gives (readAhead s pa va size))))
  ∧ (∀ (s : State) (index : Nat) (r : Delivered) (t : Thread), s.proctor.faults[index]? = some r → s.thread r.tid = some t →
    let s' := { s with proctor := { s.proctor with faults := s.proctor.faults.eraseIdx index } }
    (∀ m g, r.kind = 4 → mapListed s' r.tid t (listedPages r.words) = some m →
      ∃ u, exec (.faultResolve index) s = .next u ∧ u.sys = m.sys ∧ u.lanes = m.lanes
        ∧ (r.vec = false → u.thread r.tid = (m.thread r.tid).map (fun x => { x with faulted := false }))
        ∧ (r.vec = true → m.group r.tid = some g → g.stopping = false → u.group r.tid = some { g with faulted := false }))
    ∧ (∀ k, s.kernel t.lnum = some k → k.ended = none → k.done = none →
        (r.kind = 4 ∧ mapListed s' r.tid t (listedPages r.words) = none
          ∨ r.kind ≠ 4 ∧ tableGet t.form k.forms ≠ none ∧ ∀ x, r.feature = some x → providingDie s' (kernelLevel s' t.lnum) x = none) →
        ∃ u k', exec (.faultResolve index) s = .next u ∧ u.kernel t.lnum = some k' ∧ k'.ended = some (2, if r.kind = 4 then 4 else 9)))

/-! Events of memory, the timetable and the module: chapters 07, 21, 23, 25. -/

/-- 07 R115, R116, R121, R132, 11 R185, R187, R191, 13 R221, R228, 23 R343, R344: a copy goes on chunk by chunk behind the jobs it
follows and ends with its status word; homes acknowledge writes; held posts enter their pigeonhole; a free slot returns to the
remote producer's counter, or freezes the pigeonhole; the owner takes the fault of a freeze once. -/
def Obligations.CopyAndPigeonholeEvents : Prop :=
  (∀ (s : State) (job : Nat) (j : CopyJob), tableGet job s.fabric.copies = some j → keysRise s.fabric.copies = true → quiet s →
    Memory.wf s.sys.mem = true → cellsWf s.sys.granules = true →
    let total := j.desc.rows * ((j.desc.rowLen + 127) / 128)
    let free := ∀ k ∈ j.after, tableGet k s.fabric.copies = none
    ((total ≤ j.next ∨ ¬ free) → exec (.copyChunk job) s = .next s)
    ∧ (∀ off src dst n sp dp, ChunkOf j.desc j.next off src dst n → free →
      PiecesAt s j.acc src n .read sp → PiecesAt s j.acc dst n .write dp →
      (∀ i k, i < k → k < n / 16 → dp i + 16 ≤ dp k ∨ dp k + 16 ≤ dp i) →
      let bad := ∃ i, i < n / 16 ∧ poisonAt s.sys (sp i) 16 ≠ none
      ∃ t, exec (.copyChunk job) s = .next t
        ∧ (∀ i k, i < n / 16 → k < 16 → (presentBytes s (sp i) 16)[k]? = some (byteOf t (dp i + k)))
        ∧ (∀ a, (∀ i, i < n / 16 → a < dp i ∨ dp i + 16 ≤ a) → byteOf t a = byteOf s a)
        ∧ (¬ bad → OnlyJob s t job (some { j with next := j.next + 1 }))
        ∧ (bad → OnlyJob s t job (some { j with next := j.next + 1, error := some (j.error.getD (1, off)) })))
    ∧ (∀ off src dst n i, ChunkOf j.desc j.next off src dst n → free → i < n / 16 →
      (∀ pa, translate s j.acc ((src + 16 * i) % 2 ^ 64) .read ≠ .ok pa) →
      (∀ k ea, k < n / 16 → translate s j.acc ((src + 16 * k) % 2 ^ 64) .read ≠ .poison ea) → ∃ t c, exec (.copyChunk job) s = .next t ∧ (c = 2 ∨ c = 3)
        ∧ t.sys = s.sys ∧ OnlyJob s t job (some { j with next := j.next + 1, error := some (j.error.getD (c, off)) }))
    ∧ (j.next < total → exec (.copyComplete job) s = .next s)
    ∧ (total ≤ j.next →
      (j.desc.stat = 0 → ∃ t, exec (.copyComplete job) s = .next t ∧ t.sys = s.sys ∧ OnlyJob s t job none)
      ∧ (∀ pa, j.desc.stat ≠ 0 → translate s j.acc j.desc.stat .write = .ok pa → lostNode s pa = none →
        (∀ off, physKind pa ≠ .device off) →
        ∃ t, exec (.copyComplete job) s = .next t ∧ OnlyJob s t job none ∧ StoredAt s t pa (bytesOf 8 (match j.error with
          | none => 2 ^ 63
          | some (c, first) => 2 ^ 63 + 2 ^ 62 + c * 2 ^ 58 + first % 2 ^ 48)) true)))
  ∧ (∀ (s : State) (tid lane n : Nat) (v : VCtx), vctx s tid = some v → tableGet lane v.g.acks = some n →
    GroupBecomes (.writeAcknowledge tid lane) s v (fun g => { g with
      acks := if n ≤ 1 then tableDel lane g.acks else tablePut lane (n - 1) g.acks }))
  ∧ (∀ (s : State) (tid : Nat) (v : VCtx) (p : PendingPost) (e : List Byte) (es : List (List Byte)), vctx s tid = some v → quiet s →
    Memory.wf s.sys.mem = true → cellsWf s.sys.granules = true → v.g.posts = [p] → p.entries = e :: es →
    let h := s.hole p.hole
    let live := h.owner ≠ none ∧ h.gen.toNat = p.gen
    (¬ live → GroupBecomes (.qpostResume tid true) s v (fun g => { g with posts := [] }))
    ∧ (live → h.remote = none → h.depth ≤ h.count → GroupBecomes (.qpostResume tid true) s v id)
    ∧ (live → h.remote = none → h.count < h.depth →
      ∃ t, exec (.qpostResume tid true) s = .next t ∧ StoredAt s t (entryAddress (p.hole / 64) h h.tail) e true
        ∧ t.hole p.hole = { h with tail := (h.tail + 1) % h.depth, count := h.count + 1, ps := h.ps + 1, notify := h.notify + 1 }
        ∧ OnlyHole s t p.hole []
        ∧ ∀ k, t.thread k = if k = tid then some { v.t with group := some { v.g with
            posts := if es = [] then [] else [{ p with entries := es }] } } else s.thread k))
  ∧ (∀ (s : State) (index : Nat) (r : SlotReturn), quiet s → s.fabric.returns[index]? = some r →
    let h := s.hole r.hole
    let lost := { s with fabric := { s.fabric with returns := s.fabric.returns.eraseIdx index } }
    (h.counter = none → exec (.freeSlotReturn index) s = .next lost)
    ∧ (∀ c, h.counter = some c → c.eseq < 65536 → c.cnt ≤ 256 →
      let behind := (c.eseq + 65536 - r.seq.toNat) % 65536
      let frozen := fun (cause : Nat × Nat × Nat) => exec (.freeSlotReturn index) s =
        .next (if h.frz = true then lost else lost.putHole r.hole { h with frz := true, cause := some cause })
      (r.gen.toNat ≠ c.gen ∨ (1 ≤ behind ∧ behind ≤ 32768) → exec (.freeSlotReturn index) s = .next lost)
      ∧ (r.gen.toNat = c.gen → behind = 0 → c.parity = evenParity c.cnt → exec (.freeSlotReturn index) s =
          .next (lost.putHole r.hole { h with counter := some { c with
            cnt := c.cnt + 1, parity := evenParity (c.cnt + 1), eseq := (c.eseq + 1) % 65536 } }))
      ∧ (r.gen.toNat = c.gen → behind = 0 → c.parity ≠ evenParity c.cnt → frozen (1, c.eseq, 0))
      ∧ (r.gen.toNat = c.gen → 32768 < behind → frozen (0, c.eseq, r.seq.toNat))))
  ∧ (∀ (s : State) (tid : Nat) (t : Thread) (die clu num cause eseq sq : Nat), s.thread tid = some t → die < 4 → clu < 6 → num < 64 →
    let n := (die * 6 + clu) * 64 + num
    let mine := fun (h : Hole) => h.owner = some ⟨tid, t.lnum, t.form⟩ ∧ h.cause ≠ none
    ((∀ e ∈ s.fabric.holes, ¬ mine e.2) → exec (.pigeonholeDesyncFault tid) s = .next s)
    ∧ (∀ h, tableGet n s.fabric.holes = some h → keysRise s.fabric.holes = true → mine h → h.cause = some (cause, eseq, sq) →
      (∀ e ∈ s.fabric.holes, mine e.2 → e.1 = n) →
      ∃ u, exec (.pigeonholeDesyncFault tid) s = .next u ∧ u.hole n = { h with cause := none } ∧ u.threads = s.threads
        ∧ u.sys = s.sys ∧ u.sched = s.sched ∧ u.proctor.logNext = s.proctor.logNext + 1
        ∧ u.proctor.checks = s.proctor.checks ++ [recordOf 11 false false t.isShadow tid (tid / 384) t.ctx.pc 0 0 t.lnum
            (s.cycle (tid / 384)) (([handleBits die clu num, cause, eseq, sq] : List Nat).map (BitVec.ofNat 64))]))

/-- 23 R375, R353, 25 R378, R379, R391, R393, R394, R400: writes of FINJ, of the device registers, and of the host port's registers set
what the rules let them set and leave every other register; a new TAIL has the bridge read the slot at HEAD. -/
def Obligations.DeviceAndHostRegisterWrites : Prop :=
  (∀ (s : State) (v : Word) (kind : Nat) (e : Instr), finjEvent e = some (kind, v) →
    (FinjValue v kind → exec e s = .next { s with proctor := { s.proctor with finj := v } })
    ∧ (¬ FinjValue v kind → exec e s = .next s))
  ∧ (∀ (s : State) (off : Nat) (v : Word),
    (deviceKeeps off v = none → exec (.deviceRegisterWrite off v) s = .next s)
    ∧ (∀ x, deviceKeeps off v = some x → ∃ t, exec (.deviceRegisterWrite off v) s = .next t
        ∧ readDevice t off = some x ∧ (∀ o, o ≠ off → readDevice t o = readDevice s o)
        ∧ t.sys = s.sys ∧ t.threads = s.threads ∧ SameSurroundings s { t with sched := s.sched } ∧ t.sched.kernels = s.sched.kernels
        ∧ ∀ k, (t.pcore k).map ProctorCore.ctx = (s.pcore k).map ProctorCore.ctx))
  ∧ (∀ (s : State) (v : Word) (tail : BitVec 32) (ringn : Bool), s.host.hostPort = none ∨ ¬ Serves s.host →
    exec (.tailWrite tail) s = .next s ∧ exec (.ringConfigWrite ringn v) s = .next s ∧ exec (.jwinWrite v) s = .next s
      ∧ exec (.lwinWrite v) s = .next s)
  ∧ (∀ (s : State), exec .journalWindowReady s = .next { s with host := { s.host with jvalid := true } })
  ∧ (∀ (s : State) (v : Word), s.host.hostPort ≠ none → Serves s.host →
    exec (.jwinWrite v) s = .next { s with host := { s.host with jwin := v &&& 0x3FFFFFFFFFFFFFFF, jvalid := false } }
    ∧ exec (.lwinWrite v) s = .next { s with host := { s.host with lwin := v &&& 0x3FF000000000FFFF } }
    ∧ (s.host.head = s.host.tail →
      (v.toNat % 4096 = 0 → exec (.ringConfigWrite false v) s = .next { s with host := { s.host with ringb := v } })
      ∧ (∀ k, 4 ≤ k → k ≤ 16 → v.toNat = 2 ^ k → exec (.ringConfigWrite true v) s = .next { s with host := { s.host with ringn := v } })
      ∧ (v.toNat % 4096 ≠ 0 → exec (.ringConfigWrite false v) s = .next s)
      ∧ ((∀ k, 4 ≤ k → k ≤ 16 → v.toNat ≠ 2 ^ k) → exec (.ringConfigWrite true v) s = .next s))
    ∧ (s.host.head ≠ s.host.tail → ∀ ringn, exec (.ringConfigWrite ringn v) s = .next s))
  ∧ (∀ (s : State) (tail : BitVec 32) (c : Command), s.host.hostPort ≠ none → Serves s.host →
    let at' := s.host.ringb.toNat + 128 * (s.host.head.toNat % s.host.ringn.toNat)
    let mine := s.host.node = 0x7FF ∨ c.tgt.toNat = s.host.node.toNat
    (s.host.head = tail ∨ s.host.pending ≠ none → exec (.tailWrite tail) s = .next { s with host := { s.host with tail := tail } })
    ∧ (s.host.pending = none → s.host.ringn ≠ 0 → s.host.head ≠ tail → SlotHolds s at' c →
      (mine → exec (.tailWrite tail) s = .next { s with host := { s.host with tail := tail, pending := some c } })
      ∧ (¬ mine → Config.foreignEntered s.tick s.host.head.toNat = false →
          exec (.tailWrite tail) s = .next { s with host := { s.host with tail := tail } })
      ∧ (¬ mine → Config.foreignEntered s.tick s.host.head.toNat = true → s.host.head + 1 = tail →
          exec (.tailWrite tail) s = .next { s with host := { s.host with tail := tail, head := tail } })))

/-- 01 R30 to R32, 23 R426, 25 R379 to R384, R387, R388, R390: power, heat and the link and host ports. Without power everything but the
configuration flash is lost; bring-up ends ready, or in the step that fails, with what the steps before it did; the junctions'
limits hold admissions, release them and remove power; ports fail, train and key their peers; a kernel that has written where no
route was left ends; another module's access is performed where its domain owns the frame. -/
def Obligations.ModuleEvents : Prop :=
  (∀ (s : State), ∃ t, exec .powerOff s = .next t ∧ LostPower s t)
  ∧ (∀ (s : State) (b : BringUp), s.power ≠ .off → exec (.powerOn b) s = .next s)
  ∧ (∀ (s : State) (b : BringUp), s.power = .off → ∃ t, exec (.powerOn b) s = .next t
      ∧ t.sys = State.reset.sys ∧ t.threads = [] ∧ t.host.serial = b.serial
      ∧ (let started := t.host.running = s.host.staged
          ∧ (∀ d l m, d < 4 → b.levels[d]? = some (l, m) → readDevice t (d * 0x10000000 + 8) = some (BitVec.ofNat 64 (m.toNat * 2 ^ 32 + l.toNat)))
          ∧ (∀ k f h, k < 16 → b.frames[k]? = some (f, h) →
              readDevice t (0x40000000 + 16 * k) = some (f &&& 0x000FFFFFFFFFFFF0)
              ∧ readDevice t (0x40000008 + 16 * k) = some (h &&& 0x000FFFFFFFFFFFF0))
        (∀ code, StepFails s b code → t.power = .failed code ∧ t.host.fail.toNat = code ∧ t.host.ready = false
          ∧ (code ≠ 1 → t.host.running = s.host.staged) ∧ (code = 5 → started))
        ∧ ((∀ code, ¬ StepFails s b code) → t.power = .up ∧ t.host.ready = true ∧ t.host.fail = 0 ∧ started
          ∧ (s.host.flashNode = none → t.host.node = 0x7FF ∧ t.host.bridge = b.hostTrained)
          ∧ (∀ n, s.host.flashNode = some n → n < 1024 → (∀ m ∈ b.bridges, m < 1024) → t.host.node.toNat = n
              ∧ (let able := (if b.hostTrained then [n] else []) ++ b.bridges
                (able = [] → t.host.brn = 0x7FF ∧ t.host.bridge = false)
                ∧ (able ≠ [] → t.host.brn.toNat ∈ able ∧ (∀ m ∈ able, t.host.brn.toNat ≤ m)
                    ∧ (t.host.bridge = true ↔ t.host.brn.toNat = n)))))))
  ∧ (∀ (s : State) (r : SensorReading) (e : Instr), r.die < 5 → r.sensor < 8 → r.temp < 65536 → keysRise s.proctor.sensors = true →
    (e = .thermalHold r ∨ e = .thermalTrip r ∨ e = .thermalRelease [r]) →
    let melts := 112 * 256 ≤ r.temp ∨ ∃ x ∈ s.proctor.sensors, x.1 ≠ r.die * 8 + r.sensor ∧ 112 * 256 ≤ x.2.toNat
    (melts → ∃ t, exec e s = .next t ∧ LostPower s t)
    ∧ (¬ melts → ∃ t, exec e s = .next t ∧ readDevice t (sensorRegister r) = some (BitVec.ofNat 64 r.temp)
        ∧ t.power = s.power ∧ t.sys = s.sys ∧ t.threads = s.threads
        ∧ (t.host.hotBit = true ↔ Above s r 105) ∧ (t.sched.hot = true ↔ Above s r 105 ∨ s.sched.hot = true ∧ Above s r 100)
        ∧ { t.sched with hot := s.sched.hot, rescan := s.sched.rescan } = s.sched
        ∧ (s.sched.hot = true → t.sched.hot = false → t.sched.rescan = true)
        ∧ Signalled { s.host with hotBit := t.host.hotBit } t.host ((if t.host.hotBit = s.host.hotBit then [] else [2])
            ++ (if s.sched.hot = false ∧ t.sched.hot = true then [1] else []))
        ∧ (s.sched.hot = true ∨ t.sched.hot = false → t.proctor.checks = s.proctor.checks)
        ∧ (s.sched.hot = false → t.sched.hot = true → (∀ x ∈ s.proctor.sensors, x.1 ≠ r.die * 8 + r.sensor → x.2.toNat ≤ 105 * 256) →
            t.proctor.checks = s.proctor.checks ++ [recordOf 0x82 false false false 0 0 0 0 0 0 (s.cycle 4)
              (([r.die, r.sensor, r.temp] : List Nat).map (BitVec.ofNat 64))])))
  ∧ (∀ (s : State) (port peer : Nat) (sw : Bool) (x : Word), port < 24 → peer < 1024 → lstatReads s port = some x →
    let retry := x.toNat / 2 ^ 16 % 2 ^ 16
    (∃ t, exec (.flitRetry port) s = .next t ∧ OnlyPort s t port (if retry = 0xFFFF then x else x + 0x10000))
    ∧ (∃ t, exec (.linkPortFail port) s = .next t ∧ OnlyPort s t port (BitVec.ofNat 64 (0xFFFF * 2 ^ 32 + retry * 2 ^ 16))
        ∧ t.sys = s.sys ∧ t.threads = s.threads)
    ∧ (let alone := s.host.node = 0x7FF ∨ peer = s.host.node.toNat
      let known := peer ∈ s.host.keyed
      let able := s.host.hssUsed < Config.hssSignatures
      let verifies := Config.peerReportVerifies s.tick peer = true
      (alone ∨ ¬ known ∧ ¬ able → exec (.linkPortTrain port peer sw) s = .next s)
      ∧ (¬ alone → ¬ known → able → ¬ verifies → exec (.linkPortTrain port peer sw) s
          = .next { s with host := { s.host with hssUsed := s.host.hssUsed + 1 } })
      ∧ (¬ alone → known ∨ able ∧ verifies → ∃ t, exec (.linkPortTrain port peer sw) s = .next t
          ∧ OnlyPort s t port (BitVec.ofNat 64 ((if sw then 0xFFFF else peer) * 2 ^ 32 + retry * 2 ^ 16 + (if sw then 2 else 0) + 1))
          ∧ peer ∈ t.host.keyed ∧ (¬ known → peer ∉ t.host.lost) ∧ t.sys = s.sys ∧ t.threads = s.threads
          ∧ t.host.hssUsed = if known then s.host.hssUsed else s.host.hssUsed + 1)))
  ∧ (∀ (s : State) (node host : Nat),
    exec (.linkRekey node) s = .next s
    ∧ ((node < 1024 → (∀ p ∈ s.host.ports.toList, ¬ (p.up = true ∧ p.sw = false ∧ p.peer.toNat = node)) → node ∉ s.host.lost →
        let word := fun (ends : Bool) => recordOf 0x87 false ends false 0 0 0 0 0 0 (s.cycle 4) [BitVec.ofNat 64 node]
        let wrote := fun (n : Nat) (k : Kernel) =>
          (n, k) ∈ s.sched.kernels ∧ s.kernel n = some k ∧ k.ended = none ∧ k.done = none ∧ Config.wroteUnrouted s.tick n = true
        ∃ t, exec (.routeLoss node) s = .next t ∧ node ∈ t.host.lost
          ∧ ((∀ n k, ¬ wrote n k) → t.sys = s.sys ∧ t.threads = s.threads ∧ t.sched = s.sched
              ∧ t.proctor.checks = s.proctor.checks ++ [word false])
          ∧ (∀ n k, wrote n k → t.proctor.checks = s.proctor.checks ++ [word true] ∧ ∃ k', t.kernel n = some k' ∧ k'.ended = some (5, 0)))
      ∧ ((1024 ≤ node ∨ (∃ p ∈ s.host.ports.toList, p.up = true ∧ p.sw = false ∧ p.peer.toNat = node) ∨ node ∈ s.host.lost) →
          exec (.routeLoss node) s = .next s))
    ∧ ∃ t, exec (.hostPortTrain host) s = .next t ∧ t.host.hostPort = some host ∧ t.sys = s.sys ∧ t.threads = s.threads
        ∧ (s.host.node = 0x7FF → t.host.bridge = true ∧ t.host.brn = s.host.node)
        ∧ (s.host.node ≠ 0x7FF → s.host.brn ≠ 0x7FF → t.host.brn = s.host.brn ∧ (t.host.bridge = true ↔ s.host.brn = s.host.node)))
  ∧ (∀ (s : State) (r : RemoteRequest), quiet s → Memory.wf s.sys.mem = true → cellsWf s.sys.granules = true →
    let memory := fun (a : Nat) => (∃ d, physKind a = .hbm d false) ∧ ∃ n d, frameOwner s.proctor a = some n ∧ tableGet n s.proctor.domains = some d
      ∧ d.tag = r.tag ∧ d.keyBlock = r.keyBlock
    let old := leValue ((List.range r.size).map (fun k => byteOf s (r.addr + k)))
    let mine := 1 ≤ r.size ∧ r.size ≤ 16 ∧ memory r.addr ∧ memory (r.addr + r.size - 1)
    (¬ mine ∨ r.op = 0 → exec (.remoteAccess r) s = .next s)
    ∧ (mine → r.op = 1 → ∃ t, exec (.remoteAccess r) s = .next t ∧ StoredAt s t r.addr (bytesOf r.size r.data) false
        ∧ t.proctor = s.proctor ∧ t.threads = s.threads ∧ SameSurroundings s t)
    ∧ (mine → 2 ≤ r.op → r.op ≤ 13 → poisonAt s.sys r.addr r.size ≠ none → exec (.remoteAccess r) s = .next s)
    ∧ (∀ x, mine → 2 ≤ r.op → r.op ≤ 13 → poisonAt s.sys r.addr r.size = none →
        remoteAtomic (r.op - 2) (8 * r.size) old r.data r.compare = some x →
        ∃ t, exec (.remoteAccess r) s = .next t ∧ StoredAt s t r.addr (bytesOf r.size x) false ∧ SameSurroundings s t))

/-- 21 R319, R322, R330 to R333, R336, 23 R353, R354, R359 to R362: a form's threads start once its preloads are done; ageing has the
unit scan; a group past its deadline abandons its strip; a form's threads are saved and give up their slots, or stay where a
satchel is too short; a kernel whose forms and work are over is done with its status word. -/
def Obligations.TimetableEvents : Prop :=
  (∀ (s : State) (lnum form : Nat) (k : Kernel) (f : Form) (im : Image) (e : KernelEntry), s.kernel lnum = some k →
    tableGet form k.forms = some f → f.no = form → s.image k.image = some im → im.kernels[k.kidx]? = some e →
    (f.status ≠ .preloading → exec (.preloadComplete lnum form) s = .next s)
    ∧ (f.status = .preloading → f.place.shadowSeats = [] → f.place.shadow = [] → f.place.seats.Pairwise (fun x y => x.tid ≠ y.tid) →
      let started := fun (u : State) => (∀ i x, f.place.seats[i]? = some x → ∃ t, u.thread x.tid = some t ∧ ThreadStarts t k lnum f im e x i)
        ∧ (∀ n, (∀ x ∈ f.place.seats, x.tid ≠ n) → u.thread n = s.thread n)
        ∧ u.kernel lnum = some { k with forms := tablePut form { f with status := .resident } k.forms } ∧ u.lanes = s.lanes
      (k.card.preloads = [] → ∃ u, exec (.preloadComplete lnum form) s = .next u ∧ started u ∧ u.sys = s.sys)
      ∧ (∀ src len off cl rest sp, k.card.preloads = [(src, len, off)] → f.place.clusters = cl :: rest → cl < 24 → 1 ≤ len → len ≤ 128 →
        off + len ≤ 2 ^ 24 → off % 16 = 0 → quiet s → Memory.wf s.sys.mem = true →
        PiecesAt s (engineAccessor k.dom k.asid k.root) src len .read sp →
        let dst := 0x100000000000 + cl / 6 * 2 ^ 28 + cl % 6 * 2 ^ 24 + off
        ∃ u, exec (.preloadComplete lnum form) s = .next u ∧ started u
          ∧ (∀ i j, i < len / 16 → j < 16 → byteOf u (dst + 16 * i + j) = byteOf s (sp i + j))
          ∧ BytesOutside s u dst (len / 16 * 16))))
  ∧ (∀ (s : State) (lnum : Nat) (k : Kernel), s.kernel lnum = some k →
    let now := (((s.cycle k.unit).toNat : Int) - k.since).toNat / 2 ^ 21
    (k.done = none → k.aged < now → ∃ t, exec (.ageingStep lnum) s = .next t ∧ t.sched.rescan = true
      ∧ (∀ n, t.kernel n = if n = lnum then some { k with aged := now } else s.kernel n) ∧ t.threads = s.threads ∧ t.sys = s.sys)
    ∧ ((k.done ≠ none ∨ now ≤ k.aged) → exec (.ageingStep lnum) s = .next s)
    ∧ (let isOver := k.forms = [] ∧ (k.ended ≠ none ∨ k.nextForm = k.card.nform) ∧ WorkDone s lnum
      let status := kernelStatus (k.ended.getD (0, 0)).1 (k.ended.getD (0, 0)).2 k.fdone
      ((k.done ≠ none ∨ ¬ isOver) → exec (.kernelDone lnum) s = .next s)
      ∧ (k.done = none → isOver → ∃ t k', exec (.kernelDone lnum) s = .next t ∧ t.kernel lnum = some k' ∧ k'.done = some status
          ∧ t.sched.rescan = true)
      ∧ (k.done = none → isOver → k.ended = none → ∃ t, exec (.kernelDone lnum) s = .next t ∧ t.threads = s.threads
          ∧ (∀ n, n ≠ lnum → t.kernel n = s.kernel n)
          ∧ (k.card.stat = 0 → t.sys = s.sys)
          ∧ (∀ pa, k.card.stat ≠ 0 → Memory.wf s.sys.mem = true → cellsWf s.sys.granules = true →
              translate s (engineAccessor k.dom k.asid k.root) k.card.stat .write = .ok pa → lostNode s pa = none →
              (∀ off, physKind pa ≠ .device off) → StoredAt s t pa (bytesOf 8 status.toNat) false))))
  ∧ (∀ (s : State) (tid : Nat) (v : VCtx) (k : Kernel) (f : Form) (d : Word), vctx s tid = some v → v.t.role = .solo → v.g.closed = [] →
    tid < 1536 → s.kernel v.t.lnum = some k → tableGet v.t.form k.forms = some f → readDevice s (tid / 384 * 0x10000000) = some d →
    let late := f.stopAt + d.toNat ≤ (s.cycle (tid / 384)).toNat
    (f.status = .stopping → late → v.g.faulted = false → v.g.stop = none → v.g.stopping = true →
      ∃ t, exec (.preemptDeadline tid) s = .next t ∧ LanesRolledBack s t v
        ∧ OnlyGroup s t v { v.t with stopCyc := s.cycle (tid / 384), group := some { rolledBack v.g with
            stop := some (v.g.strip.isNone && v.g.replay.isNone), waiting := none } })
    ∧ ((f.status ≠ .stopping ∨ ¬ late ∨ v.g.faulted = true ∨ v.g.stop ≠ none) → exec (.preemptDeadline tid) s = .next s))
  ∧ (∀ (s : State) (lnum form tid : Nat) (k : Kernel) (f : Form) (x : Seat) (t : Thread), s.kernel lnum = some k →
    tableGet form k.forms = some f → f.place.seats = [x] → f.place.shadowSeats = [] → x.tid = tid → s.thread tid = some t →
    t.lnum = lnum → t.form = form → t.group = none → t.role = .solo → t.loader = none → k.paired = false →
    let dies := (List.range 4).countP (fun d => t.att.getLsbD d)
    let x' := if f.short = true then regrown s lnum form tid t else (s, t)
    let s' := x'.1
    let t' := x'.2
    ((f.status ≠ .stopping ∨ t.stopped = false ∨ t.faulted = true) → exec (.satchelSave lnum form) s = .next s)
    ∧ (f.status = .stopping → t.stopped = true → t.faulted = false →
      (t'.satb.toNat % 2 ^ 16 = 0 → ∃ u, exec (.satchelSave lnum form) s = .next u ∧ u.threads = s'.threads
        ∧ u.kernel lnum = some { k with forms := tablePut form { f with short := true } k.forms }
        ∧ u.proctor.checks = s.proctor.checks ++ [recordOf 0x81 false false false tid (tid / 384) t.ctx.pc 0 0 lnum
            (s.cycle (tid / 384)) [0, 768, 1]])
      ∧ (t'.satb.toNat % 2 ^ 16 ≠ 0 → (saveThread s' k tid t').2 = true →
        ∃ u k' f' sv, exec (.satchelSave lnum form) s = .next u ∧ u.sys = (saveThread s' k tid t').1.sys
          ∧ u.thread tid = none ∧ (∀ n, keysRise s.threads = true → n ≠ tid → u.thread n = s.thread n)
          ∧ u.kernel lnum = some k' ∧ tableGet form k'.forms = some f' ∧ f'.status = .stopped ∧ f'.saved = [sv] ∧ sv.tid = tid
          ∧ sv.thread = { t' with lastSave := some (0, dies, t'.satb) } ∧ u.sched.rescan = true))
    ∧ (let header := headerWords tid t false true 512
      header.length = 32 ∧ header[0]? = some (0x53415443 + 2 ^ 32 + 2 ^ 48) ∧ header[1]? = some 512 ∧ header[2]? = some 768
        ∧ header[3]? = some t.lnum ∧ header[4]? = some t.stopCyc.toNat ∧ header[5]? = some (wordOfThread t.form t.res tid t.f) ∧ header[7]? = some t.satb.toNat)
    ∧ (∀ all, let words := sectionWords s tid t all
      words.length = 64 ∧ words.lookup 256 = some t.ctx.pc.toNat
        ∧ (∀ r : BitVec 5, r ≠ 0 → words.lookup (256 + 8 * r.toNat) = some (t.ctx.rd r).toNat)
        ∧ words.lookup 512 = some t.ctx.fflags.toNat ∧ words.lookup 520 = some t.ctx.fmode.toNat
        ∧ words.lookup 528 = some t.ctx.seed.toNat
        ∧ words.lookup 536 = some (t.pend.toNat * 2 ^ 8 + tid / 384 * 2 ^ 4 + t.att.toNat)))

/-- 07 R103, R104, R118, R119, R130, 25 R402, R404, R407: a line fill installs a tag with the line's poison, an entry shared where the same
contents stand in the index; an eviction removes a tag, or an entry with its tags; neither changes a byte. A walk's leaf enters
both TLBs; an invalidation ends once no access is held back, its entries and frames gone. -/
def Obligations.CachesAndWalks : Prop :=
  (∀ (s : State) (line : Nat), TagsInOrder s →
    ((tagOf s.sys line ≠ none ∨ ∀ d p, physKind (line * 128) ≠ .hbm d p) → exec (.lineFill line) s = .next s)
    ∧ (∀ d p, tagOf s.sys line = none → physKind (line * 128) = .hbm d p → SliceHasRoom s line →
      let bytes := (List.range 128).map (fun k => byteOf s (line * 128 + k))
      let share := lineShare s.proctor (line * 128)
      let own := share.nsh = true ∨ line ∈ s.sys.poison
      ∃ t x, exec (.lineFill line) s = .next t ∧ OnlyCaches s t ∧ t.sys.poison = s.sys.poison
        ∧ tagOf t.sys line = some x ∧ x.dirty = false ∧ (x.poison = true ↔ line ∈ s.sys.poison)
        ∧ (∀ l, l ≠ line → tagOf t.sys l = tagOf s.sys l)
        ∧ (x.zero = true ↔ ¬ own ∧ ∀ b ∈ bytes, b = 0)
        ∧ (∀ sl n e l ls, tableGet (sliceOf line) s.sys.cache = some sl → ¬ own → (∃ b ∈ bytes, b ≠ 0) →
            sl.entries.find? (fun y => y.2.indexed && y.2.dom == share.dom && y.2.hash == sipHash share.key bytes) = some (n, e) →
            e.lines = l :: ls → (List.range 128).map (fun k => byteOf s (l * 128 + k)) = bytes → e.refs < 63 →
            x.entry = n ∧ ∃ sl' e', tableGet (sliceOf line) t.sys.cache = some sl' ∧ sl'.shares = sl.shares + 1
              ∧ tableGet n sl'.entries = some e' ∧ e'.refs = e.refs + 1 ∧ line ∈ e'.lines))
    ∧ (∀ whole, tagOf s.sys line = none → exec (.lineEvict line whole) s = .next s)
    ∧ (∀ x, tagOf s.sys line = some x →
      (∃ t, exec (.lineEvict line false) s = .next t ∧ OnlyCaches s t ∧ tagOf t.sys line = none
        ∧ (∀ l, l ≠ line → tagOf t.sys l = tagOf s.sys l)
        ∧ (∀ l, l ∈ t.sys.poison ↔ if l = line ∧ x.dirty = true then x.poison = true else l ∈ s.sys.poison))
      ∧ (∀ sl e, x.zero = false → tableGet (sliceOf line) s.sys.cache = some sl → tableGet x.entry sl.entries = some e → line ∈ e.lines →
        ∃ t, exec (.lineEvict line true) s = .next t ∧ OnlyCaches s t ∧ ∀ l ∈ e.lines, tagOf t.sys l = none)))
  ∧ (∀ (s : State) (tid : Nat) (t : Thread) (va e : Word) (level : Nat), s.thread tid = some t →
    let tr := trCtx s t
    ((0x00FFFFFFFF000000 ≤ va.toNat ∨ quiet s ∧ ∀ e l, walk s.sys tr.root va.toNat ≠ .leaf e l) → exec (.pageWalkComplete tid va) s = .next s)
    ∧ (quiet s → va.toNat < 0x00FFFFFFFF000000 → walk s.sys tr.root va.toNat = .leaf e level →
      pageBlocked s tr.dom (e.toNat / 2 ^ 8 % 2 ^ 44 * 2 ^ 8) (pageBits level) = false →
      let x : TlbEntry := ⟨tr.dom, tr.asid, va.toNat / 2 ^ pageBits level, level, e⟩
      ∃ u, exec (.pageWalkComplete tid va) s = .next u ∧ SameSurroundings s u ∧ u.threads = s.threads ∧ u.proctor = s.proctor
        ∧ { u.sys with tlb1 := s.sys.tlb1, tlb2 := s.sys.tlb2 } = s.sys
        ∧ (∃ es, tableGet (tid / 8) u.sys.tlb1 = some es ∧ es.length ≤ 128 ∧ es.getLast? = some x)
        ∧ (∃ es, tableGet (tid / 384) u.sys.tlb2 = some es ∧ es.length ≤ 8192 ∧ es.getLast? = some x)
        ∧ (∀ c, c ≠ tid / 8 → tableGet c u.sys.tlb1 = tableGet c s.sys.tlb1)
        ∧ (∀ d, d ≠ tid / 384 → tableGet d u.sys.tlb2 = tableGet d s.sys.tlb2)))
  ∧ (∀ (s : State) (index : Nat) (i : Invalidation), s.sys.invalidations[index]? = some i →
    let last := i.last = true → ∀ j ∈ s.sys.invalidations.eraseIdx index, j.dom ≠ i.dom
    ((HeldBack s i ∨ ¬ last) → exec (.invalidationComplete index) s = .next s)
    ∧ (¬ HeldBack s i → last →
      ∃ u, exec (.invalidationComplete index) s = .next u ∧ u.sys.mem = (unpinned s i).1.sys.mem ∧ u.threads = s.threads
        ∧ (i.last = false → u.sched = s.sched)
        ∧ (i.last = true → ∀ n, u.kernel n = (s.kernel n).map (fun k => if k.dom = i.dom then { k with dom := 64 } else k))
        ∧ u.sys.invalidations = s.sys.invalidations.eraseIdx index
        ∧ (∀ c es x, ((c, es) ∈ u.sys.tlb1 ∨ (c, es) ∈ u.sys.tlb2) → x ∈ es → ¬ Removed i x)
        ∧ (keysRise s.proctor.frames = true → ∀ f, tableGet f u.proctor.frames = if f ∈ (unpinned s i).2 then none else tableGet f s.proctor.frames)
        ∧ (i.last = true → keysRise s.proctor.domains = true → tableGet i.dom u.proctor.domains = none)
        ∧ (i.seq = none → u.host = s.host)
        ∧ (∀ n e, i.seq = some n → tableGet n s.host.journal = some e →
            tableGet n u.host.journal = some { e with state := 4, det := 0, tend := s.cycle 4 })))

/-- 07 R130, R133, 23 R351, R366 to R374, R426: errors are logged, poison their unit or are corrected, and count towards a core's
retirement, which completes once no form uses it. In a pair, equal signatures commit, unequal ones take both members back, the
third time the kernel ends; equal events are performed once for both, unequal ones end the kernel. -/
def Obligations.ErrorsAndPairs : Prop :=
  (∀ (s : State) (u : ErrUnit), u.unit < 256 →
    (∃ t, exec (.correctableError u) s = .next t ∧ Logged s t 1 u.unit ∧ t.sys = s.sys ∧ t.threads = s.threads ∧ t.lanes = s.lanes
      ∧ (∀ k, (u.unit = 4 ∨ u.unit = 7) → u.agent = k → keysRise s.cores = true → (s.core k).retiring = false →
          ((t.core k).retiring = true ↔ 255 ≤ ((s.core k).errors.filter (fun x => (s.cycle (k / 48)).toNat - x < 2 ^ 32)).length)))
    ∧ (u.unit = 0 → ∃ t, exec (.uncorrectableError u) s = .next t ∧ Logged s t 2 0
        ∧ (∀ l, l ∈ t.sys.poison ↔ l = u.addr / 128 ∨ l ∈ s.sys.poison) ∧ t.sys.mem = s.sys.mem ∧ t.threads = s.threads)
    ∧ (∀ c off, u.unit = 3 → physKind u.addr = .scratch c off → cellsWf s.sys.granules = true →
        ∃ t, exec (.uncorrectableError u) s = .next t ∧ Logged s t 2 3 ∧ t.sys.mem = s.sys.mem ∧ t.threads = s.threads
          ∧ ∀ g, cellGet t.sys.granules g = if g = u.addr / 16 then 0b10 else cellGet s.sys.granules g)
    ∧ (u.unit = 4 → ∃ t, exec (.uncorrectableError u) s = .next t ∧ Logged s t 2 4 ∧ t.threads = s.threads
        ∧ sliceKey u.agent (u.index / 512) (u.index % 512) ∈ t.sys.slicePoison
        ∧ (keysRise s.cores = true → (t.core u.agent).retiring = true))
    ∧ ((u.unit = 2 ∨ u.unit = 9) → ∃ t, exec (.uncorrectableError u) s = .next t ∧ Logged s t 1 u.unit ∧ t.sys = s.sys
        ∧ t.threads = s.threads)
    ∧ (∀ n v, (u.unit = 5 ∧ LanesOf s u.agent n ∨ u.unit = 7 ∧ LanesOf s (u.agent * 8 + u.index % 8) n) → vctx s n = some v →
        ∃ t, exec (.uncorrectableError u) s = .next t ∧ Logged s t 2 u.unit ∧ t.sys = s.sys
          ∧ t.group n = some { v.g with poisoned := true })
    ∧ (∀ n v st, u.unit = 6 → LanesOf s u.agent n → vctx s n = some v → v.g.strip = some st →
        (u.index ∈ st.written → ∃ t, exec (.uncorrectableError u) s = .next t ∧ Logged s t 1 6 ∧ t.sys = s.sys
          ∧ t.group n = some (rolledBack v.g) ∧ LanesRolledBack s t v)
        ∧ (u.index ∉ st.written → exec (.uncorrectableError u) s = .next s))
    ∧ (∀ k p, 11 ≤ u.unit → u.agent = 1536 + k → s.pcore k = some p → ∃ t, exec (.uncorrectableError u) s = .next t
        ∧ Logged s t 2 u.unit ∧ t.sys = s.sys ∧ t.threads = s.threads ∧ t.pcore k = some { p with poisoned := true })
    ∧ (∀ x, 11 ≤ u.unit → u.agent < 1536 → s.thread u.agent = some x → ∃ t, exec (.uncorrectableError u) s = .next t ∧ Logged s t 2 u.unit
        ∧ t.sys = s.sys ∧ t.thread u.agent = some { x with poisoned := true }))
  ∧ (∀ (s : State) (core : Nat), core < 192 → keysRise s.cores = true →
    let c := s.core core
    let used := ∃ n k m f x, (n, k) ∈ s.sched.kernels ∧ (m, f) ∈ k.forms ∧ x ∈ f.place.slots ∧ x.1 = core
    ((c.retiring = false ∨ c.retired = true ∨ used) → exec (.coreRetireComplete core) s = .next s)
    ∧ (c.retiring = true → c.retired = false → ¬ used →
      ∃ t, exec (.coreRetireComplete core) s = .next t ∧ Logged s t 5 11
        ∧ Signalled { s.host with degr := true } t.host (if s.host.degr = true then [] else [2])
        ∧ readDevice t (core / 48 * 0x10000000 + 0x200000 + 8 * (core % 48)) = some 1
        ∧ t.sched = { s.sched with rescan := true } ∧ t.sys = s.sys ∧ t.threads = s.threads))
  ∧ (∀ (s : State) (lead shadow : Nat) (v w : VCtx) (c d : ClosedStrip) (cs ds : List ClosedStrip), vctx s lead = some v →
    vctx s shadow = some w → lead ≠ shadow → shadow < 1536 → v.t.role = .lead shadow → w.t.role = .shadow lead → v.g.closed = c :: cs → w.g.closed = d :: ds →
    CommitsFree v.g → CommitsFree w.g → linksHaveRoom s lead c.links = true → linksHaveRoom s shadow d.links = true →
    (c.ssn = d.ssn → c.signature = d.signature → c.strip.effects = [] → d.strip.effects = [] →
      ∃ t x y g h, exec (.pairSignatureExchange lead) s = .next t ∧ t.sys = s.sys ∧ t.thread lead = some x ∧ t.thread shadow = some y
        ∧ x.ctx = { v.t.ctx with fflags := v.t.ctx.fflags ||| c.strip.flags } ∧ y.ctx = { w.t.ctx with fflags := w.t.ctx.fflags ||| d.strip.flags }
        ∧ x.group = some g ∧ y.group = some h ∧ g.closed.length = cs.length ∧ h.closed.length = ds.length ∧ g.mismatches = 0)
    ∧ (¬ (c.ssn = d.ssn ∧ c.signature = d.signature) →
      (v.g.mismatches < 2 → ∃ t g h, exec (.pairSignatureExchange lead) s = .next t ∧ t.sys = s.sys ∧ Logged s t 3 11
        ∧ t.group lead = some g ∧ t.group shadow = some h ∧ BackTo g v.g c ∧ BackTo h w.g d ∧ g.mismatches = v.g.mismatches + 1)
      ∧ (∀ k, 2 ≤ v.g.mismatches → s.kernel v.t.lnum = some k → k.ended = none → k.done = none →
        ∃ t k', exec (.pairSignatureExchange lead) s = .next t ∧ t.kernel v.t.lnum = some k' ∧ k'.ended = some (5, 0)
          ∧ t.proctor.checks = s.proctor.checks ++ [recordOf 0x83 false true true shadow (shadow / 384) 0 (vcpOf w.g) c.ssn v.t.lnum
              (s.cycle (shadow / 384)) [coordWord lead, c.signature, d.signature]])))
  ∧ (∀ (s : State) (lead shadow : Nat) (t u : Thread) (e x : ExtEvent) (es xs : List ExtEvent), s.thread lead = some t →
    s.thread shadow = some u → lead ≠ shadow → t.role = .lead shadow → t.events = e :: es → u.events = x :: xs → quiet s →
    Memory.wf s.sys.mem = true → cellsWf s.sys.granules = true →
    let same := e.kind = x.kind ∧ e.addr = x.addr ∧ e.size = x.size ∧ e.data = x.data
      ∧ (atomicShape e.instr).map Prod.fst = (atomicShape x.instr).map Prod.fst
    let data := fun (i : Nat) => (e.data.getD i 0).toNat
    let old := leValue (presentBytes s e.addr e.size)
    let both := fun (r : State) (f : Thread → Thread) => SameSurroundings s r
      ∧ ∀ n, r.thread n = if n = lead then some (f t) else if n = shadow then some (f u) else s.thread n
    (same → e.kind = 0 → lostNode s e.addr = none → ∃ r, exec (.pairEventMatch lead) s = .next r ∧ both r (fun z => eventDone z z.ctx)
        ∧ StoredAt s r e.addr (bytesOf e.size (data 0 + 2 ^ 64 * data 1)) false)
    ∧ (∀ op rd rs1, same → e.kind = 1 → atomicShape e.instr = some (op, rd, rs1) → (e.size = 4 ∨ e.size = 8) → lostNode s e.addr = none →
        data 0 < 2 ^ (8 * e.size) → data 1 < 2 ^ (8 * e.size) → poisonAt s.sys e.addr e.size = none →
        ∃ r, exec (.pairEventMatch lead) s = .next r
          ∧ both r (fun z => eventDone z (advance (z.ctx.wr rd (wrap (valueIn true (8 * e.size) old)))))
          ∧ (match remoteAtomic op (8 * e.size) old (data 0) (data 1) with
            | some y => StoredAt s r e.addr (bytesOf e.size y) false
            | none => r.sys = s.sys))
    ∧ (∀ k, ¬ same → s.kernel t.lnum = some k → k.ended = none → k.done = none →
        ∃ r k', exec (.pairEventMatch lead) s = .next r ∧ r.kernel t.lnum = some k' ∧ k'.ended = some (5, 0)
          ∧ r.proctor.checks = s.proctor.checks ++ [recordOf 0x84 false true true shadow (shadow / 384) x.iaddr 0 0 t.lnum
              (s.cycle (shadow / 384)) [coordWord lead, BitVec.ofNat 64 e.no]]))

/-- 25 R393 to R399, R401, R402, R407 to R410, R415, R416, R420 to R423, R384: every command's event answers with one journal
entry. A slot that is malformed, names no domain, or has a wrong MAC or CSEQ is refused; an accepted command has the effect and
the RESULT of its type, or its entry says why it was refused or failed. The order of the four checks, and DET 3 for a module of
no number, are the model's (log 9). -/
def Obligations.HostCommands : Prop :=
  (∀ (s : State) (i : Instr) (c : Command) (typ seq : Nat), commandEvent i = some (typ, seq) →
    (∃ t, exec i s = .next t)
    ∧ ((∀ q, s.proctor.queued.head? = some q → q.seq ≠ seq) →
        (s.command = none ∧ s.host.head = s.host.tail ∨ ∃ x, s.command = some x ∧ (seq ≠ s.host.nextSeq ∨ x.typ.toNat ≠ typ)) →
        exec i s = .next s)
    ∧ (CommandReady s c typ seq →
      (Malformed s c → Answers i s s c 2 3 0)
      ∧ (¬ Malformed s c → ¬ NoMac typ → (∀ d, tableGet c.dom.toNat s.proctor.domains = some d → d.dying ≠ none) → Answers i s s c 2 8 0)
      ∧ (∀ d, ¬ Malformed s c → ¬ NoMac typ → tableGet c.dom.toNat s.proctor.domains = some d → d.dying = none →
          (¬ MacRight d c → Answers i s s c 2 1 0)
          ∧ (MacRight d c → c.cseq.toNat ≠ d.cseq + 1 → Answers i s s c 2 2 0))))
  ∧ (∀ (s : State) (c : Command) (typ seq : Nat), CommandReady s c typ seq →
      ((typ = 0 ∨ 14 < typ) → Answers (.reservedCommand c) s s c 2 3 0)
      ∧ (0 < typ → typ ≤ 14 → exec (.reservedCommand c) s = .next s))
  ∧ (∀ (s : State) (c : Command) (typ seq : Nat), CommandReady s c typ seq → SlotAccepted s c →
    let op0 := c.op0.toNat
    let op1 := c.op1.toNat
    let op2 := c.op2.toNat
    (typ = 1 →
      let block := hostSlice s op0 304
      let root := 0x2F80000000 + (s.proctor.tableNext + 65535) / 65536 * 65536
      ((∃ b ∈ hostSlice s (op0 + 156) 4, b ≠ 0) → Answers (.dcreate seq) s s c 2 3 0)
      ∧ ((∀ b ∈ hostSlice s (op0 + 156) 4, b = 0) →
          (Config.hssSignatures ≤ s.host.hssUsed ∨ (∀ d, d < 64 → tableGet d s.proctor.domains ≠ none) ∨ 0x3000000000 < root + 65536) →
          Answers (.dcreate seq) s s c 2 7 0)
      ∧ (∀ d, (∀ b ∈ hostSlice s (op0 + 156) 4, b = 0) → s.host.hssUsed < Config.hssSignatures → d < 64 →
          tableGet d s.proctor.domains = none → (∀ e, e < d → tableGet e s.proctor.domains ≠ none) → root + 65536 ≤ 0x3000000000 →
          let epub := ecdhPublic s.tick
          let dom : Domain := {
            keyBlock := block, memory := Config.memoryKeys s.tick, sharing := Config.sharingKey s.tick, epub := epub
            command := commandKey s.tick block, transfer := transferKey s.tick block, tag := c.op1, cseq := 0, root := root
            dying := none }
          Answers (.dcreate seq) s (reported { s with proctor := { s.proctor with
              tableNext := root + 65536 - 0x2F80000000, domains := tablePut d dom s.proctor.domains } }
            op2 d (sha384 block) (hostSlice s (op0 + 256) 48) epub) c 4 0 (BitVec.ofNat 64 d)))
    ∧ (∀ d, typ = 2 → tableGet c.dom.toNat s.proctor.domains = some d → keysRise s.sched.kernels = true →
        ∃ t, Answers (.ddestroy seq) s t c 3 0 0 ∧ t.host = s.host
          ∧ tableGet c.dom.toNat t.proctor.domains = some { d with dying := some seq }
          ∧ ∀ n k, s.kernel n = some k → (k.dom ≠ c.dom.toNat → k.streams = [] → t.kernel n = some k)
            ∧ (k.dom = c.dom.toNat → k.ended = none → k.done = none →
                ∃ k', t.kernel n = some k' ∧ k'.ended = some (5, 0) ∧ k'.forms = []))
    ∧ (typ = 3 →
      let bs := hostSlice s op0 op1
      let newest := Config.gozanNewest s.host.running
      let top := max (max (dieLevel s 0) (dieLevel s 1)) (max (dieLevel s 2) (dieLevel s 3))
      let bad := 2 ^ 30 < op1 ∨ op2 % 65536 ≠ 0 ∨ 0x00FFFFFFFF000000 ≤ op2
      ((bad ∨ readContainer bs = none) → Answers (.load seq) s s c 2 3 0)
      ∧ (∀ k d, ¬ bad → readContainer bs = some k → tableGet c.dom.toNat s.proctor.domains = some d →
        ((k.gver + 4 < newest ∨ newest < k.gver) → Answers (.load seq) s s c 2 5 0)
        ∧ (newest ≤ k.gver + 4 → k.gver ≤ newest →
          (signatureVerifies (tenantKeys d.keyBlock) k.signed k.signature = false → Answers (.load seq) s s c 2 4 0)
          ∧ (signatureVerifies (tenantKeys d.keyBlock) k.signed k.signature = true →
            (chooseImage k bs op2 top = none → Answers (.load seq) s s c 5 6 0)
            ∧ (∀ file n flag order, chooseImage k bs op2 top = some (file, n, flag, order) →
              let ranges := nativeRanges op2 n
              let held := ∃ r ∈ ranges, ∃ i ∈ s.sys.invalidations, i.dom = c.dom.toNat ∧ r.1 < i.lo + (i.hi - i.lo) ∧ i.lo < r.1 + r.2
              let room := ∀ r ∈ ranges, baseFits s c.dom.toNat r.1 r.2 = true
              (held → exec (.load seq) s = .next s)
              ∧ (¬ held → (¬ room ∨ placeImage s c.dom.toNat d.root op2 n = none) → Answers (.load seq) s s c 5 7 0)
              ∧ (∀ p, ¬ held → room → placeImage s c.dom.toNat d.root op2 n = some p →
                ∃ t im, Answers (.load seq) s t c 4 0 (BitVec.ofNat 64 p.proctor.nextImage) ∧ t.sys = p.sys ∧ t.threads = p.threads
                  ∧ t.proctor.nextImage = p.proctor.nextImage + 1 ∧ tableGet p.proctor.nextImage t.proctor.images = some im
                  ∧ im.dom = c.dom.toNat ∧ im.base = op2 ∧ im.level = n.level ∧ im.kernels = n.kernels ∧ im.order = order
                  ∧ im.sections = ranges ∧ im.unloading = none
                  ∧ t.host = (wroteHost p c.op3.toNat (sha384 file ++ bytesOf 4 n.level ++ bytesOf 4 flag
                      ++ bytesOf 8 (Config.firmwareVersion s.host.running).toNat)).host))))))
    ∧ (typ = 4 →
      ((∀ im, s.image op0 = some im → im.dom = c.dom.toNat → im.unloading ≠ none) → Answers (.unload seq) s s c 2 8 0)
      ∧ (∀ im, s.image op0 = some im → im.dom = c.dom.toNat → im.unloading = none →
          Answers (.unload seq) s { s with proctor := { s.proctor with
            images := tablePut op0 { im with unloading := some seq } s.proctor.images } } c 3 0 0))
    ∧ (typ = 5 →
      ((∀ im, s.image op1 = some im → im.dom = c.dom.toNat → im.unloading ≠ none) → Answers (.launch seq) s s c 2 8 0)
      ∧ (∀ im d, s.image op1 = some im → im.dom = c.dom.toNat → im.unloading = none → tableGet c.dom.toNat s.proctor.domains = some d →
        (im.order[op2]? = none → Answers (.launch seq) s s c 2 3 0)
        ∧ (∀ native unit, im.order[op2]? = some native → unit < 4 → im.level ≤ dieLevel s unit →
          (∀ e, e < 4 → im.level ≤ dieLevel s e → unitLoad s unit < unitLoad s e ∨ (unitLoad s unit = unitLoad s e ∧ unit ≤ e)) →
          let ws := (List.range 42).map (fun i => hostNumber s (op0 + 8 * i) 8)
          let card := ws.set 0 (ws.getD 0 0 + im.base + im.ktab + 128 * native)
          let paired := c.flg.getLsbD 1
          let det := cardDet s card unit c.dom.toNat c.dom.toNat paired
          let bounded := ∀ bs, im.nests = some bs → nestsBounded bs (cardOf ws).args = true
          ((op0 % 16 ≠ 0 ∨ ws.getD 0 0 % 2 ^ 56 ≠ 0) → Answers (.launch seq) s s c 2 3 0)
          ∧ (op0 % 16 = 0 → ws.getD 0 0 % 2 ^ 56 = 0 →
            (1024 ≤ unitLoad s unit → Answers (.launch seq) s s c 2 7 0)
            ∧ (unitLoad s unit < 1024 →
              (¬ bounded → Answers (.launch seq) s s c 5 6 0)
              ∧ (bounded → det ≠ 0 → ∃ t, Answers (.launch seq) s t c 2 9 (BitVec.ofNat 64 det) ∧ ((cardOf card).stat = 0 → t = s))
              ∧ (bounded → det = 0 → 0 < s.sched.nextLaunch →
                let n := s.sched.nextLaunch
                ∃ t k, Answers (.launch seq) s t c 1 0 (BitVec.ofNat 64 n) ∧ t.kernel n = some k ∧ k.card = cardOf card
                  ∧ k.dom = c.dom.toNat ∧ k.asid = c.dom.toNat ∧ k.root = d.root ∧ k.unit = unit ∧ k.paired = paired
                  ∧ k.journal = some seq ∧ k.forms = [] ∧ k.nextForm = 0 ∧ k.ended = none ∧ k.done = none
                  ∧ (∀ m, m ≠ n → t.kernel m = s.kernel m) ∧ t.sys = s.sys ∧ t.threads = s.threads ∧ t.host = s.host
                  ∧ t.sched.nextLaunch = n + 1 ∧ t.sched.rescan = true))))))
    ∧ (typ = 6 →
      ((∀ k, s.kernel op0 = some k → k.dom ≠ c.dom.toNat) → Answers (.cancel seq) s s c 2 8 0)
      ∧ (∀ k, s.kernel op0 = some k → k.dom = c.dom.toNat → ∃ t, Answers (.cancel seq) s t c 4 0 0 ∧ Cancelled s t op0 ∧ t.host = s.host))
    ∧ (∀ d, (typ = 7 ∨ typ = 8) → tableGet c.dom.toNat s.proctor.domains = some d →
      let i := if typ = 7 then Instr.stagein seq else .stageout seq
      let va := if typ = 7 then op1 else op0
      let acc := if typ = 7 then Access.write else .read
      let legal := op0 % 16 = 0 ∧ op1 % 16 = 0 ∧ op2 % 16 = 0 ∧ op2 ≤ 2 ^ 26
      (¬ legal → Answers i s s c 2 3 0)
      ∧ (typ = 7 → legal → gcmOpen d.transfer (commandIv c) (commandHead c) op2 (hostSlice s op0 (op2 + 16)) = none → Answers i s s c 5 4 0)
      ∧ (∀ plain k pa, legal → (typ = 7 → gcmOpen d.transfer (commandIv c) (commandHead c) op2 (hostSlice s op0 (op2 + 16)) = some plain) → k < op2 / 16 →
          StagedAt s c.dom.toNat d.root va (16 * k) acc pa →
          (∀ p, translate s (engineAccessor c.dom.toNat c.dom.toNat d.root) (va + 16 * k) acc ≠ .ok p) →
          lazyRegion s c.dom.toNat (va + 16 * k) = none → Answers i s s c 5 6 0)
      ∧ (∀ plain pa, typ = 7 → legal → gcmOpen d.transfer (commandIv c) (commandHead c) op2 (hostSlice s op0 (op2 + 16)) = some plain → plain.length = op2 →
          StagedAt s c.dom.toNat d.root va op2 acc pa → Memory.wf s.sys.mem = true →
          (∀ j k, j < op2 / 16 → k < op2 / 16 → j ≠ k → pa j + 16 ≤ pa k ∨ pa k + 16 ≤ pa j) →
          ∃ t, Answers i s t c 4 0 0 ∧ { t with sys := s.sys } = s
            ∧ (∀ k b, k < op2 / 16 → b < 16 → plain[16 * k + b]? = some (byteOf t (pa k + b)))
            ∧ ∀ a, (∀ k, k < op2 / 16 → a < pa k ∨ pa k + 16 ≤ a) → byteOf t a = byteOf s a)
      ∧ (∀ pa, typ = 8 → legal → StagedAt s c.dom.toNat d.root va op2 acc pa →
        let plain := (List.range (op2 / 16)).flatMap (fun k => (List.range 16).map (fun b => byteOf s (pa k + b)))
        ((∀ k, k < op2 / 16 → poisonAt s.sys (pa k) 16 = none) →
          Answers i s (wroteHost s op1 (gcmSeal d.transfer (commandIv c) (commandHead c) plain)) c 4 0 0)
        ∧ (∀ k, k < op2 / 16 → poisonAt s.sys (pa k) 16 ≠ none → ∃ t, Answers i s t c 5 6 0 ∧ t.host = s.host ∧ t.sys = s.sys)))
    ∧ (typ = 9 →
      let r := mapRegion c
      let held := ∃ i ∈ s.sys.invalidations, i.dom = r.dom ∧ r.base < i.lo + (i.hi - i.lo) ∧ i.lo < r.base + r.len
      (¬ MapLegal c → Answers (.map seq) s s c 2 3 0)
      ∧ (MapLegal c → held → exec (.map seq) s = .next s)
      ∧ (MapLegal c → ¬ held → ¬ RangeFree s r.dom r.base r.len → Answers (.map seq) s s c 5 7 0)
      ∧ (MapLegal c → ¬ held → RangeFree s r.dom r.base r.len →
        (r.lazy = true → Answers (.map seq) s { s with proctor := { s.proctor with regions := s.proctor.regions ++ [r] } } c 4 0 0)
        ∧ (r.lazy = false →
          (∀ d, tableGet r.dom s.proctor.domains = some d → mapAll s r d.root = none → Answers (.map seq) s s c 5 7 0)
          ∧ (∀ d p, tableGet r.dom s.proctor.domains = some d → mapAll s r d.root = some p →
            Answers (.map seq) s { p with proctor := { p.proctor with regions := p.proctor.regions ++ [r] } } c 4 0 0))))
    ∧ (typ = 10 →
      ((∀ r ∈ s.proctor.regions, ¬ (r.dom = c.dom.toNat ∧ r.base = op0 ∧ r.len = op1)) → Answers (.unmap seq) s s c 2 8 0)
      ∧ (∀ r ∈ s.proctor.regions, r.dom = c.dom.toNat → r.base = op0 → r.len = op1 →
          ∃ t i, Answers (.unmap seq) s t c 3 0 0 ∧ t.host = s.host ∧ t.threads = s.threads
            ∧ t.proctor.regions.length < s.proctor.regions.length ∧ t.sys.invalidations = s.sys.invalidations ++ [i]
            ∧ i.dom = c.dom.toNat ∧ i.lo = op0 ∧ i.hi = op0 + op1 ∧ i.seq = some seq ∧ i.last = false))
    ∧ (typ = 11 →
      let nonce := hostSlice s op0 48
      ((op0 % 16 ≠ 0 ∨ 256 ≤ op2) → Answers (.attest seq) s s c 2 3 0)
      ∧ (op0 % 16 = 0 → op2 < 255 → tableGet op2 s.proctor.domains = none → Answers (.attest seq) s s c 2 8 0)
      ∧ (op0 % 16 = 0 → (op2 = 255 ∨ op2 < 255 ∧ tableGet op2 s.proctor.domains ≠ none) →
        (Config.hssSignatures ≤ s.host.hssUsed → Answers (.attest seq) s s c 2 7 0)
        ∧ (s.host.hssUsed < Config.hssSignatures →
          (∀ d, tableGet op2 s.proctor.domains = some d →
            Answers (.attest seq) s (reported s op1 op2 (sha384 d.keyBlock) nonce d.epub) c 4 0 0)
          ∧ (tableGet op2 s.proctor.domains = none →
            Answers (.attest seq) s (reported s op1 255 (bytesOf 48 0) nonce (bytesOf 96 0)) c 4 0 0))))
    ∧ (typ = 12 →
      let bs := hostSlice s op0 op1
      let m := packageMicrocode bs
      (brynpolVerifies bs = false → Answers (.mcode seq) s s c 2 4 0)
      ∧ (brynpolVerifies bs = true → PackageBad s m → Answers (.mcode seq) s s c 2 10 0)
      ∧ (brynpolVerifies bs = true → ¬ PackageBad s m →
        (s.proctor.update = none → s.proctor.queued = [] → Answers (.mcode seq) s (updating s seq 0 m (by decide)) c 3 0 0)
        ∧ ((s.proctor.update ≠ none ∨ s.proctor.queued ≠ []) →
          Answers (.mcode seq) s { s with proctor := { s.proctor with queued := s.proctor.queued ++ [⟨seq, m, 0⟩] } } c 1 0 0)))
    ∧ (typ = 13 →
      let bs := hostSlice s op0 op1
      (brynpolVerifies bs = false → Answers (.fwstage seq) s s c 2 4 0)
      ∧ (brynpolVerifies bs = true →
          Answers (.fwstage seq) s { s with host := { s.host with staged := some bs } } c 4 0 0))
    ∧ (typ = 14 →
      (1023 < op0 → Answers (.nodeset seq) s s c 2 3 0)
      ∧ (op0 ≤ 1023 → Answers (.nodeset seq) s { s with host := { s.host with flashNode := some op0 } } c 4 0 0)))
  ∧ (∀ (s : State) (dom : Nat),
    ((∀ d, tableGet dom s.proctor.domains = some d → d.dying = none) → exec (.ddestroyComplete dom) s = .next s)
    ∧ (∀ d seq, tableGet dom s.proctor.domains = some d → d.dying = some seq →
      let busy := ∃ n k, (n, k) ∈ s.sched.kernels ∧ k.dom = dom ∧ k.done = none
      let begun := ∃ i ∈ s.sys.invalidations, i.dom = dom ∧ i.last = true
      ((busy ∨ begun) → exec (.ddestroyComplete dom) s = .next s)
      ∧ (¬ busy → ¬ begun → ∃ u i, exec (.ddestroyComplete dom) s = .next u ∧ u.threads = s.threads ∧ u.sched = s.sched
          ∧ u.sys = { s.sys with invalidations := s.sys.invalidations ++ [i] } ∧ i.dom = dom ∧ i.lo = 0 ∧ i.hi = 2 ^ 56
          ∧ i.seq = some seq ∧ i.last = true ∧ (∀ f, f ∈ i.release ↔ ∃ x, (f, x) ∈ s.proctor.frames ∧ x.dom = dom)
          ∧ (∀ e, e ∈ u.proctor.images ↔ e ∈ s.proctor.images ∧ e.2.dom ≠ dom)
          ∧ (∀ r, r ∈ u.proctor.regions ↔ r ∈ s.proctor.regions ∧ r.dom ≠ dom))))
  ∧ (∀ (s : State) (handle : Nat),
    ((∀ im, s.image handle = some im → im.unloading = none) → exec (.unloadComplete handle) s = .next s)
    ∧ (∀ im d seq, s.image handle = some im → im.unloading = some seq → tableGet im.dom s.proctor.domains = some d →
        keysRise s.proctor.images = true →
      let busy := ∃ n k, (n, k) ∈ s.sched.kernels ∧ k.image = handle ∧ k.done = none
      (busy → exec (.unloadComplete handle) s = .next s)
      ∧ (¬ busy → ∃ u i, exec (.unloadComplete handle) s = .next u ∧ u.threads = s.threads ∧ u.sched = s.sched ∧ u.host = s.host
          ∧ u.image handle = none ∧ (∀ n, n ≠ handle → u.image n = s.image n)
          ∧ u.sys.invalidations = s.sys.invalidations ++ [i] ∧ i.dom = im.dom ∧ i.lo = im.base
          ∧ (∀ r ∈ im.sections, r.1 + r.2 ≤ i.hi) ∧ i.seq = some seq ∧ i.last = false)))
  ∧ (∀ (s : State) (seq : Nat) (m : Microcode) (x : Nat) (qs : List McodeUpdate), s.proctor.queued = ⟨seq, m, x⟩ :: qs →
    (s.proctor.update ≠ none → exec (.mcode seq) s = .next s)
    ∧ (s.proctor.update = none → ¬ PackageBad s m →
      ∃ h, exec (.mcode seq) s = .next (updating { s with host := h, proctor := { s.proctor with queued := qs } } seq 0 m (by decide))
        ∧ ∀ e, tableGet seq s.host.journal = some e → tableGet seq h.journal = some { e with state := 3 })
    ∧ (s.proctor.update = none → PackageBad s m →
      ∃ h, exec (.mcode seq) s = .next { s with host := h, proctor := { s.proctor with queued := qs } }
        ∧ ∀ e, tableGet seq s.host.journal = some e →
          tableGet seq h.journal = some { e with state := 5, det := 10, tend := s.cycle 4 }))
  ∧ (∀ (s : State) (die : Nat) (h : die < 4),
    ((∀ u, s.proctor.update = some u → u.die ≠ die) → exec (.mcodeDieUpdate die) s = .next s)
    ∧ (∀ u, s.proctor.update = some u → u.die = die →
      let holds := fun (f : Form) => f.status ≠ .stopped ∧ ∃ x ∈ f.place.slots, x.1 / 48 = die
      let p := { s.proctor with micro := s.proctor.micro.set die u.code }
      ((∀ n k m f, (n, k) ∈ s.sched.kernels → (m, f) ∈ k.forms → ¬ holds f) →
        ∃ t, exec (.mcodeDieUpdate die) s = .next t ∧ t.sys = s.sys ∧ t.threads = s.threads ∧ t.sched.rescan = true
          ∧ (∀ g : die + 1 < 4, t.proctor = (updating { s with proctor := p } u.seq (die + 1) u.code g).proctor ∧ t.host = s.host)
          ∧ (die = 3 → t.proctor = { p with update := none } ∧ ∀ e, tableGet u.seq s.host.journal = some e →
              tableGet u.seq t.host.journal = some { e with state := 4, det := 0, tend := s.cycle 4 }))
      ∧ (∀ n k m f, s.sched.kernels = [(n, k)] → k.forms = [(m, f)] → f.no = m → holds f → f.status = .resident →
          formSaveable s f = true → faultHandled s f = false →
          ∃ t k' f', exec (.mcodeDieUpdate die) s = .next t ∧ t.proctor = s.proctor ∧ t.sys = s.sys ∧ t.kernel n = some k'
            ∧ tableGet m k'.forms = some f' ∧ f'.status = .stopping)))

/-! Decoding, steps, reset. -/

/-- 09 R134 to R146, R148, R150: decoding what a well-formed instruction encodes to gives that instruction back, every operand at every
value its encoding admits: a control thread's decoder for scalar instructions, a sequencer's for convoy headers and for vector
instructions, whose first parcel is bits 63 to 32. -/
def Obligations.DecodeEncodeAgree : Prop :=
  (∀ (i : Instr) (p : Parcel), i.wf = true → encodeParcel i = some p →
    decodeThread p = i ∨ ∃ n a b c d e f, i = .convoy n a b c d e f ∧ ∀ lo, decodeSequencer p lo = i)
  ∧ (∀ (i : Instr) (v : BitVec 64), i.wf = true → encodeVector i = some v →
    decodeSequencer (v.extractLsb' 32 32) (v.extractLsb' 0 32) = i)
  ∧ (∀ (hi lo : Parcel) (i : Instr), decodeVector hi lo = some i → encodeVector i = some (hi ++ lo))

/-- Every step, of whichever agent, keeps memory in its canonical form: addresses strictly rising and no listed byte equal to what
an unlisted address reads as. -/
def Obligations.MemoryStaysCanonical : Prop :=
  ∀ s t : State, Memory.wf s.sys.mem = true → step s = .next t → Memory.wf t.sys.mem = true

/-- 09 R134 to R137, 03 R34, R41: where the agent whose turn it is can fetch, a step executes the instruction decoded there as that agent,
and adds only what every step adds; another agent's step executes its row; a turn of an agent that cannot move only lets time
pass. -/
def Obligations.StepRunsDecoded : Prop :=
  (∀ (s u : State) (turn : Turn), TurnComes s turn u → s.power = .up →
    (∀ tid t p, turn = .scalar tid → quiet s → ThreadFree u tid t → ParcelAt u (threadAccessor u tid t) t.ctx.pc p →
      step s = andSettles (exec (decodeThread p) { u with actor := .thread tid }))
    ∧ (∀ k c p, turn = .proctor k → quiet s → u.pcore k = some c → c.halted = false → c.waiting = none → c.poisoned = false → ParcelAt u proctorAccessor c.ctx.pc p →
      step s = andSettles (exec (decodeThread p) { u with actor := .proctor k }))
    ∧ (∀ tid t g hi, turn = .vector tid → quiet s → SequencerFree u tid t g → ParcelAt u (threadAccessor u tid t) g.core.pc hi →
      (0xFC ≤ hi.toNat / 2 ^ 24 → step s = andSettles (exec (decodeSequencer hi 0) { u with actor := .sequencer tid }))
      ∧ (∀ lo, hi.toNat / 2 ^ 24 < 0xFC → ParcelAt u (threadAccessor u tid t) (g.core.pc + 4) lo →
        step s = andSettles (exec (decodeSequencer hi lo) { u with actor := .sequencer tid })))
    ∧ (∀ i, turn = .event i → OfAnotherAgent i → step s = andSettles (exec i { u with actor := .engine }))
    ∧ (∀ tid t, turn = .scalar tid → u.thread tid = some t → (t.waiting ≠ none ∨ t.faulted = true ∨ t.stopped = true) →
        step s = .next (settle u))
    ∧ (∀ tid, (turn = .scalar tid ∨ turn = .vector tid) → u.thread tid = none → step s = .next (settle u))
    ∧ (∀ tid t g, turn = .vector tid → u.thread tid = some t → t.group = some g →
        (g.running = false ∨ g.waiting ≠ none ∨ g.faulted = true ∨ g.stop ≠ none) → step s = .next (settle u)))
  ∧ (∀ s : State, s.sched.rescan = false → s.power = .up →
      (settle s).tick = s.tick + 1
      ∧ { settle s with tick := s.tick, cycles := s.cycles } = s
      ∧ ∀ i : Fin 5, (settle s).cycles[i] = s.cycles[i] + BitVec.ofNat 64 (Config.cyclesOf (s.tick + 1) i.val))
  ∧ (∀ s : State, s.power ≠ .up → settle s = { s with tick := s.tick + 1 })

/-- 09 R134, R138, R141, R142, R146, R148, R150, R151: words written out from the chapter's tables decode to the instructions
that they stand for. -/
def Obligations.DecodeSpecWords : Prop :=
  decodeThread (1#6 ++ 3#5 ++ 1#5 ++ 2#5 ++ 0#11) = .add 3 1 2
  ∧ decodeThread (0x02#6 ++ 5#5 ++ 6#5 ++ 0xFFFE#16) = .addi 5 6 0xFFFE
  ∧ decodeThread (0x16#6 ++ 7#5 ++ 8#5 ++ 16#16) = .ld 7 8 16
  ∧ decodeThread (0x20#6 ++ 1#5 ++ 2#5 ++ 0xFFFF#16) = .beq 1 2 0xFFFF
  ∧ decodeThread (0x27#6 ++ 4#26) = .j 4
  ∧ decodeThread (0x39#6 ++ 0#15 ++ 2#3 ++ 0#8) = .exit
  ∧ decodeThread (0x39#6 ++ 0#15 ++ 0#3 ++ 5#8) = .feat
  ∧ decodeThread 0 = .undefinedEncoding 0 0
  ∧ decodeSequencer (0xFC#8 ++ 2#3 ++ 1#3 ++ 2#3 ++ 0#12 ++ 0#3) 0 = .convoy 2 1 2 0 0 0 0
  ∧ decodeSequencer (0x20#8 ++ 1#6 ++ 2#6 ++ 3#6 ++ 0#6) (0#3 ++ 0#1 ++ 0#4 ++ 0#24) = .vadd ⟨1, 2, 3, 0, 0, false, 0, 0⟩
  ∧ decodeSequencer (0x01#8 ++ 1#6 ++ 2#6 ++ 0#6 ++ 0#6) (0#3 ++ 0#1 ++ 0#4 ++ 0#24) = .setvl ⟨1, 2, 0, 0, 0, false, 0, 0⟩
  ∧ decodeSequencer (0xE3#8 ++ 0#24) 7 = .microcodeOpcode 3 ⟨0, 0, 0, 0, 0, false, 0, 7⟩
  ∧ decodeSequencer 0xFD000000 0 = .undefinedEncoding 0xFD000000 0

/-- 01 R30, 03 R36, 07 R114, 21 R315, 23 R353, R375, 25 R378, R380, R381, R392, R397: after reset the module has no power, memory is empty and in its canonical
form, no thread, kernel or pigeonhole exists, and each register that the chapters give a reset value reads it. That an
unlisted byte reads zero outside HBM is the model's choice (log 4). -/
def Obligations.ResetState : Prop :=
  let s := State.reset
  s.power = .off ∧ Memory.wf s.sys.mem = true ∧ (∀ a, byteOf s a = 0)
    ∧ (∀ a n, n ≠ 0 → poisonAt s.sys a n = none)
    ∧ (∀ tid, s.thread tid = none) ∧ (∀ n, s.kernel n = none) ∧ s.sched.nextLaunch = 1
    ∧ (∀ c, s.core c = { cur := 0xFFFFFFFF, nxt := 0xFFFFFFFF, retired := false, retiring := false, errors := [] })
    ∧ (∀ n, (s.hole n).owner = none ∧ (s.hole n).gen = 0)
    ∧ (∀ d, d < 4 → readDevice s (d * 0x10000000) = some 0xA410 ∧ readDevice s (d * 0x10000000 + 8) = some 0)
    ∧ (∀ k, k < 32 → readDevice s (0x40000000 + 8 * k) = some 0)
    ∧ (∀ p, p < 24 → lstatReads s p = some 0xFFFF00000000)
    ∧ readDevice s 0x40200000 = some 0x7FF07FF ∧ readDevice s 0x40200008 = some 0
    ∧ (∀ i : Fin 5, s.cycles[i] = 0) ∧ s.proctor.finj = 0 ∧ s.host.journal = [] ∧ s.host.nextSeq = 1 ∧ s.host.jvalid = false
    ∧ s.proctor.log = [] ∧ s.proctor.domains = [] ∧ s.proctor.frames = []
end

