-- ==== Sys2Proof/Laws/Sparse.lean ====
section
/-! SUPPORT. Laws of sparse maps: reading after writing, and that every operation on cells keeps their canonical form. -/

namespace Sys2Proof.Machine

variable {α : Type}

@[simp] theorem tableGet_tablePut_self (k : Nat) (x : α) (t : Table α) : tableGet k (tablePut k x t) = some x := by
  induction t with
  | nil => simp [tablePut, tableGet]
  | cons e t ih =>
    obtain ⟨j, y⟩ := e
    by_cases h : k = j
    · simp [tablePut, tableGet, h]
    · by_cases h' : k < j
      · simp [tablePut, tableGet, h, h']
      · simp [tablePut, tableGet, h, h', ih]

theorem tableGet_tablePut_ne {k j : Nat} (h : j ≠ k) (x : α) (t : Table α) :
    tableGet j (tablePut k x t) = tableGet j t := by
  induction t with
  | nil => simp [tablePut, tableGet, h]
  | cons e t ih =>
    obtain ⟨i, y⟩ := e
    by_cases h1 : k = i
    · subst h1; simp [tablePut, tableGet, h]
    · by_cases h2 : k < i
      · by_cases h3 : j < k
        · have : j ≠ i := by omega
          have : j < i := by omega
          simp [tablePut, tableGet, *]
        · simp [tablePut, tableGet, h1, h2, h, h3]
      · simp only [tablePut, h1, h2, if_false, tableGet, ih]

theorem tableGet_tablePut (k j : Nat) (x : α) (t : Table α) :
    tableGet j (tablePut k x t) = if j = k then some x else tableGet j t := by
  split
  · next h => subst h; simp
  · next h => exact tableGet_tablePut_ne h x t

theorem tableGet_tableMod (k j : Nat) (f : α → α) (t : Table α) :
    tableGet j (tableMod k f t) = if j = k then (tableGet j t).map f else tableGet j t := by
  unfold tableMod
  split
  · next x h =>
    rw [tableGet_tablePut]
    split
    · next hj => subst hj; simp [h]
    · rfl
  · next h =>
    split
    · next hj => subst hj; simp [h]
    · rfl

/-- Every key of the rest of a rising table lies above its first. -/
theorem lt_of_keysRise {j : Nat} {y : α} {t : Table α} (h : keysRise ((j, y) :: t) = true) :
    ∀ e ∈ t, j < e.1 := by
  induction t generalizing j y with
  | nil => simp
  | cons e t ih =>
    obtain ⟨k, z⟩ := e
    simp only [keysRise, Bool.and_eq_true, decide_eq_true_eq] at h
    intro e he
    rcases List.mem_cons.mp he with rfl | he
    · exact h.1
    · exact Nat.lt_trans h.1 (ih h.2 e he)

theorem keysRise_tail {e : Nat × α} {t : Table α} (h : keysRise (e :: t) = true) : keysRise t = true := by
  cases t with
  | nil => rfl
  | cons f t => obtain ⟨j, y⟩ := e; obtain ⟨k, z⟩ := f; simp [keysRise] at h; exact h.2

theorem keysRise_cons {j : Nat} {y : α} {t : Table α} (h : keysRise t = true) (hj : ∀ e ∈ t, j < e.1) :
    keysRise ((j, y) :: t) = true := by
  cases t with
  | nil => rfl
  | cons f t => obtain ⟨k, z⟩ := f; simp [keysRise, h, hj (k, z) (by simp)]

/-- A rising table holds nothing below its first key. -/
theorem tableGet_none_of_lt {k : Nat} {t : Table α} (h : ∀ e ∈ t, k < e.1) : tableGet k t = none := by
  cases t with
  | nil => rfl
  | cons e t =>
    obtain ⟨j, y⟩ := e
    have hj : k < j := h (j, y) (by simp)
    simp [tableGet, hj, Nat.ne_of_lt hj]

theorem mem_tablePut {k : Nat} {x : α} {t : Table α} {e : Nat × α} (h : e ∈ tablePut k x t) : e = (k, x) ∨ e ∈ t := by
  induction t with
  | nil => simpa [tablePut] using h
  | cons f t ih =>
    obtain ⟨j, y⟩ := f
    simp only [tablePut] at h
    split at h
    · rcases List.mem_cons.mp h with rfl | h <;> simp_all
    · split at h
      · simpa using h
      · rcases List.mem_cons.mp h with rfl | h
        · simp
        · rcases ih h with rfl | h <;> simp_all

theorem keysRise_tablePut {k : Nat} {x : α} {t : Table α} (h : keysRise t = true) : keysRise (tablePut k x t) = true := by
  induction t with
  | nil => rfl
  | cons f t ih =>
    obtain ⟨j, y⟩ := f
    have hlt := lt_of_keysRise h
    have ht := keysRise_tail h
    simp only [tablePut]
    split
    · next hk => subst hk; exact keysRise_cons ht hlt
    · split
      · next h1 h2 =>
        refine keysRise_cons h ?_
        intro e he
        rcases List.mem_cons.mp he with rfl | he
        · exact h2
        · exact Nat.lt_trans h2 (hlt e he)
      · next h1 h2 =>
        refine keysRise_cons (ih ht) ?_
        intro e he
        rcases mem_tablePut he with rfl | he
        · simp; omega
        · exact hlt e he

theorem mem_tableDel {k : Nat} {t : Table α} {e : Nat × α} (h : e ∈ tableDel k t) : e ∈ t := by
  induction t with
  | nil => simp [tableDel] at h
  | cons f t ih =>
    obtain ⟨j, y⟩ := f
    simp only [tableDel] at h
    split at h
    · exact List.mem_cons_of_mem _ h
    · split at h
      · exact h
      · rcases List.mem_cons.mp h with rfl | h
        · simp
        · exact List.mem_cons_of_mem _ (ih h)

theorem keysRise_tableDel {k : Nat} {t : Table α} (h : keysRise t = true) : keysRise (tableDel k t) = true := by
  induction t with
  | nil => rfl
  | cons f t ih =>
    obtain ⟨j, y⟩ := f
    have hlt := lt_of_keysRise h
    have ht := keysRise_tail h
    simp only [tableDel]
    split
    · exact ht
    · split
      · exact h
      · exact keysRise_cons (ih ht) (fun e he => hlt e (mem_tableDel he))

theorem tableGet_tableDel_self {k : Nat} {t : Table α} (h : keysRise t = true) : tableGet k (tableDel k t) = none := by
  induction t with
  | nil => rfl
  | cons f t ih =>
    obtain ⟨j, y⟩ := f
    have hlt := lt_of_keysRise h
    simp only [tableDel]
    split
    · next hk => subst hk; exact tableGet_none_of_lt hlt
    · split
      · next h1 h2 => simp [tableGet, h1, h2]
      · next h1 h2 => simp [tableGet, h1, h2, ih (keysRise_tail h)]

theorem tableGet_tableDel_ne {k i : Nat} {t : Table α} (h : keysRise t = true) (hi : i ≠ k) :
    tableGet i (tableDel k t) = tableGet i t := by
  induction t with
  | nil => rfl
  | cons f t ih =>
    obtain ⟨j, y⟩ := f
    have hlt := lt_of_keysRise h
    simp only [tableDel]
    split
    · next hk =>
      subst hk
      by_cases h2 : i < k
      · rw [tableGet_none_of_lt (fun e he => Nat.lt_trans h2 (hlt e he))]
        simp [tableGet, hi, h2]
      · simp [tableGet, hi, h2]
    · split
      · rfl
      · simp only [tableGet, ih (keysRise_tail h)]

/-- A write keeps the canonical form of cells. -/
theorem cellsWf_cellSet {w : Nat} {m : Sparse w} {k : Nat} {v : BitVec w} (h : cellsWf m = true) :
    cellsWf (cellSet m k v) = true := by
  simp only [cellsWf, Bool.and_eq_true, List.all_eq_true, bne_iff_ne, ne_eq] at h ⊢
  unfold cellSet
  split
  · exact ⟨keysRise_tableDel h.1, fun e he => h.2 e (mem_tableDel he)⟩
  · next hv =>
    refine ⟨keysRise_tablePut h.1, fun e he => ?_⟩
    rcases mem_tablePut he with rfl | he
    · exact hv
    · exact h.2 e he

/-- Reading cells after writing one. -/
theorem cellGet_cellSet {w : Nat} {m : Sparse w} (h : cellsWf m = true) (k j : Nat) (v : BitVec w) :
    cellGet (cellSet m k v) j = if j = k then v else cellGet m j := by
  simp only [cellsWf, Bool.and_eq_true] at h
  unfold cellGet cellSet
  split
  · next hv =>
    split
    · next hj => subst hj; rw [tableGet_tableDel_self h.1]; simp [hv]
    · next hj => rw [tableGet_tableDel_ne h.1 hj]
  · rw [tableGet_tablePut]
    split <;> simp

/-- Cells selected by key keep the canonical form. -/
theorem keysRise_filter {t : Table α} (p : Nat × α → Bool) (h : keysRise t = true) : keysRise (t.filter p) = true := by
  induction t with
  | nil => rfl
  | cons f t ih =>
    obtain ⟨j, y⟩ := f
    have ht := ih (keysRise_tail h)
    simp only [List.filter_cons]
    split
    · exact keysRise_cons ht (fun e he => lt_of_keysRise h e (List.mem_filter.mp he).1)
    · exact ht

theorem cellsWf_cellsWhere {w : Nat} {m : Sparse w} (p : Nat → Bool) (h : cellsWf m = true) :
    cellsWf (cellsWhere m p) = true := by
  simp only [cellsWf, Bool.and_eq_true, List.all_eq_true] at h ⊢
  exact ⟨keysRise_filter _ h.1, fun e he => h.2 e (List.mem_filter.mp he).1⟩

theorem cellsWf_nil {w : Nat} : cellsWf ([] : Sparse w) = true := rfl

/-- Cells joined to a canonical list, none of them zero, are canonical; so are two canonical lists joined. -/
theorem cellsWf_cellsJoin_of {w : Nat} {m n : Sparse w} (h : cellsWf m = true) (hn : ∀ e ∈ n, e.2 ≠ 0#w) :
    cellsWf (cellsJoin m n) = true := by
  unfold cellsJoin
  induction n generalizing m with
  | nil => exact h
  | cons e n ih =>
    refine ih ?_ (fun f hf => hn f (List.mem_cons_of_mem _ hf))
    have := cellsWf_cellSet (k := e.1) (v := e.2) h
    simpa [cellSet, hn e (by simp)] using this

theorem ne_zero_of_cellsWf {w : Nat} {m : Sparse w} (h : cellsWf m = true) : ∀ e ∈ m, e.2 ≠ 0#w := by
  simp only [cellsWf, Bool.and_eq_true, List.all_eq_true, bne_iff_ne] at h
  exact h.2

theorem cellsWf_cellsJoin {w : Nat} {m n : Sparse w} (h : cellsWf m = true) (hn : cellsWf n = true) :
    cellsWf (cellsJoin m n) = true := cellsWf_cellsJoin_of h (ne_zero_of_cellsWf hn)

end Sys2Proof.Machine
end

