-- ==== Sys2Proof/Laws/State.lean ====
section
/-! SUPPORT. Each update of State, field by field: what it leaves as it was, and what it sets. -/

namespace Sys2Proof.Machine

variable (s : State)

@[simp] theorem State.putThread_actor (tid : Nat) (t : Thread) : (s.putThread tid t).actor = s.actor := rfl
@[simp] theorem State.putThread_agenda (tid : Nat) (t : Thread) : (s.putThread tid t).agenda = s.agenda := rfl
@[simp] theorem State.putThread_tick (tid : Nat) (t : Thread) : (s.putThread tid t).tick = s.tick := rfl
@[simp] theorem State.putThread_power (tid : Nat) (t : Thread) : (s.putThread tid t).power = s.power := rfl
@[simp] theorem State.putThread_cycles (tid : Nat) (t : Thread) : (s.putThread tid t).cycles = s.cycles := rfl
@[simp] theorem State.putThread_sys (tid : Nat) (t : Thread) : (s.putThread tid t).sys = s.sys := rfl
@[simp] theorem State.putThread_lanes (tid : Nat) (t : Thread) : (s.putThread tid t).lanes = s.lanes := rfl
@[simp] theorem State.putThread_cores (tid : Nat) (t : Thread) : (s.putThread tid t).cores = s.cores := rfl
@[simp] theorem State.putThread_threads (tid : Nat) (t : Thread) : (s.putThread tid t).threads = tablePut tid t s.threads := rfl
@[simp] theorem State.putThread_fabric (tid : Nat) (t : Thread) : (s.putThread tid t).fabric = s.fabric := rfl
@[simp] theorem State.putThread_sched (tid : Nat) (t : Thread) : (s.putThread tid t).sched = s.sched := rfl
@[simp] theorem State.putThread_proctor (tid : Nat) (t : Thread) : (s.putThread tid t).proctor = s.proctor := rfl
@[simp] theorem State.putThread_host (tid : Nat) (t : Thread) : (s.putThread tid t).host = s.host := rfl

@[simp] theorem State.modThread_actor (tid : Nat) (f : Thread → Thread) : (s.modThread tid f).actor = s.actor := rfl
@[simp] theorem State.modThread_agenda (tid : Nat) (f : Thread → Thread) : (s.modThread tid f).agenda = s.agenda := rfl
@[simp] theorem State.modThread_tick (tid : Nat) (f : Thread → Thread) : (s.modThread tid f).tick = s.tick := rfl
@[simp] theorem State.modThread_power (tid : Nat) (f : Thread → Thread) : (s.modThread tid f).power = s.power := rfl
@[simp] theorem State.modThread_cycles (tid : Nat) (f : Thread → Thread) : (s.modThread tid f).cycles = s.cycles := rfl
@[simp] theorem State.modThread_sys (tid : Nat) (f : Thread → Thread) : (s.modThread tid f).sys = s.sys := rfl
@[simp] theorem State.modThread_lanes (tid : Nat) (f : Thread → Thread) : (s.modThread tid f).lanes = s.lanes := rfl
@[simp] theorem State.modThread_cores (tid : Nat) (f : Thread → Thread) : (s.modThread tid f).cores = s.cores := rfl
@[simp] theorem State.modThread_threads (tid : Nat) (f : Thread → Thread) : (s.modThread tid f).threads = tableMod tid f s.threads := rfl
@[simp] theorem State.modThread_fabric (tid : Nat) (f : Thread → Thread) : (s.modThread tid f).fabric = s.fabric := rfl
@[simp] theorem State.modThread_sched (tid : Nat) (f : Thread → Thread) : (s.modThread tid f).sched = s.sched := rfl
@[simp] theorem State.modThread_proctor (tid : Nat) (f : Thread → Thread) : (s.modThread tid f).proctor = s.proctor := rfl
@[simp] theorem State.modThread_host (tid : Nat) (f : Thread → Thread) : (s.modThread tid f).host = s.host := rfl

@[simp] theorem State.modGroup_actor (tid : Nat) (f : Group → Group) : (s.modGroup tid f).actor = s.actor := rfl
@[simp] theorem State.modGroup_agenda (tid : Nat) (f : Group → Group) : (s.modGroup tid f).agenda = s.agenda := rfl
@[simp] theorem State.modGroup_tick (tid : Nat) (f : Group → Group) : (s.modGroup tid f).tick = s.tick := rfl
@[simp] theorem State.modGroup_power (tid : Nat) (f : Group → Group) : (s.modGroup tid f).power = s.power := rfl
@[simp] theorem State.modGroup_cycles (tid : Nat) (f : Group → Group) : (s.modGroup tid f).cycles = s.cycles := rfl
@[simp] theorem State.modGroup_sys (tid : Nat) (f : Group → Group) : (s.modGroup tid f).sys = s.sys := rfl
@[simp] theorem State.modGroup_lanes (tid : Nat) (f : Group → Group) : (s.modGroup tid f).lanes = s.lanes := rfl
@[simp] theorem State.modGroup_cores (tid : Nat) (f : Group → Group) : (s.modGroup tid f).cores = s.cores := rfl
@[simp] theorem State.modGroup_fabric (tid : Nat) (f : Group → Group) : (s.modGroup tid f).fabric = s.fabric := rfl
@[simp] theorem State.modGroup_sched (tid : Nat) (f : Group → Group) : (s.modGroup tid f).sched = s.sched := rfl
@[simp] theorem State.modGroup_proctor (tid : Nat) (f : Group → Group) : (s.modGroup tid f).proctor = s.proctor := rfl
@[simp] theorem State.modGroup_host (tid : Nat) (f : Group → Group) : (s.modGroup tid f).host = s.host := rfl

@[simp] theorem State.putGroup_actor (tid : Nat) (g : Group) : (s.putGroup tid g).actor = s.actor := rfl
@[simp] theorem State.putGroup_agenda (tid : Nat) (g : Group) : (s.putGroup tid g).agenda = s.agenda := rfl
@[simp] theorem State.putGroup_tick (tid : Nat) (g : Group) : (s.putGroup tid g).tick = s.tick := rfl
@[simp] theorem State.putGroup_power (tid : Nat) (g : Group) : (s.putGroup tid g).power = s.power := rfl
@[simp] theorem State.putGroup_cycles (tid : Nat) (g : Group) : (s.putGroup tid g).cycles = s.cycles := rfl
@[simp] theorem State.putGroup_sys (tid : Nat) (g : Group) : (s.putGroup tid g).sys = s.sys := rfl
@[simp] theorem State.putGroup_lanes (tid : Nat) (g : Group) : (s.putGroup tid g).lanes = s.lanes := rfl
@[simp] theorem State.putGroup_cores (tid : Nat) (g : Group) : (s.putGroup tid g).cores = s.cores := rfl
@[simp] theorem State.putGroup_fabric (tid : Nat) (g : Group) : (s.putGroup tid g).fabric = s.fabric := rfl
@[simp] theorem State.putGroup_sched (tid : Nat) (g : Group) : (s.putGroup tid g).sched = s.sched := rfl
@[simp] theorem State.putGroup_proctor (tid : Nat) (g : Group) : (s.putGroup tid g).proctor = s.proctor := rfl
@[simp] theorem State.putGroup_host (tid : Nat) (g : Group) : (s.putGroup tid g).host = s.host := rfl

@[simp] theorem State.putCore_actor (c : Nat) (x : Core) : (s.putCore c x).actor = s.actor := rfl
@[simp] theorem State.putCore_agenda (c : Nat) (x : Core) : (s.putCore c x).agenda = s.agenda := rfl
@[simp] theorem State.putCore_tick (c : Nat) (x : Core) : (s.putCore c x).tick = s.tick := rfl
@[simp] theorem State.putCore_power (c : Nat) (x : Core) : (s.putCore c x).power = s.power := rfl
@[simp] theorem State.putCore_cycles (c : Nat) (x : Core) : (s.putCore c x).cycles = s.cycles := rfl
@[simp] theorem State.putCore_sys (c : Nat) (x : Core) : (s.putCore c x).sys = s.sys := rfl
@[simp] theorem State.putCore_lanes (c : Nat) (x : Core) : (s.putCore c x).lanes = s.lanes := rfl
@[simp] theorem State.putCore_threads (c : Nat) (x : Core) : (s.putCore c x).threads = s.threads := rfl
@[simp] theorem State.putCore_fabric (c : Nat) (x : Core) : (s.putCore c x).fabric = s.fabric := rfl
@[simp] theorem State.putCore_sched (c : Nat) (x : Core) : (s.putCore c x).sched = s.sched := rfl
@[simp] theorem State.putCore_proctor (c : Nat) (x : Core) : (s.putCore c x).proctor = s.proctor := rfl
@[simp] theorem State.putCore_host (c : Nat) (x : Core) : (s.putCore c x).host = s.host := rfl

@[simp] theorem State.modKernel_actor (lnum : Nat) (f : Kernel → Kernel) : (s.modKernel lnum f).actor = s.actor := rfl
@[simp] theorem State.modKernel_agenda (lnum : Nat) (f : Kernel → Kernel) : (s.modKernel lnum f).agenda = s.agenda := rfl
@[simp] theorem State.modKernel_tick (lnum : Nat) (f : Kernel → Kernel) : (s.modKernel lnum f).tick = s.tick := rfl
@[simp] theorem State.modKernel_power (lnum : Nat) (f : Kernel → Kernel) : (s.modKernel lnum f).power = s.power := rfl
@[simp] theorem State.modKernel_cycles (lnum : Nat) (f : Kernel → Kernel) : (s.modKernel lnum f).cycles = s.cycles := rfl
@[simp] theorem State.modKernel_sys (lnum : Nat) (f : Kernel → Kernel) : (s.modKernel lnum f).sys = s.sys := rfl
@[simp] theorem State.modKernel_lanes (lnum : Nat) (f : Kernel → Kernel) : (s.modKernel lnum f).lanes = s.lanes := rfl
@[simp] theorem State.modKernel_cores (lnum : Nat) (f : Kernel → Kernel) : (s.modKernel lnum f).cores = s.cores := rfl
@[simp] theorem State.modKernel_threads (lnum : Nat) (f : Kernel → Kernel) : (s.modKernel lnum f).threads = s.threads := rfl
@[simp] theorem State.modKernel_fabric (lnum : Nat) (f : Kernel → Kernel) : (s.modKernel lnum f).fabric = s.fabric := rfl
@[simp] theorem State.modKernel_proctor (lnum : Nat) (f : Kernel → Kernel) : (s.modKernel lnum f).proctor = s.proctor := rfl
@[simp] theorem State.modKernel_host (lnum : Nat) (f : Kernel → Kernel) : (s.modKernel lnum f).host = s.host := rfl

@[simp] theorem State.putHole_actor (n : Nat) (h : Hole) : (s.putHole n h).actor = s.actor := rfl
@[simp] theorem State.putHole_agenda (n : Nat) (h : Hole) : (s.putHole n h).agenda = s.agenda := rfl
@[simp] theorem State.putHole_tick (n : Nat) (h : Hole) : (s.putHole n h).tick = s.tick := rfl
@[simp] theorem State.putHole_power (n : Nat) (h : Hole) : (s.putHole n h).power = s.power := rfl
@[simp] theorem State.putHole_cycles (n : Nat) (h : Hole) : (s.putHole n h).cycles = s.cycles := rfl
@[simp] theorem State.putHole_sys (n : Nat) (h : Hole) : (s.putHole n h).sys = s.sys := rfl
@[simp] theorem State.putHole_lanes (n : Nat) (h : Hole) : (s.putHole n h).lanes = s.lanes := rfl
@[simp] theorem State.putHole_cores (n : Nat) (h : Hole) : (s.putHole n h).cores = s.cores := rfl
@[simp] theorem State.putHole_threads (n : Nat) (h : Hole) : (s.putHole n h).threads = s.threads := rfl
@[simp] theorem State.putHole_sched (n : Nat) (h : Hole) : (s.putHole n h).sched = s.sched := rfl
@[simp] theorem State.putHole_proctor (n : Nat) (h : Hole) : (s.putHole n h).proctor = s.proctor := rfl
@[simp] theorem State.putHole_host (n : Nat) (h : Hole) : (s.putHole n h).host = s.host := rfl

@[simp] theorem State.signal_actor (v : Nat) : (s.signal v).actor = s.actor := rfl
@[simp] theorem State.signal_agenda (v : Nat) : (s.signal v).agenda = s.agenda := rfl
@[simp] theorem State.signal_tick (v : Nat) : (s.signal v).tick = s.tick := rfl
@[simp] theorem State.signal_power (v : Nat) : (s.signal v).power = s.power := rfl
@[simp] theorem State.signal_cycles (v : Nat) : (s.signal v).cycles = s.cycles := rfl
@[simp] theorem State.signal_sys (v : Nat) : (s.signal v).sys = s.sys := rfl
@[simp] theorem State.signal_lanes (v : Nat) : (s.signal v).lanes = s.lanes := rfl
@[simp] theorem State.signal_cores (v : Nat) : (s.signal v).cores = s.cores := rfl
@[simp] theorem State.signal_threads (v : Nat) : (s.signal v).threads = s.threads := rfl
@[simp] theorem State.signal_fabric (v : Nat) : (s.signal v).fabric = s.fabric := rfl
@[simp] theorem State.signal_sched (v : Nat) : (s.signal v).sched = s.sched := rfl
@[simp] theorem State.signal_proctor (v : Nat) : (s.signal v).proctor = s.proctor := rfl

@[simp] theorem State.store_actor (pa : Nat) (bs : List Byte) (fill : Bool) : (s.store pa bs fill).actor = s.actor := rfl
@[simp] theorem State.store_agenda (pa : Nat) (bs : List Byte) (fill : Bool) : (s.store pa bs fill).agenda = s.agenda := rfl
@[simp] theorem State.store_tick (pa : Nat) (bs : List Byte) (fill : Bool) : (s.store pa bs fill).tick = s.tick := rfl
@[simp] theorem State.store_power (pa : Nat) (bs : List Byte) (fill : Bool) : (s.store pa bs fill).power = s.power := rfl
@[simp] theorem State.store_cycles (pa : Nat) (bs : List Byte) (fill : Bool) : (s.store pa bs fill).cycles = s.cycles := rfl
@[simp] theorem State.store_sys (pa : Nat) (bs : List Byte) (fill : Bool) : (s.store pa bs fill).sys = storeBytes s.sys (lineShare s.proctor) pa bs fill := rfl
@[simp] theorem State.store_lanes (pa : Nat) (bs : List Byte) (fill : Bool) : (s.store pa bs fill).lanes = s.lanes := rfl
@[simp] theorem State.store_cores (pa : Nat) (bs : List Byte) (fill : Bool) : (s.store pa bs fill).cores = s.cores := rfl
@[simp] theorem State.store_threads (pa : Nat) (bs : List Byte) (fill : Bool) : (s.store pa bs fill).threads = s.threads := rfl
@[simp] theorem State.store_fabric (pa : Nat) (bs : List Byte) (fill : Bool) : (s.store pa bs fill).fabric = s.fabric := rfl
@[simp] theorem State.store_sched (pa : Nat) (bs : List Byte) (fill : Bool) : (s.store pa bs fill).sched = s.sched := rfl
@[simp] theorem State.store_proctor (pa : Nat) (bs : List Byte) (fill : Bool) : (s.store pa bs fill).proctor = s.proctor := rfl
@[simp] theorem State.store_host (pa : Nat) (bs : List Byte) (fill : Bool) : (s.store pa bs fill).host = s.host := rfl

@[simp] theorem State.putPcore_actor (k : Nat) (c : ProctorCore) : (s.putPcore k c).actor = s.actor := by
  unfold State.putPcore; split <;> rfl
@[simp] theorem State.putPcore_agenda (k : Nat) (c : ProctorCore) : (s.putPcore k c).agenda = s.agenda := by
  unfold State.putPcore; split <;> rfl
@[simp] theorem State.putPcore_tick (k : Nat) (c : ProctorCore) : (s.putPcore k c).tick = s.tick := by
  unfold State.putPcore; split <;> rfl
@[simp] theorem State.putPcore_power (k : Nat) (c : ProctorCore) : (s.putPcore k c).power = s.power := by
  unfold State.putPcore; split <;> rfl
@[simp] theorem State.putPcore_cycles (k : Nat) (c : ProctorCore) : (s.putPcore k c).cycles = s.cycles := by
  unfold State.putPcore; split <;> rfl
@[simp] theorem State.putPcore_sys (k : Nat) (c : ProctorCore) : (s.putPcore k c).sys = s.sys := by
  unfold State.putPcore; split <;> rfl
@[simp] theorem State.putPcore_lanes (k : Nat) (c : ProctorCore) : (s.putPcore k c).lanes = s.lanes := by
  unfold State.putPcore; split <;> rfl
@[simp] theorem State.putPcore_cores (k : Nat) (c : ProctorCore) : (s.putPcore k c).cores = s.cores := by
  unfold State.putPcore; split <;> rfl
@[simp] theorem State.putPcore_threads (k : Nat) (c : ProctorCore) : (s.putPcore k c).threads = s.threads := by
  unfold State.putPcore; split <;> rfl
@[simp] theorem State.putPcore_fabric (k : Nat) (c : ProctorCore) : (s.putPcore k c).fabric = s.fabric := by
  unfold State.putPcore; split <;> rfl
@[simp] theorem State.putPcore_sched (k : Nat) (c : ProctorCore) : (s.putPcore k c).sched = s.sched := by
  unfold State.putPcore; split <;> rfl
@[simp] theorem State.putPcore_host (k : Nat) (c : ProctorCore) : (s.putPcore k c).host = s.host := by
  unfold State.putPcore; split <;> rfl

@[simp] theorem State.setCtx_actor (c : ScalarCtx) : (s.setCtx c).actor = s.actor := by
  unfold State.setCtx; split <;> first | rfl | (split <;> first | rfl | simp)
@[simp] theorem State.setCtx_agenda (c : ScalarCtx) : (s.setCtx c).agenda = s.agenda := by
  unfold State.setCtx; split <;> first | rfl | (split <;> first | rfl | simp)
@[simp] theorem State.setCtx_tick (c : ScalarCtx) : (s.setCtx c).tick = s.tick := by
  unfold State.setCtx; split <;> first | rfl | (split <;> first | rfl | simp)
@[simp] theorem State.setCtx_power (c : ScalarCtx) : (s.setCtx c).power = s.power := by
  unfold State.setCtx; split <;> first | rfl | (split <;> first | rfl | simp)
@[simp] theorem State.setCtx_cycles (c : ScalarCtx) : (s.setCtx c).cycles = s.cycles := by
  unfold State.setCtx; split <;> first | rfl | (split <;> first | rfl | simp)
@[simp] theorem State.setCtx_sys (c : ScalarCtx) : (s.setCtx c).sys = s.sys := by
  unfold State.setCtx; split <;> first | rfl | (split <;> first | rfl | simp)
@[simp] theorem State.setCtx_lanes (c : ScalarCtx) : (s.setCtx c).lanes = s.lanes := by
  unfold State.setCtx; split <;> first | rfl | (split <;> first | rfl | simp)
@[simp] theorem State.setCtx_cores (c : ScalarCtx) : (s.setCtx c).cores = s.cores := by
  unfold State.setCtx; split <;> first | rfl | (split <;> first | rfl | simp)
@[simp] theorem State.setCtx_fabric (c : ScalarCtx) : (s.setCtx c).fabric = s.fabric := by
  unfold State.setCtx; split <;> first | rfl | (split <;> first | rfl | simp)
@[simp] theorem State.setCtx_sched (c : ScalarCtx) : (s.setCtx c).sched = s.sched := by
  unfold State.setCtx; split <;> first | rfl | (split <;> first | rfl | simp)
@[simp] theorem State.setCtx_host (c : ScalarCtx) : (s.setCtx c).host = s.host := by
  unfold State.setCtx; split <;> first | rfl | (split <;> first | rfl | simp)

@[simp] theorem State.setWaiting_actor (i : Option Instr) : (s.setWaiting i).actor = s.actor := by
  unfold State.setWaiting; split <;> first | rfl | (split <;> first | rfl | simp)
@[simp] theorem State.setWaiting_agenda (i : Option Instr) : (s.setWaiting i).agenda = s.agenda := by
  unfold State.setWaiting; split <;> first | rfl | (split <;> first | rfl | simp)
@[simp] theorem State.setWaiting_tick (i : Option Instr) : (s.setWaiting i).tick = s.tick := by
  unfold State.setWaiting; split <;> first | rfl | (split <;> first | rfl | simp)
@[simp] theorem State.setWaiting_power (i : Option Instr) : (s.setWaiting i).power = s.power := by
  unfold State.setWaiting; split <;> first | rfl | (split <;> first | rfl | simp)
@[simp] theorem State.setWaiting_cycles (i : Option Instr) : (s.setWaiting i).cycles = s.cycles := by
  unfold State.setWaiting; split <;> first | rfl | (split <;> first | rfl | simp)
@[simp] theorem State.setWaiting_sys (i : Option Instr) : (s.setWaiting i).sys = s.sys := by
  unfold State.setWaiting; split <;> first | rfl | (split <;> first | rfl | simp)
@[simp] theorem State.setWaiting_lanes (i : Option Instr) : (s.setWaiting i).lanes = s.lanes := by
  unfold State.setWaiting; split <;> first | rfl | (split <;> first | rfl | simp)
@[simp] theorem State.setWaiting_cores (i : Option Instr) : (s.setWaiting i).cores = s.cores := by
  unfold State.setWaiting; split <;> first | rfl | (split <;> first | rfl | simp)
@[simp] theorem State.setWaiting_fabric (i : Option Instr) : (s.setWaiting i).fabric = s.fabric := by
  unfold State.setWaiting; split <;> first | rfl | (split <;> first | rfl | simp)
@[simp] theorem State.setWaiting_sched (i : Option Instr) : (s.setWaiting i).sched = s.sched := by
  unfold State.setWaiting; split <;> first | rfl | (split <;> first | rfl | simp)
@[simp] theorem State.setWaiting_host (i : Option Instr) : (s.setWaiting i).host = s.host := by
  unfold State.setWaiting; split <;> first | rfl | (split <;> first | rfl | simp)

@[simp] theorem State.logRecord_actor (typ : Nat) (inj : Bool) (paddr unit die clu core : Nat) (tag : Word) :
    (s.logRecord typ inj paddr unit die clu core tag).actor = s.actor := rfl
@[simp] theorem State.logRecord_agenda (typ : Nat) (inj : Bool) (paddr unit die clu core : Nat) (tag : Word) :
    (s.logRecord typ inj paddr unit die clu core tag).agenda = s.agenda := rfl
@[simp] theorem State.logRecord_tick (typ : Nat) (inj : Bool) (paddr unit die clu core : Nat) (tag : Word) :
    (s.logRecord typ inj paddr unit die clu core tag).tick = s.tick := rfl
@[simp] theorem State.logRecord_power (typ : Nat) (inj : Bool) (paddr unit die clu core : Nat) (tag : Word) :
    (s.logRecord typ inj paddr unit die clu core tag).power = s.power := rfl
@[simp] theorem State.logRecord_cycles (typ : Nat) (inj : Bool) (paddr unit die clu core : Nat) (tag : Word) :
    (s.logRecord typ inj paddr unit die clu core tag).cycles = s.cycles := rfl
@[simp] theorem State.logRecord_sys (typ : Nat) (inj : Bool) (paddr unit die clu core : Nat) (tag : Word) :
    (s.logRecord typ inj paddr unit die clu core tag).sys = s.sys := rfl
@[simp] theorem State.logRecord_lanes (typ : Nat) (inj : Bool) (paddr unit die clu core : Nat) (tag : Word) :
    (s.logRecord typ inj paddr unit die clu core tag).lanes = s.lanes := rfl
@[simp] theorem State.logRecord_cores (typ : Nat) (inj : Bool) (paddr unit die clu core : Nat) (tag : Word) :
    (s.logRecord typ inj paddr unit die clu core tag).cores = s.cores := rfl
@[simp] theorem State.logRecord_threads (typ : Nat) (inj : Bool) (paddr unit die clu core : Nat) (tag : Word) :
    (s.logRecord typ inj paddr unit die clu core tag).threads = s.threads := rfl
@[simp] theorem State.logRecord_fabric (typ : Nat) (inj : Bool) (paddr unit die clu core : Nat) (tag : Word) :
    (s.logRecord typ inj paddr unit die clu core tag).fabric = s.fabric := rfl
@[simp] theorem State.logRecord_sched (typ : Nat) (inj : Bool) (paddr unit die clu core : Nat) (tag : Word) :
    (s.logRecord typ inj paddr unit die clu core tag).sched = s.sched := rfl
@[simp] theorem State.logRecord_host (typ : Nat) (inj : Bool) (paddr unit die clu core : Nat) (tag : Word) :
    (s.logRecord typ inj paddr unit die clu core tag).host = s.host := rfl

@[simp] theorem State.machineCheck_actor (kind : Nat) (ends shd : Bool) (tid : Option Nat) (pc vcp ssn : Word) (lnum : Nat) (d : List Word) (inj : Bool) :
    (s.machineCheck kind ends shd tid pc vcp ssn lnum d inj).actor = s.actor := rfl
@[simp] theorem State.machineCheck_agenda (kind : Nat) (ends shd : Bool) (tid : Option Nat) (pc vcp ssn : Word) (lnum : Nat) (d : List Word) (inj : Bool) :
    (s.machineCheck kind ends shd tid pc vcp ssn lnum d inj).agenda = s.agenda := rfl
@[simp] theorem State.machineCheck_tick (kind : Nat) (ends shd : Bool) (tid : Option Nat) (pc vcp ssn : Word) (lnum : Nat) (d : List Word) (inj : Bool) :
    (s.machineCheck kind ends shd tid pc vcp ssn lnum d inj).tick = s.tick := rfl
@[simp] theorem State.machineCheck_power (kind : Nat) (ends shd : Bool) (tid : Option Nat) (pc vcp ssn : Word) (lnum : Nat) (d : List Word) (inj : Bool) :
    (s.machineCheck kind ends shd tid pc vcp ssn lnum d inj).power = s.power := rfl
@[simp] theorem State.machineCheck_cycles (kind : Nat) (ends shd : Bool) (tid : Option Nat) (pc vcp ssn : Word) (lnum : Nat) (d : List Word) (inj : Bool) :
    (s.machineCheck kind ends shd tid pc vcp ssn lnum d inj).cycles = s.cycles := rfl
@[simp] theorem State.machineCheck_sys (kind : Nat) (ends shd : Bool) (tid : Option Nat) (pc vcp ssn : Word) (lnum : Nat) (d : List Word) (inj : Bool) :
    (s.machineCheck kind ends shd tid pc vcp ssn lnum d inj).sys = s.sys := rfl
@[simp] theorem State.machineCheck_lanes (kind : Nat) (ends shd : Bool) (tid : Option Nat) (pc vcp ssn : Word) (lnum : Nat) (d : List Word) (inj : Bool) :
    (s.machineCheck kind ends shd tid pc vcp ssn lnum d inj).lanes = s.lanes := rfl
@[simp] theorem State.machineCheck_cores (kind : Nat) (ends shd : Bool) (tid : Option Nat) (pc vcp ssn : Word) (lnum : Nat) (d : List Word) (inj : Bool) :
    (s.machineCheck kind ends shd tid pc vcp ssn lnum d inj).cores = s.cores := rfl
@[simp] theorem State.machineCheck_threads (kind : Nat) (ends shd : Bool) (tid : Option Nat) (pc vcp ssn : Word) (lnum : Nat) (d : List Word) (inj : Bool) :
    (s.machineCheck kind ends shd tid pc vcp ssn lnum d inj).threads = s.threads := rfl
@[simp] theorem State.machineCheck_fabric (kind : Nat) (ends shd : Bool) (tid : Option Nat) (pc vcp ssn : Word) (lnum : Nat) (d : List Word) (inj : Bool) :
    (s.machineCheck kind ends shd tid pc vcp ssn lnum d inj).fabric = s.fabric := rfl
@[simp] theorem State.machineCheck_sched (kind : Nat) (ends shd : Bool) (tid : Option Nat) (pc vcp ssn : Word) (lnum : Nat) (d : List Word) (inj : Bool) :
    (s.machineCheck kind ends shd tid pc vcp ssn lnum d inj).sched = s.sched := rfl

/-! Threads, groups and Proctor cores after an update. -/

theorem State.thread_modThread (tid j : Nat) (f : Thread → Thread) :
    (s.modThread tid f).thread j = if j = tid then (s.thread j).map f else s.thread j :=
  tableGet_tableMod tid j f s.threads

theorem State.thread_putThread (tid j : Nat) (t : Thread) :
    (s.putThread tid t).thread j = if j = tid then some t else s.thread j :=
  tableGet_tablePut tid j t s.threads

theorem State.thread_modGroup (tid j : Nat) (f : Group → Group) :
    (s.modGroup tid f).thread j =
      if j = tid then (s.thread j).map (fun t => { t with group := t.group.map f }) else s.thread j :=
  s.thread_modThread tid j _

@[simp] theorem State.thread_putPcore (k j : Nat) (p : ProctorCore) : (s.putPcore k p).thread j = s.thread j := by
  simp [State.thread]

@[simp] theorem State.pcore_modThread (tid k : Nat) (f : Thread → Thread) : (s.modThread tid f).pcore k = s.pcore k := rfl

@[simp] theorem State.pcore_modGroup (tid k : Nat) (f : Group → Group) : (s.modGroup tid f).pcore k = s.pcore k := rfl

theorem State.pcore_putPcore (k j : Nat) (p : ProctorCore) :
    (s.putPcore k p).pcore j = if j = k then (s.pcore j).map (fun _ => p) else s.pcore j := by
  unfold State.putPcore State.pcore
  by_cases hj : j < 16
  · by_cases hk : k < 16
    · by_cases h : j = k
      · subst h; simp [hj]
      · simp [hj, hk, h, Ne.symm h]
    · have : j ≠ k := by omega
      simp [hj, hk, this]
  · simp [hj]

@[simp] theorem State.store_thread (pa : Nat) (bs : List Byte) (fill : Bool) (tid : Nat) :
    (s.store pa bs fill).thread tid = s.thread tid := rfl

@[simp] theorem State.store_pcore (pa : Nat) (bs : List Byte) (fill : Bool) (k : Nat) :
    (s.store pa bs fill).pcore k = s.pcore k := rfl

end Sys2Proof.Machine
end

