-- ==== Sys2Proof/Laws/Memory.lean ====
section
/-! SUPPORT. Laws of memory: reading after writing, and that every operation that changes memory or granule states keeps their canonical form. -/

namespace Sys2Proof.Machine

open Sys2Proof.Safety

/-- Writing bytes keeps memory's canonical form. -/
theorem writeBytes_wf {m : Memory} (h : Memory.wf m = true) (a : Nat) (bs : List Byte) :
    Memory.wf (writeBytes m a bs) = true := by
  induction bs generalizing m a with
  | nil => exact h
  | cons b bs ih => exact ih (cellsWf_cellSet h) (a + 1)

/-- A byte read after bytes were written. -/
theorem readByte_writeBytes {m : Memory} (h : Memory.wf m = true) (a : Nat) (bs : List Byte) (x : Nat) :
    readByte (writeBytes m a bs) x =
      if hx : a ≤ x ∧ x < a + bs.length then bs[x - a]'(by omega) else readByte m x := by
  induction bs generalizing m a with
  | nil =>
    have : ¬ (a ≤ x ∧ x < a + ([] : List Byte).length) := by simp
    rw [dif_neg this]; rfl
  | cons b bs ih =>
    rw [writeBytes, ih (cellsWf_cellSet h), readByte, cellGet_cellSet h]
    by_cases h1 : a + 1 ≤ x ∧ x < a + 1 + bs.length
    · have h2 : a ≤ x ∧ x < a + (b :: bs).length := by simp; omega
      rw [dif_pos h1, dif_pos h2]
      have : x - a = (x - (a + 1)) + 1 := by omega
      simp [this]
    · rw [dif_neg h1]
      by_cases h3 : x = a
      · subst h3
        have h2 : x ≤ x ∧ x < x + (b :: bs).length := by simp
        rw [dif_pos h2]; simp
      · have h2 : ¬ (a ≤ x ∧ x < a + (b :: bs).length) := by simp; omega
        rw [dif_neg h2, if_neg h3]; rfl

/-- Installing, evicting and sharing lines leave every byte as it was (07 R118). -/
@[simp] theorem evictTag_mem (sys : MemSys) (line : Nat) : (evictTag sys line).mem = sys.mem := by
  unfold evictTag; split <;> rfl

@[simp] theorem evictTag_granules (sys : MemSys) (line : Nat) : (evictTag sys line).granules = sys.granules := by
  unfold evictTag; split <;> rfl

theorem foldl_evictTag (lines : List Nat) (sys : MemSys) :
    (lines.foldl evictTag sys).mem = sys.mem ∧ (lines.foldl evictTag sys).granules = sys.granules := by
  induction lines generalizing sys with
  | nil => exact ⟨rfl, rfl⟩
  | cons l lines ih => simpa using ih (evictTag sys l)

@[simp] theorem evictEntry_mem (sys : MemSys) (k e : Nat) : (evictEntry sys k e).mem = sys.mem := by
  unfold evictEntry; split
  · rfl
  · exact (foldl_evictTag _ _).1

@[simp] theorem evictEntry_granules (sys : MemSys) (k e : Nat) : (evictEntry sys k e).granules = sys.granules := by
  unfold evictEntry; split
  · rfl
  · exact (foldl_evictTag _ _).2

@[simp] theorem makeRoom_mem (sys : MemSys) (line : Nat) : (makeRoom sys line).mem = sys.mem := by
  unfold makeRoom
  simp only
  repeat' split
  all_goals simp

@[simp] theorem makeRoom_granules (sys : MemSys) (line : Nat) : (makeRoom sys line).granules = sys.granules := by
  unfold makeRoom
  simp only
  repeat' split
  all_goals simp

@[simp] theorem cacheInstall_mem (sys : MemSys) (share : LineShare) (line : Nat) (dirty poison : Bool) :
    (cacheInstall sys share line dirty poison).mem = sys.mem := by
  simp [cacheInstall]

@[simp] theorem cacheInstall_granules (sys : MemSys) (share : LineShare) (line : Nat) (dirty poison : Bool) :
    (cacheInstall sys share line dirty poison).granules = sys.granules := by
  simp [cacheInstall]

@[simp] theorem cacheWrite_mem (sys : MemSys) (share : LineShare) (line : Nat) (whole : Bool) :
    (cacheWrite sys share line whole).mem = sys.mem := by
  unfold cacheWrite
  simp only
  repeat' split
  all_goals simp

@[simp] theorem cacheWrite_granules (sys : MemSys) (share : LineShare) (line : Nat) (whole : Bool) :
    (cacheWrite sys share line whole).granules = sys.granules := by
  unfold cacheWrite
  simp only
  repeat' split
  all_goals simp

@[simp] theorem poisonLine_mem (sys : MemSys) (line : Nat) : (poisonLine sys line).mem = sys.mem := by
  unfold poisonLine
  split
  · rfl
  · simp only
    split <;> simp

@[simp] theorem poisonLine_granules (sys : MemSys) (line : Nat) : (poisonLine sys line).granules = sys.granules := by
  unfold poisonLine
  split
  · rfl
  · simp only
    split <;> simp

theorem foldl_cacheWrite (share : Nat → LineShare) (whole : Nat → Bool) (us : List Nat) (sys : MemSys) :
    (us.foldl (fun sys u => cacheWrite sys (share (u * 128)) u (whole u)) sys).mem = sys.mem
      ∧ (us.foldl (fun sys u => cacheWrite sys (share (u * 128)) u (whole u)) sys).granules = sys.granules := by
  induction us generalizing sys with
  | nil => exact ⟨rfl, rfl⟩
  | cons u us ih => simpa using ih (cacheWrite sys (share (u * 128)) u (whole u))

/-- A store's bytes (07 R107). -/
@[simp] theorem storeBytes_mem (sys : MemSys) (share : Nat → LineShare) (pa : Nat) (bs : List Byte) (fill : Bool) :
    (storeBytes sys share pa bs fill).mem = writeBytes sys.mem pa bs := by
  unfold storeBytes
  simp only
  split
  · rfl
  · exact (foldl_cacheWrite _ _ _ _).1
  · rfl

/-- Granule states set one after another keep the canonical form. -/
theorem foldl_granules_wf {us : List Nat} {g : Sparse 2} (f : Nat → BitVec 2 → BitVec 2) (h : cellsWf g = true) :
    cellsWf (us.foldl (fun g u => cellSet g u (f u (cellGet g u))) g) = true := by
  induction us generalizing g with
  | nil => exact h
  | cons u us ih => exact ih (cellsWf_cellSet h)

/-- A granule's state after others, and itself, were set one after another. -/
theorem cellGet_foldl_granules {us : List Nat} (hn : us.Nodup) {g : Sparse 2} (f : Nat → BitVec 2 → BitVec 2)
    (h : cellsWf g = true) (x : Nat) :
    cellGet (us.foldl (fun g u => cellSet g u (f u (cellGet g u))) g) x =
      if x ∈ us then f x (cellGet g x) else cellGet g x := by
  induction us generalizing g with
  | nil => simp
  | cons u us ih =>
    rw [List.nodup_cons] at hn
    rw [List.foldl_cons, ih hn.2 (cellsWf_cellSet h), cellGet_cellSet h]
    by_cases hx : x = u
    · subst hx; simp [hn.1]
    · simp [hx]

/-- The units that n bytes from an address touch. -/
theorem mem_unitsOf {size a n u : Nat} (hs : 0 < size) (hn : 0 < n) :
    u ∈ unitsOf size a n ↔ a / size ≤ u ∧ u * size < a + n := by
  have h0 : n ≠ 0 := by omega
  have hle : a / size ≤ (a + n - 1) / size := Nat.div_le_div_right (by omega)
  have key : u * size < a + n ↔ u ≤ (a + n - 1) / size := by
    rw [Nat.le_div_iff_mul_le hs]; omega
  unfold unitsOf
  rw [if_neg h0, key]
  simp only [List.mem_map, List.mem_range]
  constructor
  · rintro ⟨i, hi, rfl⟩; omega
  · rintro ⟨h1, h2⟩; exact ⟨u - a / size, by omega, by omega⟩

theorem unitsOf_nodup (size a n : Nat) : (unitsOf size a n).Nodup := by
  unfold unitsOf
  split
  · exact List.nodup_nil
  · rw [List.nodup_iff_pairwise_ne, List.pairwise_map]
    exact List.Pairwise.imp (fun h => by omega) List.pairwise_lt_range

theorem storeBytes_granules (sys : MemSys) (share : Nat → LineShare) (pa : Nat) (bs : List Byte) (fill : Bool) :
    (storeBytes sys share pa bs fill).granules =
      match physKind pa with
      | .scratch _ _ => (unitsOf 16 pa bs.length).foldl
          (fun g u => cellSet g u (granuleAfter fill (unitWhole 16 pa bs.length u) (cellGet g u))) sys.granules
      | _ => sys.granules := by
  unfold storeBytes
  cases physKind pa
  case scratch => rfl
  case hbm => exact (foldl_cacheWrite _ _ _ _).2
  all_goals rfl

/-- A store keeps memory's canonical form, and that of the granule states. -/
theorem storeBytes_wf {sys : MemSys} (h : Memory.wf sys.mem = true) (share : Nat → LineShare) (pa : Nat) (bs : List Byte)
    (fill : Bool) : Memory.wf (storeBytes sys share pa bs fill).mem = true := by
  rw [storeBytes_mem]; exact writeBytes_wf h pa bs

theorem storeBytes_granules_wf {sys : MemSys} (h : cellsWf sys.granules = true) (share : Nat → LineShare) (pa : Nat)
    (bs : List Byte) (fill : Bool) : cellsWf (storeBytes sys share pa bs fill).granules = true := by
  rw [storeBytes_granules]
  split
  · exact foldl_granules_wf (fun u g => granuleAfter fill (unitWhole 16 pa bs.length u) g) h
  · exact h

@[simp] theorem clearGranules_mem (sys : MemSys) (pa n : Nat) : (clearGranules sys pa n).mem = sys.mem := rfl

theorem clearGranules_wf {sys : MemSys} (h : cellsWf sys.granules = true) (pa n : Nat) :
    cellsWf (clearGranules sys pa n).granules = true :=
  foldl_granules_wf (fun _ _ => gEmpty) h

@[simp] theorem poisonUnit_mem (sys : MemSys) (pa : Nat) : (poisonUnit sys pa).mem = sys.mem := by
  unfold poisonUnit; split <;> simp

theorem poisonUnit_granules_wf {sys : MemSys} (h : cellsWf sys.granules = true) (pa : Nat) :
    cellsWf (poisonUnit sys pa).granules = true := by
  unfold poisonUnit
  split
  · exact cellsWf_cellSet (k := pa / 16) (v := gPoison) h
  · simpa using h
  · exact h

/-- The state-level store keeps memory's canonical form. -/
theorem State.store_wf {s : State} (h : Memory.wf s.sys.mem = true) (pa : Nat) (bs : List Byte) (fill : Bool) :
    Memory.wf (s.store pa bs fill).sys.mem = true := storeBytes_wf h _ pa bs fill

/-- Reset memory is canonical. -/
theorem reset_memory_wf : Memory.wf State.reset.sys.mem = true := rfl

/-- The table of 07 R111 in the model's words. -/
theorem granuleAfter_eq_rule (fill whole : Bool) (g : BitVec 2) : granuleAfter fill whole g = granuleRule fill whole g := by
  cases fill <;> cases whole <;> revert g <;> decide

/-- What a store does to bytes and granules. -/
theorem storedAt_store {s : State} (hm : Memory.wf s.sys.mem = true) (hg : cellsWf s.sys.granules = true) (pa : Nat)
    (bs : List Byte) (hb : 0 < bs.length) (fill : Bool) : StoredAt s (s.store pa bs fill) pa bs fill where
  bytes k hk := by
    have : pa ≤ pa + k ∧ pa + k < pa + bs.length := by omega
    rw [byteOf, State.store_sys, storeBytes_mem, readByte_writeBytes hm, dif_pos this]
    simp
  others a ha := by
    have : ¬ (pa ≤ a ∧ a < pa + bs.length) := by omega
    rw [byteOf, State.store_sys, storeBytes_mem, readByte_writeBytes hm, dif_neg this]
    rfl
  granules u := by
    rw [State.store_sys, storeBytes_granules]
    cases physKind pa
    case scratch =>
      simp only
      rw [cellGet_foldl_granules (unitsOf_nodup _ _ _)
        (fun u g => granuleAfter fill (unitWhole 16 pa bs.length u) g) hg]
      by_cases hu : pa / 16 ≤ u ∧ u * 16 < pa + bs.length
      · rw [if_pos ((mem_unitsOf (by omega) hb).mpr hu), if_pos hu, granuleAfter_eq_rule]
        congr 1
        simp [unitWhole, Nat.add_mul]
      · rw [if_neg (fun h => hu ((mem_unitsOf (by omega) hb).mp h)), if_neg hu]
    all_goals rfl
  sys := rfl

end Sys2Proof.Machine
end

