-- ==== Sys2Proof/Laws/Registers.lean ====
section
/-! SUPPORT. Registers of the acting scalar agent: reading after writing, and what replacing them leaves as it was. -/

namespace Sys2Proof.Machine

open Sys2Proof.Safety

/-- g0 reads zero (00 R8). -/
@[simp] theorem ScalarCtx.rd_zero (c : ScalarCtx) : c.rd 0#5 = 0 := rfl

/-- A write to g0 is discarded (00 R8). -/
@[simp] theorem ScalarCtx.wr_zero (c : ScalarCtx) (v : Word) : c.wr 0#5 v = c := rfl

/-- A register read after one was written. -/
theorem ScalarCtx.rd_wr (c : ScalarCtx) (k r : BitVec 5) (v : Word) :
    (c.wr k v).rd r = if r = k ∧ r ≠ 0 then v else c.rd r := by
  by_cases hr : r = 0#5
  · subst hr; exact (if_neg (fun h => h.2 rfl)).symm
  · by_cases hk : k = 0#5
    · subst hk; simp [hr]
    · by_cases h : r = k
      · subst h; simp [ScalarCtx.rd, ScalarCtx.wr, hr]
      · have : k.toNat ≠ r.toNat := fun e => h (BitVec.eq_of_toNat_eq e.symm)
        simp [ScalarCtx.rd, ScalarCtx.wr, hr, hk, h, this]

@[simp] theorem ScalarCtx.wr_pc (c : ScalarCtx) (k : BitVec 5) (v : Word) : (c.wr k v).pc = c.pc := by
  unfold ScalarCtx.wr; split <;> rfl
@[simp] theorem ScalarCtx.wr_fflags (c : ScalarCtx) (k : BitVec 5) (v : Word) : (c.wr k v).fflags = c.fflags := by
  unfold ScalarCtx.wr; split <;> rfl
@[simp] theorem ScalarCtx.wr_fmode (c : ScalarCtx) (k : BitVec 5) (v : Word) : (c.wr k v).fmode = c.fmode := by
  unfold ScalarCtx.wr; split <;> rfl
@[simp] theorem ScalarCtx.wr_seed (c : ScalarCtx) (k : BitVec 5) (v : Word) : (c.wr k v).seed = c.seed := by
  unfold ScalarCtx.wr; split <;> rfl

@[simp] theorem ScalarCtx.step_rd (c : ScalarCtx) (r : BitVec 5) : c.step.rd r = c.rd r := rfl
@[simp] theorem ScalarCtx.step_pc (c : ScalarCtx) : c.step.pc = c.pc + 4 := rfl
@[simp] theorem ScalarCtx.step_fflags (c : ScalarCtx) : c.step.fflags = c.fflags := rfl
@[simp] theorem ScalarCtx.step_fmode (c : ScalarCtx) : c.step.fmode = c.fmode := rfl
@[simp] theorem ScalarCtx.step_seed (c : ScalarCtx) : c.step.seed = c.seed := rfl

theorem State.thread_setCtx (s : State) (c : ScalarCtx) (tid : Nat) :
    (s.setCtx c).thread tid =
      if s.actor = .thread tid then (s.thread tid).map (fun x => { x with ctx := c }) else s.thread tid := by
  unfold State.setCtx
  split
  · next j h =>
    rw [State.thread_modThread]
    by_cases e : tid = j
    · subst e; simp [h]
    · have : ¬ Actor.thread j = Actor.thread tid := by simpa using Ne.symm e
      simp [e, h, this]
  · next k h =>
    split <;> simp [h]
  · next h1 h2 =>
    have : ¬ s.actor = .thread tid := fun h => h1 tid h
    simp [this]

theorem State.pcore_setCtx (s : State) (c : ScalarCtx) (k : Nat) :
    (s.setCtx c).pcore k =
      if s.actor = .proctor k then (s.pcore k).map (fun p => { p with ctx := c }) else s.pcore k := by
  unfold State.setCtx
  split
  · next j h => simp [h]
  · next j h =>
    split
    · next p hp =>
      rw [State.pcore_putPcore]
      by_cases e : k = j
      · subst e; simp [h, hp]
      · have : ¬ Actor.proctor j = Actor.proctor k := by simpa using Ne.symm e
        simp [e, h, this]
    · next hp =>
      by_cases e : k = j
      · subst e; simp [h, hp]
      · have : ¬ Actor.proctor j = Actor.proctor k := by simpa using Ne.symm e
        simp [h, this]
  · next h1 h2 =>
    have : ¬ s.actor = .proctor k := fun h => h2 k h
    simp [this]

/-- The Proctor's cores replaced as they were give the Proctor back. -/
theorem State.proctor_putPcore (s : State) (k : Nat) (p : ProctorCore) :
    { (s.putPcore k p).proctor with cores := s.proctor.cores } = s.proctor := by
  unfold State.putPcore; split <;> rfl

theorem State.proctor_setCtx (s : State) (c : ScalarCtx) :
    { (s.setCtx c).proctor with cores := s.proctor.cores } = s.proctor := by
  unfold State.setCtx
  split
  · rfl
  · split
    · exact s.proctor_putPcore _ _
    · rfl
  · rfl

/-- Replacing the acting agent's registers changes nothing else. -/
theorem onlyRegisters_setCtx (s : State) (c : ScalarCtx) : OnlyRegisters s (s.setCtx c) c where
  rest := by constructor <;> simp
  sys := by simp
  agent := ⟨s.thread_setCtx c, s.pcore_setCtx c, s.proctor_setCtx c⟩

/-- What an instruction that only changes registers does (11 R165). -/
theorem runRegs_next {s : State} {c : ScalarCtx} (h : s.ctx = some c) (f : ScalarCtx → ScalarCtx) :
    runRegs s f = .next (s.setCtx (f c)) := by
  simp [runRegs, h]

/-- A write of rd with the program counter's advance is a result in rd alone. -/
theorem wroteOne_wr (c : ScalarCtx) (rd : BitVec 5) (v : Word) : WroteOne c (c.wr rd v).step rd v 0 where
  reg r := by simp [ScalarCtx.rd_wr]
  pc := by simp
  fflags := by simp
  fmode := by simp
  seed := by simp

/-- One result in rd completes as 11 R165 says. -/
theorem intoReg_completes {s : State} {c : ScalarCtx} (h : s.ctx = some c) (rd : BitVec 5) (f : ScalarCtx → Word) :
    ∃ t c', intoReg s rd f = .next t ∧ WroteOne c c' rd (f c) 0 ∧ OnlyRegisters s t c' :=
  ⟨_, _, runRegs_next h _, wroteOne_wr c rd (f c), onlyRegisters_setCtx s _⟩

/-- A floating result in rd with its flags completes as 11 R176 says. -/
theorem intoFloat_completes {s : State} {c : ScalarCtx} (h : s.ctx = some c) (rd : BitVec 5) (ty : BitVec 4)
    (f : FType → ScalarCtx → Nat × Flags) :
    ∃ t c', intoFloat s rd ty f = .next t
      ∧ WroteOne c c' rd (w64 (f ((scalarFType ty.toNat).getD .f32) c).1) (f ((scalarFType ty.toNat).getD .f32) c).2
      ∧ OnlyRegisters s t c' := by
  refine ⟨_, _, runRegs_next h _, ?_, onlyRegisters_setCtx s _⟩
  constructor
  · intro r
    exact ScalarCtx.rd_wr c rd r _
  all_goals simp

/-- A jump (11 R165, 19 R310): the registers, PC at the target, and the end of a loader where it goes there. -/
theorem jumpTo_onlyActor (s : State) (c : ScalarCtx) (target : Word) :
    SameSurroundings s (jumpTo s c target) ∧ (jumpTo s c target).sys = s.sys
      ∧ OnlyActor s (jumpTo s c target) (fun x => leavesLoader target { x with ctx := { c with pc := target } })
          (fun p => { p with ctx := { c with pc := target } }) := by
  have base := onlyRegisters_setCtx s { c with pc := target }
  by_cases ht : target = 0x00FFFFFFFEFF0000#64
  · by_cases he : endsLoader s target = true
    · unfold jumpTo
      simp only [he, if_true]
      unfold endsLoader at he
      split at he
      · next tid ha =>
        rw [Bool.and_eq_true] at he
        refine ⟨by constructor <;> simp, by simp, ⟨?_, ?_, ?_⟩⟩
        · intro j
          rw [State.thread_modThread, base.agent.threads j, ha]
          by_cases e : j = tid
          · subst e; simp only [if_true, Option.map_map]; congr 1; funext x; simp [leavesLoader, ht]
          · have : ¬ Actor.thread tid = Actor.thread j := by simpa using Ne.symm e
            simp [e, this]
        · intro k
          rw [State.pcore_modThread, base.agent.cores k, ha]
        · simpa using base.agent.proctor
      · exact absurd he (by simp)
    · have hj : jumpTo s c target = s.setCtx { c with pc := target } := by simp [jumpTo, he]
      rw [hj]
      refine ⟨base.rest, base.sys, ⟨?_, base.agent.cores, base.agent.proctor⟩⟩
      intro j
      rw [base.agent.threads j]
      split
      · next ha =>
        have hl : ((s.thread j).bind Thread.loader).isSome = false := by
          simpa [endsLoader, ha, ht, loaderReturn] using he
        cases hs : s.thread j with
        | none => rfl
        | some x =>
          have : x.loader = none := by simpa [hs] using hl
          simp [leavesLoader, ht, this]
      · rfl
  · have he : endsLoader s target = false := by
      unfold endsLoader
      split
      · simp [loaderReturn, ht]
      · rfl
    have hj : jumpTo s c target = s.setCtx { c with pc := target } := by simp [jumpTo, he]
    rw [hj]
    refine ⟨base.rest, base.sys, ⟨?_, base.agent.cores, base.agent.proctor⟩⟩
    intro j
    rw [base.agent.threads j]
    simp [leavesLoader, ht]

end Sys2Proof.Machine
end

