-- ==== Sys2Proof/Laws/Access.lean ====
section
/-! SUPPORT. Scalar accesses: what each shared operation answers when nothing stands in its way, and how `runScalar` turns that into an outcome. -/

namespace Sys2Proof.Machine

open Sys2Proof.Safety

/-- The acting agent's registers are those that `State.ctx` gives. -/
theorem ctx_of_agentOf {s : State} {a : Agent} (h : agentOf s = some a) : s.ctx = some a.ctx := by
  unfold agentOf at h
  unfold State.ctx
  cases ha : s.actor <;> simp only [ha] at h ⊢
  · cases ht : s.thread _ <;> simp [ht] at h ⊢
    rw [← h]
  · simp at h
  · cases hp : s.pcore _ <;> simp [hp] at h ⊢
    rw [← h]
  · simp at h

theorem runScalar_ok {i : Instr} {s t : State} {a : Agent} {body : Agent → Except Stop State} (h : agentOf s = some a)
    (hb : body a = .ok t) : runScalar i s body = .next t := by
  simp [runScalar, h, hb]

theorem runScalar_wait {i : Instr} {s : State} {a : Agent} {body : Agent → Except Stop State} (h : agentOf s = some a)
    (hb : body a = .error .wait) : runScalar i s body = .next (s.setWaiting (some i)) := by
  simp [runScalar, h, hb]

theorem runScalar_fault {i : Instr} {s : State} {a : Agent} {f : FaultInfo} {body : Agent → Except Stop State}
    (h : agentOf s = some a) (hb : body a = .error (.fault f)) : runScalar i s body = .next (takeScalarFault s f) := by
  simp [runScalar, h, hb]

/-- With no injection waiting, no unit is struck (23 R375). -/
theorem finjUnit_quiet {s : State} (h : s.proctor.finj.getLsbD 63 = false) (kind : Nat) : finjUnit s kind = none := by
  have : bitOf s.proctor.finj.toNat 63 = false := by simpa [bitOf, BitVec.getLsbD] using h
  simp [finjUnit, this]

theorem touchAccess_quiet {s : State} (h : s.proctor.finj.getLsbD 63 = false) (a : Accessor) (va pa n lnum : Nat) :
    touchAccess s a va pa n lnum = s := by
  simp [touchAccess, touchWalk, touchUnits, finjUnit_quiet h]

theorem readBytes_eq_map (m : Memory) (a n : Nat) : readBytes m a n = (List.range n).map (fun k => readByte m (a + k)) := by
  induction n generalizing a with
  | zero => rfl
  | succ n ih =>
    rw [readBytes, ih, List.range_succ_eq_map, List.map_cons, List.map_map]
    congr 1
    apply List.map_congr_left
    intro k _
    show readByte m (a + 1 + k) = readByte m (a + (k + 1))
    congr 1; omega

/-- The bytes that an access reads are those that stand at the address. -/
theorem bytesAt_eq (s : State) (pa n : Nat) : s.bytesAt pa n = presentBytes s pa n := by
  unfold State.bytesAt presentBytes
  cases physKind pa
  case window m off =>
    simp only
    apply List.map_congr_left
    intro k _
    by_cases h : m < 1024
    · rw [if_pos h, if_neg (by omega)]
    · rw [if_neg h, if_pos (by omega)]
  all_goals exact readBytes_eq_map _ _ _

theorem translateScalar_ok {s : State} {acc : Accessor} {va pa : Nat} {k : Access} (h : translate s acc va k = .ok pa) :
    translateScalar s acc va k = .ok pa := by
  simp [translateScalar, h]

/-- A scalar load that reaches memory free of poison (11 R172). -/
theorem loadScalar_ok {s : State} {a : Agent} {va n pa : Nat} {k : Access} (hn : va % n = 0)
    (ht : translate s a.acc va k = .ok pa) (hr : Reachable s pa) (hp : poisonAt s.sys pa n = none) :
    loadScalar s a va n k = .ok (s, pa, leValue (seenBytes s a pa n)) := by
  unfold loadScalar
  rw [if_neg (by omega)]
  simp only [translateScalar_ok ht]
  show (match physKind pa with | .device off => _ | _ => _) = _
  split
  · next off ho => exact absurd ho (hr.memory off)
  · simp only [hr.route, touchAccess_quiet hr.quiet, hp, bytesAt_eq]
    rfl

/-- A scalar store that reaches memory (11 R172). -/
theorem storeScalar_ok {s : State} {a : Agent} {i : Instr} {va n v pa : Nat} {fill : Bool} (hn : va % n = 0)
    (ht : translate s a.acc va .write = .ok pa) (hr : Reachable s pa) (he : external a va = false) :
    storeScalar s a i va n v fill = .ok (s.store pa (leBytes n v) fill) := by
  unfold storeScalar
  rw [if_neg (by omega)]
  simp only [translateScalar_ok ht]
  show (match physKind pa with | .device off => _ | _ => _) = _
  split
  · next off ho => exact absurd ho (hr.memory off)
  · simp only [hr.route, he, touchAccess_quiet hr.quiet]
    rfl

end Sys2Proof.Machine
end

