-- ==== Sys2Proof/Laws/Ranges.lean ====
section
/-! SUPPORT. Laws of the operations that change ranges of memory: clearing and moving scratchpad ranges, claiming and releasing frames, mapping pages, power, code placed for a step. Each keeps memory's canonical form. -/

namespace Sys2Proof.Machine

/-- Writing a number keeps memory's canonical form. -/
theorem writeNat_wf {m : Memory} (h : Memory.wf m = true) (a n v : Nat) : Memory.wf (writeNat m a n v) = true := writeBytes_wf h a _

/-- A cleared scratchpad range (07 R113). -/
theorem clearRange_wf {s : State} (h : Memory.wf s.sys.mem = true) (cluster lo hi : Nat) :
    Memory.wf (clearRange s cluster lo hi).sys.mem = true := by
  by_cases hl : hi ≤ lo
  · rw [clearRange, if_pos hl]; exact h
  · rw [clearRange, if_neg hl]; exact cellsWf_cellsWhere (fun x => x < aperture cluster 0 + lo || aperture cluster 0 + hi ≤ x) h

theorem clearRange_granules_wf {s : State} (h : cellsWf s.sys.granules = true) (cluster lo hi : Nat) :
    cellsWf (clearRange s cluster lo hi).sys.granules = true := by
  by_cases hl : hi ≤ lo
  · rw [clearRange, if_pos hl]; exact h
  · rw [clearRange, if_neg hl]
    exact cellsWf_cellsWhere (fun g => g < (aperture cluster 0 + lo) / 16 || (aperture cluster 0 + hi) / 16 ≤ g) h

/-- Cells moved to other keys join as nonzero cells. -/
theorem moved_ne_zero {w : Nat} {m : Sparse w} (h : cellsWf m = true) (p : Nat → Bool) (f : Nat → Nat) :
    ∀ e ∈ (cellsWhere m p).map (fun e => (f e.1, e.2)), e.2 ≠ 0#w := by
  intro e he
  obtain ⟨x, hx, rfl⟩ := List.mem_map.mp he
  exact ne_zero_of_cellsWf (cellsWf_cellsWhere p h) x hx

/-- A scratchpad range copied to another cluster (21 R339). -/
theorem copyRange_wf {s : State} (h : Memory.wf s.sys.mem = true) (lo hi : Nat) (c : Nat × Nat) :
    Memory.wf (copyRange s lo hi c).sys.mem = true :=
  cellsWf_cellsJoin_of (clearRange_wf h c.2 lo hi) (moved_ne_zero (clearRange_wf h c.2 lo hi) _ (fun x => x - aperture c.1 0 + aperture c.2 0))

theorem copyRange_granules_wf {s : State} (h : cellsWf s.sys.granules = true) (lo hi : Nat) (c : Nat × Nat) :
    cellsWf (copyRange s lo hi c).sys.granules = true :=
  cellsWf_cellsJoin_of (clearRange_granules_wf h c.2 lo hi)
    (moved_ne_zero (clearRange_granules_wf h c.2 lo hi) _ (fun x => x - aperture c.1 0 / 16 + aperture c.2 0 / 16))

/-- Lines dropped from the cache leave every byte (25 R404). -/
@[simp] theorem dropLines_mem (sys : MemSys) (k : Nat) : (dropLines sys k).mem = sys.mem := (foldl_evictTag _ sys).1

/-- A frame claimed, and one released (25 R404). -/
theorem claimFrame_wf {s : State} (h : Memory.wf s.sys.mem = true) (dom : Nat) (nsh : Bool) (k : Nat) :
    Memory.wf (claimFrame s dom nsh k).sys.mem = true := by
  have hd : Memory.wf (dropLines s.sys k).mem = true := by rw [dropLines_mem]; exact h
  exact cellsWf_cellsWhere (fun a => a / 0x200000 != k) hd

@[simp] theorem releaseFrame_mem (s : State) (k : Nat) : (releaseFrame s k).sys.mem = s.sys.mem := dropLines_mem s.sys k

theorem claimFrames_wf (dom : Nat) (nsh : Bool) (f : Nat → Nat) (l : List Nat) {s : State} (h : Memory.wf s.sys.mem = true) :
    Memory.wf (l.foldl (fun s i => claimFrame s dom nsh (f i)) s).sys.mem = true := by
  induction l generalizing s with
  | nil => exact h
  | cons i l ih => exact ih (claimFrame_wf h dom nsh (f i))

/-- The frames of a page (25 R401). -/
theorem takePage_wf {s t : State} {dom die page pa : Nat} {nsh : Bool} (h : Memory.wf s.sys.mem = true)
    (ht : takePage s dom die page nsh = some (t, pa)) : Memory.wf t.sys.mem = true := by
  unfold takePage at ht
  split at ht
  · obtain ⟨k, _, e⟩ := Option.map_eq_some_iff.mp ht
    simp only [Prod.mk.injEq] at e
    rw [← e.1]; exact claimFrames_wf dom nsh (fun i => k + i) _ h
  · obtain ⟨k, _, e⟩ := Option.map_eq_some_iff.mp ht
    simp only [Prod.mk.injEq] at e
    rw [← e.1]; exact claimFrame_wf h dom nsh k

@[simp] theorem takeTable_sys {s t : State} {level a : Nat} (h : takeTable s level = some (t, a)) : t.sys = s.sys := by
  simp only [takeTable] at h
  by_cases hs : alignUp s.proctor.tableNext (if level = 0 then 65536 else 2 ^ tableBits (level - 1))
      + (if level = 0 then 65536 else 2 ^ tableBits (level - 1)) ≤ 0x80000000
  · rw [if_pos hs, Option.some.injEq, Prod.mk.injEq] at h
    rw [← h.1]
  · rw [if_neg hs] at h; cases h

/-- A leaf written where a page's entry lies, with the tables above it (25 R404). -/
theorem writeLeaf_wf {va target leaf fuel base level : Nat} {s t : State} (h : Memory.wf s.sys.mem = true)
    (ht : writeLeaf va target leaf fuel s base level = some t) : Memory.wf t.sys.mem = true := by
  induction fuel generalizing s base level with
  | zero => cases ht
  | succ fuel ih =>
    simp only [writeLeaf] at ht
    split at ht
    · cases ht; exact State.store_wf h _ _ _
    · split at ht
      · split at ht
        · exact ih h ht
        · cases ht
      · split at ht
        · cases ht
        · next u a hu => exact ih (State.store_wf (by rw [takeTable_sys hu]; exact h) _ _ _) ht

/-- Pages mapped on demand, and all of a region's pages (25 R402). -/
theorem mapOne_wf {s t : State} {r : Region} {root die va : Nat} (h : Memory.wf s.sys.mem = true) (ht : mapOne s r root die va = some t) :
    Memory.wf t.sys.mem = true := by
  simp only [mapOne] at ht
  split at ht
  · cases ht; exact h
  · split at ht
    · cases ht
    · next u pa hu => exact writeLeaf_wf (takePage_wf h hu) ht

/-- A fold that may fail keeps what each of its steps keeps. -/
theorem foldlM_some_keeps {α β : Type} {f : α → β → Option α} {P : α → Prop} (hf : ∀ a b c, P a → f a b = some c → P c) :
    ∀ (l : List β) (a c : α), P a → l.foldlM f a = some c → P c := by
  intro l
  induction l with
  | nil => intro a c ha h; cases h; exact ha
  | cons b l ih =>
    intro a c ha h
    rw [List.foldlM_cons] at h
    obtain ⟨d, hd, h⟩ := Option.bind_eq_some_iff.mp h
    exact ih d c (hf a b d ha hd) h

theorem mapAll_wf {s t : State} {r : Region} {root : Nat} (h : Memory.wf s.sys.mem = true) (ht : mapAll s r root = some t) :
    Memory.wf t.sys.mem = true := by
  obtain ⟨x, hx, rfl⟩ := Option.map_eq_some_iff.mp ht
  refine foldlM_some_keeps (P := fun x : State × Nat => Memory.wf x.1.sys.mem = true) ?_ _ (s, 0) x h hx
  intro a i c ha hc
  split at hc
  · obtain ⟨u, hu, rfl⟩ := Option.map_eq_some_iff.mp hc
    exact writeLeaf_wf ha hu
  · obtain ⟨y, hy, hc⟩ := Option.bind_eq_some_iff.mp hc
    obtain ⟨u, hu, rfl⟩ := Option.map_eq_some_iff.mp hc
    exact writeLeaf_wf (takePage_wf ha hy) hu

theorem mapListed_wf {s t : State} {tid : Nat} {x : Thread} {pages : List Nat} (h : Memory.wf s.sys.mem = true)
    (ht : mapListed s tid x pages = some t) : Memory.wf t.sys.mem = true := by
  refine foldlM_some_keeps (P := fun x : State => Memory.wf x.sys.mem = true) ?_ pages s t h ht
  intro a va c ha hc
  split at hc
  · exact mapOne_wf ha hc
  · cases hc

/-- Without power memory is as after reset (01 R30). -/
theorem powerLost_wf (s : State) : Memory.wf (powerLost s).sys.mem = true := rfl

/-- Code placed for the next step (log 14). -/
theorem testMemory_wf {m : Memory} (h : Memory.wf m = true) (bs : List Byte) : Memory.wf (testMemory m bs) = true :=
  writeBytes_wf (writeNat_wf (writeNat_wf (writeNat_wf (writeNat_wf h _ _ _) _ _ _) _ _ _) _ _ _) _ _

theorem withFetchWord_wf {s : State} (h : Memory.wf s.sys.mem = true) (nbits w : Nat) : Memory.wf (s.withFetchWord nbits w).sys.mem = true :=
  testMemory_wf h _

end Sys2Proof.Machine
end

