-- ==== Sys2Proof/Laws/Vector.lean ====
section
/-! SUPPORT. The common entry of vector instructions, and what writing elements does to the cells of a register. -/

namespace Sys2Proof.Machine

open Sys2Proof.Safety

theorem foldlM_ok {α β ε : Type} {f : α → β → Except ε α} (a : α) (l : List β) (h : ∀ x ∈ l, f a x = .ok a) :
    l.foldlM f a = .ok a := by
  induction l with
  | nil => rfl
  | cons x xs ih =>
    simp only [List.foldlM_cons, h x List.mem_cons_self]
    exact ih (fun y hy => h y (List.mem_cons_of_mem _ hy))

theorem vctx_some {s : State} {tid : Nat} {v : VCtx} (h : vctx s tid = some v) :
    v.tid = tid ∧ s.thread tid = some v.t ∧ v.t.group = some v.g := by
  unfold vctx at h
  split at h
  · exact absurd h (by simp)
  · next t ht =>
    split at h
    · exact absurd h (by simp)
    · next g hg => cases h; exact ⟨rfl, ht, hg⟩

/-- Where nothing stands before an instruction, its preparation changes nothing. -/
theorem prepare_ready {s : State} {tid : Nat} {v : VCtx} {i : Instr} (h : Ready s tid v i) : prepare s v i = .ok (s, []) := by
  have hq := h.queue
  have h0 : interlocked v.g i = false := by
    simp only [interlocked, hq, List.any_nil, Bool.false_eq_true, if_false, List.length_nil, List.isEmpty_nil]
    cases isArrayOp i <;> simp
    exact h.recessed
  have h1 : (chainClass i == some 1 && v.g.core.am != 0) = false := by
    by_cases e : chainClass i = some 1
    · simp [h.am e]
    · simp [e]
  have h2 : (vwrites i).any (fun r => (tableGet r v.g.core.streams).isSome) = false := by
    rw [List.any_eq_false]
    intro r hr
    simp [h.unbound r (.inr hr)]
  have h3 : (vreads i ++ vwrites i).eraseDups.foldlM (fun s r => takeGather s v r) s = .ok s := by
    refine foldlM_ok s _ (fun r hr => ?_)
    have hr' : r ∈ vreads i ∨ r ∈ vwrites i := by simpa using hr
    have : v.g.gathers.find? (fun x => x.reg == r && !v.g.core.gread.contains r) = none := by
      rw [List.find?_eq_none]
      intro x hx
      by_cases e : x.reg = r
      · simp [h.taken r hr' x hx e]
      · simp [e]
    unfold takeGather
    rw [this]
  have hg : s.group v.tid = some v.g := by
    obtain ⟨rfl, ht, hg⟩ := vctx_some h.ctx
    simp [State.group, ht, hg]
  have h4 : v.g.core.gmark.filter (fun m => (vreads i).contains m.1 && (isArrayOp i || decide (m.2.1 < v.vl))) = [] := by
    rw [List.filter_eq_nil_iff]
    intro m hm hc
    exact h.unmarked m.1 (by simpa using (Bool.and_eq_true_iff.mp hc).1) m hm rfl
  have h5 : (vreads i).eraseDups.foldlM (fun (acc : State × List (Nat × Mark)) r => do
      let (s, ms) ← popStream acc.1 v r
      pure (s, acc.2 ++ ms)) (s, ([] : List (Nat × Mark))) = .ok (s, []) := by
    refine foldlM_ok _ _ (fun r hr => ?_)
    have hr' : r ∈ vreads i := by simpa using hr
    simp [popStream, h.unbound r (.inl hr')]
  simp only [prepare, h0, h1, h2, Bool.false_eq_true, if_false]
  simp only [h3, bind, Except.bind, hg, Option.map_some, Option.getD_some, h4, List.map_nil]
  exact h5

/-- What a vector instruction does where nothing stands before it: its own effect, wait or fault. -/
theorem runVector_ready {s : State} {tid : Nat} {v : VCtx} {i : Instr} {body : State → VCtx → Except Stop State}
    (h : Ready s tid v i) : runVector i s body = (match body s v with
      | .ok t => .next t
      | .error .wait => .next (s.setWaiting (some i))
      | .error (.fault f) => .next (deliverFault s tid true f)
      | .error (.refuse op) => .refused (.microcodeDefined op)) := by
  have hp : popCounts v i = false := by
    rw [popCounts, Bool.and_eq_false_iff]
    refine .inr (List.any_eq_false.mpr (fun r hr => ?_))
    simp [h.unbound r (.inl hr)]
  obtain ⟨rfl, -, -⟩ := vctx_some h.ctx
  have hw : withOperands s v i body = body s v := by
    simp only [withOperands, prepare_ready h, bind, Except.bind, h.ctx, operandFault, List.foldr_nil]
    cases body s v <;> rfl
  unfold runVector
  simp only [h.actor, h.ctx, hw, hp, ite_self]
  split <;> simp_all

/-! Writing elements. -/

/-- The bits of a position read after w bits at a position were replaced. -/
theorem field_putBits {n : Nat} (x : BitVec n) (i j w v : Nat) (hw : 0 < w) (hi : i * w + w ≤ n) (hj : j * w + w ≤ n) :
    field (putBits x i w v).toNat (j * w + w - 1) (j * w) =
      if j = i then v % 2 ^ w else field x.toNat (j * w + w - 1) (j * w) := by
  have hlen : j * w + w - 1 + 1 - j * w = w := by omega
  apply Nat.eq_of_testBit_eq
  intro b
  by_cases hb : b < w
  · have hbn : j * w + b < n := by omega
    have key : (putBits x i w v).getLsbD (j * w + b) =
        ((x.getLsbD (j * w + b) && !(decide (i * w ≤ j * w + b) && decide (j * w + b - i * w < w)))
          || (decide (i * w ≤ j * w + b) && (v % 2 ^ w).testBit (j * w + b - i * w))) := by
      have h2 : j * w + b - i * w < n := by omega
      simp only [putBits, BitVec.getLsbD_or, BitVec.getLsbD_and, BitVec.getLsbD_not, BitVec.getLsbD_shiftLeft,
        BitVec.getLsbD_ofNat, Nat.testBit_two_pow_sub_one, hbn, h2, decide_true, Bool.true_and]
      by_cases hle : i * w ≤ j * w + b
      · have : ¬ (j * w + b < i * w) := by omega
        simp [hle, this]
      · have : j * w + b < i * w := by omega
        simp [hle, this]
    by_cases hji : j = i
    · subst hji
      simp only [field, hlen, Nat.testBit_mod_two_pow, Nat.testBit_shiftRight, hb, decide_true, Bool.true_and, if_true]
      rw [← BitVec.getLsbD, key]
      simp [hb]
    · have hne : (decide (i * w ≤ j * w + b) && decide (j * w + b - i * w < w)) = false := by
        rcases Nat.lt_or_gt_of_ne hji with h | h
        · have : (j + 1) * w ≤ i * w := Nat.mul_le_mul_right w h
          have : j * w + w ≤ i * w := by rw [← Nat.succ_mul]; exact this
          simp; omega
        · have : (i + 1) * w ≤ j * w := Nat.mul_le_mul_right w h
          have : i * w + w ≤ j * w := by rw [← Nat.succ_mul]; exact this
          simp; omega
      have hz : (decide (i * w ≤ j * w + b) && (v % 2 ^ w).testBit (j * w + b - i * w)) = false := by
        rcases Bool.and_eq_false_iff.mp hne with h | h
        · rw [h, Bool.false_and]
        · have : ¬ (j * w + b - i * w < w) := by simpa using h
          simp [Nat.testBit_mod_two_pow, this]
      simp only [field, hlen, Nat.testBit_mod_two_pow, Nat.testBit_shiftRight, hb, decide_true, Bool.true_and, hji, if_false]
      rw [← BitVec.getLsbD, key, hne, hz]
      simp [BitVec.getLsbD]
  · have h1 : (field (putBits x i w v).toNat (j * w + w - 1) (j * w)).testBit b = false := by
      simp [field, hlen, Nat.testBit_mod_two_pow, hb]
    have h2 : (if j = i then v % 2 ^ w else field x.toNat (j * w + w - 1) (j * w)).testBit b = false := by
      split <;> simp [field, hlen, Nat.testBit_mod_two_pow, hb]
    rw [h1, h2]

/-- An element of a group lies in one place: a part's lane and a position in it. -/
theorem place_some {s : State} {v : VCtx} (hP : Placed s v) {w e : Nat} (hw : w ∣ 256) (he : e < v.avail w) :
    ∃ p, v.parts[e / v.vmax w]? = some p ∧ p ∈ v.parts ∧ 0 < v.lanes
      ∧ v.place w e = some (p, p.base + e % v.vmax w % v.lanes, e % v.vmax w / v.lanes)
      ∧ p.base + e % v.vmax w % v.lanes < 256 ∧ e % v.vmax w % v.lanes < p.lanes
      ∧ e % v.vmax w / v.lanes * w + w ≤ 256 := by
  obtain ⟨m, hm⟩ := hw
  have hw0 : 0 < w := Nat.pos_of_ne_zero (by rintro rfl; omega)
  have hvm : v.vmax w = v.lanes * m := by
    unfold VCtx.vmax
    rw [hm, Nat.mul_comm w m, ← Nat.mul_assoc, Nat.mul_div_cancel _ hw0]
  have havail : e < v.vmax w * v.parts.length := he
  have hpos : 0 < v.vmax w := Nat.pos_of_ne_zero (fun h0 => by rw [h0] at havail; omega)
  have hlanes : 0 < v.lanes := Nat.pos_of_ne_zero (fun h0 => by rw [hvm, h0] at hpos; omega)
  have hidx : e / v.vmax w < v.parts.length := Nat.div_lt_of_lt_mul havail
  have hget : v.parts[e / v.vmax w]? = some v.parts[e / v.vmax w] := List.getElem?_eq_getElem hidx
  have hmem : v.parts[e / v.vmax w] ∈ v.parts := List.getElem_mem hidx
  have hl := hP.lanes _ hmem
  have hmod : e % v.vmax w % v.lanes < v.lanes := Nat.mod_lt _ hlanes
  have hi : e % v.vmax w < v.lanes * m := by rw [← hvm]; exact Nat.mod_lt _ hpos
  have hp : e % v.vmax w / v.lanes < m := Nat.div_lt_of_lt_mul hi
  have hpw : (e % v.vmax w / v.lanes + 1) * w ≤ m * w := Nat.mul_le_mul_right w hp
  refine ⟨_, hget, hmem, hlanes, by simp [VCtx.place, hget], by omega, by omega, ?_⟩
  rw [Nat.succ_mul] at hpw
  rw [Nat.mul_comm m w, ← hm] at hpw
  exact hpw

/-- Two elements of a group that lie in the same place are one. -/
theorem place_inj {s : State} {v : VCtx} (hP : Placed s v) {w e j : Nat} (hw : w ∣ 256) (he : e < v.avail w)
    (hj : j < v.avail w) {p q : Part} {l n pos : Nat} (h : v.place w e = some (p, l, pos)) (h' : v.place w j = some (q, n, pos))
    (hc : p.core = q.core) (hl : l = n) : e = j := by
  obtain ⟨p', hp, hpm, hpos, hpe, -, -, -⟩ := place_some hP hw he
  obtain ⟨q', hq, hqm, -, hqe, -, -, -⟩ := place_some hP hw hj
  rw [hpe] at h
  rw [hqe] at h'
  simp only [Option.some.injEq, Prod.mk.injEq] at h h'
  obtain ⟨rfl, rfl, rfl⟩ := h
  obtain ⟨rfl, rfl, h3⟩ := h'
  have hidx : e / v.vmax w = j / v.vmax w := by
    obtain ⟨h1, e1⟩ := List.getElem?_eq_some_iff.mp hp
    obtain ⟨h2, e2⟩ := List.getElem?_eq_some_iff.mp hq
    rcases Nat.lt_trichotomy (e / v.vmax w) (j / v.vmax w) with h | h | h
    · have := List.pairwise_iff_getElem.mp hP.apart _ _ h1 h2 h
      rw [e1, e2] at this; exact absurd hc this
    · exact h
    · have := List.pairwise_iff_getElem.mp hP.apart _ _ h2 h1 h
      rw [e1, e2] at this; exact absurd hc.symm this
  have hpq : p' = q' := by rw [hidx, hq] at hp; exact (Option.some.inj hp).symm
  subst hpq
  have hmod : e % v.vmax w = j % v.vmax w := by
    have a := Nat.mod_add_div (e % v.vmax w) v.lanes
    have b := Nat.mod_add_div (j % v.vmax w) v.lanes
    rw [h3] at b
    omega
  have a := Nat.mod_add_div e (v.vmax w)
  have b := Nat.mod_add_div j (v.vmax w)
  rw [hidx, hmod] at a
  omega

/-- An element read after one of the same register was written. -/
theorem get_putLane {s : State} {v : VCtx} (hP : Placed s v) {l : LaneSys} (hl : cellsWf l.vregs = true) {reg w e j x : Nat}
    (hw : w ∣ 256) (he : e < v.avail w) (hj : j < v.avail w) :
    v.get { s with lanes := v.putLane l reg w e x } reg w j =
      if j = e then x % 2 ^ w else v.get { s with lanes := l } reg w j := by
  have hw0 : 0 < w := Nat.pos_of_ne_zero (by rintro rfl; obtain ⟨m, hm⟩ := hw; omega)
  obtain ⟨p, -, -, -, hpe, hpl, -, hpb⟩ := place_some hP hw he
  obtain ⟨q, -, -, -, hqe, hql, -, hqb⟩ := place_some hP hw hj
  simp only [VCtx.get, VCtx.putLane, hpe, hqe, cellGet_cellSet hl]
  by_cases hk : vregKey q.core reg (q.base + j % v.vmax w % v.lanes) = vregKey p.core reg (p.base + e % v.vmax w % v.lanes)
  · have hcore : q.core = p.core ∧ q.base + j % v.vmax w % v.lanes = p.base + e % v.vmax w % v.lanes := by
      unfold vregKey at hk; omega
    rw [if_pos hk, field_putBits _ _ _ _ _ hw0 hpb hqb, hk]
    by_cases hpos : j % v.vmax w / v.lanes = e % v.vmax w / v.lanes
    · have : j = e := place_inj hP hw hj he (hpos ▸ hqe) hpe hcore.1 hcore.2
      rw [if_pos hpos, if_pos this]
    · have : ¬ j = e := by rintro rfl; exact hpos rfl
      rw [if_neg hpos, if_neg this]
  · have : ¬ j = e := by
      rintro rfl
      rw [hpe] at hqe
      simp only [Option.some.injEq, Prod.mk.injEq] at hqe
      exact hk (by rw [hqe.1])
    rw [if_neg hk, if_neg this]

/-- A cell that the element does not lie in. -/
theorem cellGet_putLane {s : State} {v : VCtx} (hP : Placed s v) {l : LaneSys} (hl : cellsWf l.vregs = true) {reg w e x k : Nat}
    (hw : w ∣ 256) (hr : reg < 64) (he : e < v.avail w) (hk : ¬ ownCell v reg k) :
    cellGet (v.putLane l reg w e x).vregs k = cellGet l.vregs k := by
  obtain ⟨p, -, hpm, -, hpe, hpl, hpn, -⟩ := place_some hP hw he
  simp only [VCtx.putLane, hpe, cellGet_cellSet hl]
  rw [if_neg]
  intro hkey
  exact hk ⟨p, hpm, by unfold vregKey at hkey; omega, by unfold vregKey at hkey; omega, by unfold vregKey at hkey; omega,
    by unfold vregKey at hkey; omega⟩

theorem cellsWf_putLane {v : VCtx} {l : LaneSys} (hl : cellsWf l.vregs = true) (reg w e x : Nat) :
    cellsWf (v.putLane l reg w e x).vregs = true := by
  unfold VCtx.putLane
  split
  · exact hl
  · exact cellsWf_cellSet hl

theorem putLane_masks (v : VCtx) (l : LaneSys) (reg w e x : Nat) : (v.putLane l reg w e x).masks = l.masks := by
  unfold VCtx.putLane; split <;> rfl

theorem putLane_slices (v : VCtx) (l : LaneSys) (reg w e x : Nat) : (v.putLane l reg w e x).slices = l.slices := by
  unfold VCtx.putLane; split <;> rfl

/-- The lanes after elements were written. -/
def VCtx.putLanes (v : VCtx) (l : LaneSys) (reg w : Nat) (es : List (Nat × Nat)) : LaneSys :=
  es.foldl (fun (l : LaneSys) (e : Nat × Nat) => v.putLane l reg w e.1 e.2) l

theorem putLanes_wf {v : VCtx} {l : LaneSys} (hl : cellsWf l.vregs = true) (reg w : Nat) (es : List (Nat × Nat)) :
    cellsWf (v.putLanes l reg w es).vregs = true := by
  induction es generalizing l with
  | nil => exact hl
  | cons e es ih => exact ih (cellsWf_putLane hl reg w e.1 e.2)

theorem putLanes_masks (v : VCtx) (l : LaneSys) (reg w : Nat) (es : List (Nat × Nat)) : (v.putLanes l reg w es).masks = l.masks := by
  induction es generalizing l with
  | nil => rfl
  | cons e es ih => exact (ih _).trans (putLane_masks v l reg w e.1 e.2)

theorem putLanes_slices (v : VCtx) (l : LaneSys) (reg w : Nat) (es : List (Nat × Nat)) :
    (v.putLanes l reg w es).slices = l.slices := by
  induction es generalizing l with
  | nil => rfl
  | cons e es ih => exact (ih _).trans (putLane_slices v l reg w e.1 e.2)

/-- Elements read after elements of the same register, each written once. -/
theorem get_putLanes {s : State} {v : VCtx} (hP : Placed s v) {l : LaneSys} (hl : cellsWf l.vregs = true) {reg w j : Nat}
    (hw : w ∣ 256) {es : List (Nat × Nat)} (hes : ∀ e ∈ es, e.1 < v.avail w) (hn : (es.map Prod.fst).Nodup) (hj : j < v.avail w) :
    v.get { s with lanes := v.putLanes l reg w es } reg w j = (match es.lookup j with
      | some x => x % 2 ^ w
      | none => v.get { s with lanes := l } reg w j) := by
  induction es generalizing l with
  | nil => rfl
  | cons e es ih =>
    have hn' : e.1 ∉ es.map Prod.fst ∧ (es.map Prod.fst).Nodup := by simpa using hn
    have := ih (l := v.putLane l reg w e.1 e.2) (cellsWf_putLane hl reg w e.1 e.2) (fun x hx => hes x (List.mem_cons_of_mem _ hx)) hn'.2
    rw [show v.putLanes l reg w (e :: es) = v.putLanes (v.putLane l reg w e.1 e.2) reg w es from rfl, this,
      get_putLane hP hl hw (hes e List.mem_cons_self) hj, List.lookup_cons]
    by_cases hje : j = e.1
    · subst hje
      have hnone : es.lookup e.1 = none := by
        rw [List.lookup_eq_none_iff]
        intro x hx
        simp only [ne_eq, bne_iff_ne]
        intro h
        exact hn'.1 (List.mem_map.mpr ⟨x, hx, h.symm⟩)
      simp [hnone]
    · rw [show (j == e.1) = false by simp [hje], if_neg hje]

/-- Cells outside the register's own lanes after its elements were written. -/
theorem cellGet_putLanes {s : State} {v : VCtx} (hP : Placed s v) {l : LaneSys} (hl : cellsWf l.vregs = true) {reg w k : Nat}
    (hw : w ∣ 256) (hr : reg < 64) {es : List (Nat × Nat)} (hes : ∀ e ∈ es, e.1 < v.avail w) (hk : ¬ ownCell v reg k) :
    cellGet (v.putLanes l reg w es).vregs k = cellGet l.vregs k := by
  induction es generalizing l with
  | nil => rfl
  | cons e es ih =>
    rw [show v.putLanes l reg w (e :: es) = v.putLanes (v.putLane l reg w e.1 e.2) reg w es from rfl,
      ih (cellsWf_putLane hl reg w e.1 e.2) (fun x hx => hes x (List.mem_cons_of_mem _ hx)),
      cellGet_putLane hP hl hw hr (hes e List.mem_cons_self) hk]

/-! The whole of an instruction that writes elements. -/

theorem tablePut_tablePut {α : Type} (k : Nat) (x y : α) (t : Table α) : tablePut k x (tablePut k y t) = tablePut k x t := by
  induction t with
  | nil => simp [tablePut]
  | cons e t ih =>
    obtain ⟨j, z⟩ := e
    by_cases h1 : k = j
    · subst h1; simp [tablePut]
    · by_cases h2 : k < j
      · simp [tablePut, h1, h2]
      · simp [tablePut, h1, h2, ih]

theorem modThread_eq_put {s : State} {tid : Nat} {t : Thread} (h : s.thread tid = some t) (f : Thread → Thread) :
    s.modThread tid f = s.putThread tid (f t) := by
  simp only [State.modThread, State.putThread, tableMod, show tableGet tid s.threads = some t from h]

theorem modThread_put (s : State) (tid : Nat) (t : Thread) (f : Thread → Thread) :
    (s.putThread tid t).modThread tid f = s.putThread tid (f t) := by
  simp only [State.modThread, State.putThread, tableMod, tableGet_tablePut, if_true, tablePut_tablePut]

theorem modGroup_eq_put {s : State} {tid : Nat} {t : Thread} (h : s.thread tid = some t) (f : Group → Group) :
    s.modGroup tid f = s.putThread tid { t with group := t.group.map f } := modThread_eq_put h _

theorem modGroup_put (s : State) (tid : Nat) (t : Thread) (f : Group → Group) :
    (s.putThread tid t).modGroup tid f = s.putThread tid { t with group := t.group.map f } := modThread_put s tid t _

/-- The satchel tags after elements of a register were written (23 R358). -/
def VCtx.tagsAfter (v : VCtx) (tags : Table (Nat × Bool)) (reg w : Nat) (es : List (Nat × Nat)) : Table (Nat × Bool) :=
  es.foldl (fun (t : Table (Nat × Bool)) (e : Nat × Nat) => v.tagged t reg w e.1) tags

theorem tagged_get {v : VCtx} (tags : Table (Nat × Bool)) (reg w e : Nat) {p : Part} {l pos : Nat}
    (h : v.place w e = some (p, l, pos)) (k : Nat) :
    tableGet k (v.tagged tags reg w e) = if k = p.die * 64 + reg
      then some (max ((tableGet (p.die * 64 + reg) tags).getD (0, false)).1 ((pos * w + w - 1) / 64 + 1), true) else tableGet k tags := by
  simp only [VCtx.tagged, h, tableGet_tablePut]

/-- Once an element of a register was written, its tag covers it, whatever else is written. -/
theorem tagsAfter_keeps {v : VCtx} (reg w : Nat) (es : List (Nat × Nat)) (k b : Nat) (tags : Table (Nat × Bool))
    (h : ∃ vb, tableGet k tags = some (vb, true) ∧ b ≤ 64 * vb) :
    ∃ vb, tableGet k (v.tagsAfter tags reg w es) = some (vb, true) ∧ b ≤ 64 * vb := by
  induction es generalizing tags with
  | nil => exact h
  | cons e es ih =>
    refine ih _ ?_
    obtain ⟨vb, h1, h2⟩ := h
    rcases hpl : v.place w e.1 with _ | ⟨p, l, pos⟩
    · exact ⟨vb, by simp only [VCtx.tagged, hpl]; exact h1, h2⟩
    · rw [tagged_get tags reg w e.1 hpl]
      by_cases hk : k = p.die * 64 + reg
      · subst hk
        rw [if_pos rfl, h1]
        exact ⟨_, rfl, by simp only [Option.getD_some]; omega⟩
      · rw [if_neg hk]; exact ⟨vb, h1, h2⟩

theorem tagsAfter_covers {v : VCtx} (reg w : Nat) (es : List (Nat × Nat)) (tags : Table (Nat × Bool)) {e x : Nat}
    (he : (e, x) ∈ es) {p : Part} {l pos : Nat} (h : v.place w e = some (p, l, pos)) :
    ∃ vb, tableGet (p.die * 64 + reg) (v.tagsAfter tags reg w es) = some (vb, true) ∧ pos * w + w ≤ 64 * vb := by
  induction es generalizing tags with
  | nil => exact absurd he (by simp)
  | cons y ys ih =>
    rcases List.mem_cons.mp he with rfl | hy
    · refine tagsAfter_keeps reg w ys _ _ _ ⟨_, by rw [tagged_get tags reg w e h, if_pos rfl], by omega⟩
    · exact ih _ hy

/-- A thread put where it is. -/
theorem tablePut_self {α : Type} {k : Nat} {x : α} {t : Table α} (h : tableGet k t = some x) : tablePut k x t = t := by
  induction t with
  | nil => simp [tableGet] at h
  | cons e t ih =>
    obtain ⟨j, y⟩ := e
    unfold tableGet at h
    by_cases h1 : k = j
    · subst h1; simp at h; simp [tablePut, h]
    · by_cases h2 : k < j
      · simp [h1, h2] at h
      · simp only [h1, h2, if_false] at h
        simp [tablePut, h1, h2, ih h]

theorem putThread_self {s : State} {tid : Nat} {t : Thread} (h : s.thread tid = some t) : s.putThread tid t = s := by
  simp only [State.putThread, tablePut_self (show tableGet tid s.threads = some t from h)]

/-- Flags, the count of roundings and the next address, of a thread put. -/
theorem tail_put (v : VCtx) (u : State) (x : Thread) (y : Group) (hx : x.group = some y) (g : Flags) (m : RoundMode) :
    v.next (v.counted (v.flags (u.putThread v.tid x) g) m) 8 = u.putThread v.tid { x with
      ctx := if y.strip = none then { x.ctx with fflags := x.ctx.fflags ||| g } else x.ctx
      group := some { y with core := { y.core with pc := v.iaddr + 8 }, strip := y.strip.map (fun st => { st with
        flags := st.flags ||| g, k := if m = .rsr then st.k + 1 else st.k }) } } := by
  unfold VCtx.next VCtx.counted VCtx.flags
  rw [modThread_put]
  simp only [hx]
  rcases hs : y.strip with _ | st
  · split <;> simp [modGroup_put, hs] <;> rfl
  · split <;> simp [modGroup_put, *] <;> rfl

/-- A register taken into the strip's account where there is room (03 R49). -/
theorem touch_room {s : State} {v : VCtx} (ht : s.thread v.tid = some v.t) (hg : v.t.group = some v.g) {regs : List Nat}
    (hroom : HasRoom v regs) : v.touch s regs = .ok (s.putThread v.tid { v.t with group := some { v.g with
      strip := v.g.strip.map (fun st => { st with written := regs.foldl (fun ws r => setAdd r ws) st.written }) } }) := by
  have hgr : s.group v.tid = some v.g := by simp [State.group, ht, hg]
  obtain ⟨hc, hr⟩ := hroom
  have hheld : ((s.group v.tid).map (fun g => g.closed.foldl (fun n c => n + c.strip.written.length) 0)).getD 0 = 0 := by
    simp [hgr, hc]
  unfold VCtx.touch
  rw [hheld, hgr]
  rcases hs : v.g.strip with _ | st
  · have : ({ v.t with group := some { v.g with strip := none } } : Thread) = v.t := by
      rw [← hs, ← hg]
    simp only [Option.bind_some, hs, Option.map_none, this, putThread_self ht]
  · have := hr st hs
    simp only [Option.bind_some, hs, Option.map_some, Nat.not_lt.mpr this, if_false, ne_eq, not_true, decide_false, Bool.false_and,
      Bool.false_eq_true]
    rw [modGroup_eq_put ht, hg]
    rfl

/-- An instruction that writes elements of one register, raises flags and goes on: its next state. -/
theorem elements_run {s : State} {tid : Nat} {v : VCtx} (hv : vctx s tid = some v) {reg w : Nat} (hroom : HasRoom v [reg])
    (es : List (Nat × Nat)) (g : Flags) (m : RoundMode) :
    (do let s' ← v.write s reg w es; pure (v.next (v.counted (v.flags s' g) m) 8) : Except Stop State) = .ok
      (({ s with lanes := v.putLanes s.lanes reg w es }).putThread v.tid
        (afterVector v { v.g.core with
            pc := v.iaddr + 8, tags := v.tagsAfter v.g.core.tags reg w es,
            gmark := v.g.core.gmark.filter (fun m => !(m.1 == reg && es.any (fun e => e.1 == m.2.1))) }
          (writtenRegs [(reg, es)]) g (m == RoundMode.rsr))) := by
  obtain ⟨rfl, ht, hg⟩ := vctx_some hv
  by_cases hes0 : es = []
  · subst hes0
    show Except.ok (v.next (v.counted (v.flags s g) m) 8) = _
    have h := tail_put v s v.t v.g hg g m
    rw [putThread_self ht] at h
    rw [h]
    have hf : v.g.core.gmark.filter (fun _ => true) = v.g.core.gmark := List.filter_eq_self.mpr (by simp)
    simp [afterVector, writtenRegs, VCtx.tagsAfter, VCtx.putLanes, hf]
  · have hne : es.isEmpty = false := by simpa using hes0
    rw [VCtx.write, if_neg (by simp [hne]), touch_room ht hg hroom]
    show Except.ok (v.next (v.counted (v.flags (v.putElems _ reg w es) g) m) 8) = _
    have : ∀ x : Thread, v.putElems (s.putThread v.tid x) reg w es =
        ({ s with lanes := v.putLanes s.lanes reg w es }).putThread v.tid { x with group := x.group.map (fun (y : Group) =>
          { y with core := { y.core with
              tags := v.tagsAfter y.core.tags reg w es,
              gmark := y.core.gmark.filter (fun m => !(m.1 == reg && es.any (fun e => e.1 == m.2.1))) } }) } :=
      fun x => modGroup_put ({ s with lanes := v.putLanes s.lanes reg w es }) v.tid x _
    rw [this, Option.map_some, tail_put _ _ _ _ rfl]
    simp [afterVector, writtenRegs, hne, Function.comp_def]

/-- An instruction that writes elements of one register, raises flags and goes on: its whole effect. -/
theorem elements_complete {s : State} {tid : Nat} {v : VCtx} (hv : vctx s tid = some v) (hP : Placed s v) {reg w : Nat} (hw : w ∣ 256)
    (hr : reg < 64) (hroom : HasRoom v [reg]) {es : List (Nat × Nat)} (hes : ∀ e ∈ es, e.1 < v.avail w)
    (hn : (es.map Prod.fst).Nodup) (g : Flags) (m : RoundMode) :
    ∃ t, (do let s' ← v.write s reg w es; pure (v.next (v.counted (v.flags s' g) m) 8) : Except Stop State) = .ok t
      ∧ WroteElements s t v w [(reg, es)] g (m == RoundMode.rsr) := by
  refine ⟨_, elements_run hv hroom es g m, ?_⟩
  constructor
  · intro n hnm e he
    obtain rfl : n = (reg, es) := by simpa using hnm
    exact get_putLanes hP hP.vregs hw hes hn he
  · intro k hk
    exact cellGet_putLanes hP hP.vregs hw hr hes (hk _ List.mem_cons_self)
  · exact putLanes_masks v _ reg w es
  · exact putLanes_slices v _ reg w es
  · refine ⟨v.tagsAfter v.g.core.tags reg w es,
      v.g.core.gmark.filter (fun m => !(m.1 == reg && es.any (fun e => e.1 == m.2.1))), ⟨⟨rfl, rfl, rfl, rfl, rfl, rfl, rfl, rfl, rfl, rfl⟩, rfl, rfl, fun j => ?_⟩, ?_, ?_⟩
    · rw [State.thread_putThread]; rfl
    · intro n hnm e x p l pos hx hpl
      obtain rfl : n = (reg, es) := by simpa using hnm
      exact tagsAfter_covers reg w es _ hx hpl
    · intro y
      simp only [List.mem_filter, List.mem_singleton, forall_eq, Bool.not_eq_true', Bool.and_eq_false_iff, beq_eq_false_iff_ne]
      refine and_congr_right (fun _ => ⟨?_, ?_⟩)
      · rintro (h | h) ⟨h', x, hx⟩
        · exact h h'.symm
        · rw [List.any_eq_false] at h
          exact h _ hx (by simp)
      · intro h
        by_cases hy : y.1 = reg
        · refine .inr (List.any_eq_false.mpr (fun e he hc => h ⟨hy.symm, e.2, ?_⟩))
          have : e.1 = y.2.1 := by simpa using hc
          rw [← this]; exact he
        · exact .inl hy

/-- The active elements (13 R201, 09 R144). -/
theorem active_eq (s : State) (v : VCtx) (f : VFields) (w : Nat) : v.active s f w = actives s v f w := by
  unfold VCtx.active actives positions VCtx.vl
  refine List.filter_congr (fun e _ => ?_)
  unfold VCtx.effective VCtx.frag
  by_cases h0 : f.msk = 0
  · simp [h0, VCtx.mask]
  · have : (f.msk == 0) = false := beq_eq_false_iff_ne.mpr h0
    cases f.me <;> simp only [h0, this, if_true, if_false, Bool.false_or, Bool.false_eq_true] <;>
      cases v.mask s w f.msk.toNat e <;> rfl

theorem widths_ok {v : VCtx} {ws : List Nat} (h : ∀ w ∈ ws, v.vl ≤ v.avail w) : v.widths ws = .ok () := by
  have : ws.any (fun w => decide (v.avail w < v.vl)) = false := by
    rw [List.any_eq_false]
    intro w hw
    have := h w hw
    simp; omega
  simp [VCtx.widths, this]

/-- The whole effect of an elementwise instruction before which nothing stands. -/
theorem elementwise_complete {i : Instr} {f : VFields} {s : State} {tid : Nat} {v : VCtx} {w : Nat} {others : List Nat}
    {mode : VCtx → RoundMode} {result : State → VCtx → Nat → Nat × Flags} (h : Ready s tid v i) (hP : Placed s v) (hw : w ∣ 256)
    (hvl : ∀ x ∈ w :: others, v.vl ≤ v.avail x) (hroom : HasRoom v [f.vd.toNat]) :
    let es := (actives s v f w).map (fun e => (e, result s v e))
    ∃ t, elementwise i f s w others mode result = .next t
      ∧ WroteElements s t v w [(f.vd.toNat, es.map (fun x => (x.1, x.2.1)))] (joined (es.map Prod.snd)) (mode v == RoundMode.rsr) := by
  intro es
  have hmem : ∀ e ∈ actives s v f w, e < v.vl := by
    intro e he
    simpa [actives] using (List.mem_filter.mp he).1
  obtain ⟨t, h1, h2⟩ := elements_complete (es := es.map (fun x => (x.1, x.2.1))) h.ctx hP hw f.vd.isLt hroom
    (by
      intro e he
      simp only [es, List.map_map, List.mem_map] at he
      obtain ⟨k, hk, rfl⟩ := he
      exact Nat.lt_of_lt_of_le (hmem k hk) (hvl w List.mem_cons_self))
    (by
      simp only [es, List.map_map]
      rw [show (Prod.fst ∘ (fun x : Nat × Nat × Flags => (x.1, x.2.1)) ∘ fun e => (e, result s v e)) = id from rfl, List.map_id]
      exact List.nodup_range.filter _)
    (joined (es.map Prod.snd)) (mode v)
  refine ⟨t, ?_, h2⟩
  rw [elementwise, runVector_ready h]
  simp only [widths_ok hvl]
  have hj : joined (es.map Prod.snd) = es.foldl (fun g r => g ||| r.2.2) 0#7 := by
    simp [joined, List.foldl_map]
  rw [hj] at h1
  simp only [active_eq]
  rw [show (do
      Except.ok ()
      let s' ← v.write s f.vd.toNat w ((actives s v f w).map (fun e => (e, result s v e)) |>.map (fun r => (r.1, r.2.1)))
      pure (v.next (v.counted (v.flags s' (((actives s v f w).map (fun e => (e, result s v e))).foldl (fun g r => g ||| r.2.2) 0#7))
        (mode v)) 8) : Except Stop State) = Except.ok t from h1]

end Sys2Proof.Machine
end

