-- ==== Sys2Proof/Machine/NestRun.lean ====
section
/-! DEFINITION. What the loop nests of a container compute: the points of a set, a statement instance, and the order of a schedule tree (25 R412 to R414; log 27). A translated image writes what this writes; the image itself is free. -/

namespace Sys2Proof.Machine

/-! Operations (25 R414). -/

/-- CONST's value: the immediate as VMOV extends its own, in the width of the type (DEDUCED, log 27: for a floating type its bits are
the encoding). -/
def nestConst (t : ElemType) (imm : Nat) : Nat :=
  match t with
  | .int true w => keep (sext imm 32) w
  | t => imm % 2 ^ t.width

/-- An operation on values that need no rounding or take the operation's own. -/
def nestArith (op : Nat) (t : ElemType) (r : Rounding) (a b c : Nat) : Nat × Flags :=
  match t, op with
  | .flt g, 1 => fAdd g r a b
  | .flt g, 2 => fSub g r a b
  | .flt g, 3 => fMul g r a b
  | .flt g, 4 => fFma g r false false a b c
  | .flt g, 5 => fDiv g r a b
  | .flt g, 6 => fMinMax g false a b
  | .flt g, 7 => fMinMax g true a b
  | .flt g, 8 => (a % 2 ^ (g.bits - 1), 0#7)
  | .flt g, 9 => (a ^^^ 2 ^ (g.bits - 1), 0#7)
  | .flt g, 10 => fSqrt g r a
  | .int _ w, 1 => kept w ((a : Int) + b)
  | .int _ w, 2 => kept w ((a : Int) - b)
  | .int _ w, 3 => kept w ((a : Int) * b)
  | .int _ w, 4 => kept w ((a : Int) * b + c)
  | .int sg w, 6 => (if readInt sg w b < readInt sg w a then b else a, 0#7)
  | .int sg w, 7 => (if readInt sg w a < readInt sg w b then b else a, 0#7)
  | .int _ w, 8 => kept w (sext a w).natAbs
  | .int _ w, 9 => kept w (-(a : Int))
  | .int _ _, 14 => (a &&& b, 0#7)
  | .int _ _, 15 => (a ||| b, 0#7)
  | .int _ _, 16 => (a ^^^ b, 0#7)
  | .int _ w, 17 => (if w ≤ b then 0 else a * 2 ^ b % 2 ^ w, 0#7)
  | .int sg w, 18 => kept w (readInt sg w a / (2 ^ min b w : Nat))
  | .int sg w, 19 => clippedTo sg w (readInt sg w a + readInt sg w b)
  | _, _ => (a, 0#7)

/-- A value with its type. -/
abbrev NestValue := Nat × Nat × Nat

/-- The value of an operation on the values before it; `ver` gives the version of each built-in table. -/
def nestOp (ver : Nat → Nat) (x : NestOp) (vals : List NestValue) : NestValue :=
  let t := typeOf x.ty x.sg
  let r : Rounding := ⟨(roundModeOf x.rounding).getD .rne, 0⟩
  let at' := fun (k : Nat) => vals.getD k (0, 0, 0)
  let a := (at' x.a).2.2
  let b := (at' x.b).2.2
  let c := (at' x.c).2.2
  match x.op with
  | 11 => (x.ty, x.sg, (convert (typeOf (at' x.a).1 (at' x.a).2.1) t 0 false r a).1)
  | 12 =>
    let holds := match t with
      | .flt g => (fCmp g x.code a b).1
      | .int sg w => intCond x.code (readInt sg w a) (readInt sg w b)
    (9, 0, if holds then 1 else 0)
  | 13 => (x.ty, x.sg, if a ≠ 0 then b else c)
  | 20 => (x.ty, x.sg, (builtinTable (builtinSegments (ver x.imm)) x.imm a).1)
  | 21 => (x.ty, x.sg, nestConst t x.imm)
  | 22 => (x.ty, x.sg, (nestArith (match x.code with | 0 => 1 | 1 => 6 | _ => 7) t r a b c).1)
  | op => (x.ty, x.sg, (nestArith op t r a b c).1)

/-! Instances (25 R412, R413). -/

/-- A row at indices and parameters. -/
def AffineRow.at (row : AffineRow) (params : List Word) (ix : List Int) : Int :=
  (List.zipWith (fun c i => c * i) row.index ix).sum + (List.zipWith (fun (c : Int) (p : Word) => c * p.toInt) row.param params).sum + row.const

/-- The address of an array's element at subscripts, row-major. -/
def ArrayRecord.address (x : ArrayRecord) (params : List Word) (ix : List Int) : Nat :=
  let index := (x.extents.zip ix).foldl (fun (n : Int) e => n * e.1.at params [] + e.2) 0
  (((params.getD x.base 0).toNat + index * ((typeOf x.ty x.sg).width / 8 : Nat)) % 2 ^ 64).toNat

/-- The bounds that constraints put on their first unknown, of n + 1. -/
def firstBounds (n : Nat) (rows : List Linear) : Option (Int × Int) :=
  let turned := rows.map (fun r => ((r.1.drop 1 ++ r.1.take 1, r.2) : Linear))
  let own := (List.range n).foldl (fun rs _ => eliminate rs) turned
  let lows := own.filterMap (fun r => let c := r.1.headD 0; if 0 < c then some (-(r.2 / c)) else none)
  let highs := own.filterMap (fun r => let c := r.1.headD 0; if c < 0 then some (r.2 / (-c)) else none)
  match lows, highs with
  | l :: ls, h :: hs => some (ls.foldl max l, hs.foldl min h)
  | _, _ => none

/-- The points of a bounded set of n unknowns, in lexicographic order. -/
def setPoints : Nat → List Linear → List (List Int)
  | 0, rows => if rows.all (fun r => 0 ≤ r.2) then [[]] else []
  | n + 1, rows => match firstBounds n rows with
    | none => []
    | some (lo, hi) =>
      (List.range (hi - lo + 1).toNat).flatMap (fun (k : Nat) =>
        let x := lo + (k : Int)
        (setPoints n (rows.map (fun r => ((r.1.drop 1, r.2 + r.1.headD 0 * x) : Linear)))).map (fun p => x :: p))

/-- One instance of a statement: its reads in access order, its operations, its writes (25 R412, R413). Addresses are virtual. -/
def runInstance (n : Nests) (params : List Word) (ver : Nat → Nat) (st : Statement) (m : Memory) (point : List Int) : Memory :=
  let place := fun (a : NestAccess) => match n.arrays[a.array]?, n.maps[a.map]? with
    | some x, some f => (x, x.address params (f.rows.map (fun row => row.at params point)))
    | _, _ => ({ ty := 0, sg := 0, rank := 0, base := 0, extents := [] }, 0)
  let bytes := fun (x : ArrayRecord) => (typeOf x.ty x.sg).width / 8
  let reads := (st.accesses.filter (fun a => !a.write)).map (fun a =>
    let (x, va) := place a
    ((x.ty, x.sg, readNat m va (bytes x)) : NestValue))
  let vals := st.ops.foldl (fun vals x => vals ++ [nestOp ver x vals]) reads
  (st.accesses.filter (fun a => a.write)).foldl (fun m a =>
    let (x, va) := place a
    writeBytes m va (leBytes (bytes x) (vals.getD a.value (0, 0, 0)).2.2)) m

/-! Schedules (25 R413). -/

/-- A statement instance: its statement and its point. -/
abbrev NestInstance := Nat × List Int

/-- Lexicographic order of points, a shorter one before what it begins. -/
def pointLess : List Int → List Int → Bool
  | [], [] => false
  | [], _ :: _ => true
  | _ :: _, [] => false
  | a :: as, b :: bs => a < b || (a == b && pointLess as bs)

/-- A list with one more member, in order and without repeats. -/
def insertPoint (p : List Int) : List (List Int) → List (List Int)
  | [] => [p]
  | q :: qs => if pointLess p q then p :: q :: qs else if p == q then q :: qs else q :: insertPoint p qs

/-- The values of a key over instances, in increasing lexicographic order. -/
def keysOf (key : NestInstance → List Int) (xs : List NestInstance) : List (List Int) :=
  xs.foldl (fun ks x => insertPoint (key x) ks) []

/-- The order in which a subtree runs instances: a sequence its children in order, a filter the statements that it names, a band its
child once for each point of its map's output, a leaf the rest by point and then by statement. The fuel is the number of nodes. -/
def scheduleOrder (n : Nests) (params : List Word) : Nat → Nat → List NestInstance → List NestInstance
  | 0, _, _ => []
  | fuel + 1, k, xs => match n.nodes[k]? with
    | none => []
    | some x => match x.kind with
      | 1 =>
        let key := fun (y : NestInstance) => (((n.maps[x.map]?).map MapRecord.rows).getD []).map (fun row => row.at params y.2)
        (keysOf key xs).flatMap (fun p => scheduleOrder n params fuel x.first (xs.filter (fun y => key y == p)))
      | 2 => (List.range x.children).flatMap (fun i => scheduleOrder n params fuel (x.first + i) xs)
      | 3 => scheduleOrder n params fuel x.first (xs.filter (fun y => bitOf x.filter y.1))
      | _ => (keysOf Prod.snd xs).flatMap (fun p =>
          (List.range n.statements.length).flatMap (fun s => xs.filter (fun y => y.1 == s && y.2 == p)))

/-- Every instance of a container's statements. Under a sequence each child meets all of them; its filters keep what it runs. -/
def allInstances (n : Nests) (params : List Word) : List NestInstance :=
  (n.statements.zipIdx).flatMap (fun st => match n.sets[st.1.set]? with
    | some x => (setPoints x.dims (setLinear params x)).map (fun p => (st.2, p))
    | none => [])

/-- What a portable kernel writes: memory at virtual addresses after every instance of its tree has run (25 R413). The Proctor may
use any order that writes the same bytes, and may reassociate a chain of ACC operations with RED. -/
def runNests (n : Nests) (root : Nat) (params : List Word) (ver : Nat → Nat) (m : Memory) : Memory :=
  (scheduleOrder n params n.nodes.length root (allInstances n params)).foldl (fun m x => match n.statements[x.1]? with
    | some st => runInstance n params ver st m x.2
    | none => m) m

end Sys2Proof.Machine
end

