-- ==== Sys2Proof/Tests/Slice0.lean ====
section
/-! SUPPORT. Tests: ill-formed terms refused, words of the spec's encodings decoded, and for each statement a state that meets its hypotheses. -/

namespace Sys2Proof.Tests

open Sys2Proof Sys2Proof.Machine Sys2Proof.Safety

set_option linter.unusedVariables false
set_option Elab.async false

/-! A small machine: one control thread with a block of 32 lanes, a page of code, a page of data, a scratchpad range. -/

def codeVa : Nat := 0x40000000000
def dataVa : Nat := 0x40000010000
def windowVa : Nat := 0x00FFFFFFFF000000
def padPa : Nat := 0x100000000000

/-- The tables map the code page and, readable and writable, the page after it (07 R100 to R102). -/
def rigMemory (bs : List Host.Cell) : Memory :=
  bs.foldl (fun m c => cellSet m c.1 c.2) (writeNat (testMemory [] []) (testRoot + 0x30000 + 8) 8 (0x210000 + 0x0D))

def rigKernel : Kernel :=
  { card := { ktab := 0, nform := 1, pri := 0, depf := false, lret := false, pdies := 0, maxres := 1, splen := 1, spoff := 0, stk := 0,
              stat := 0, args := [], edges := [], preloads := [], regions := [], hasReg := false }
    image := 1, kidx := 0, dom := 1, asid := 1, root := testRoot, unit := 0, prio := 0, since := 0, acceptedAt := 0, edges := []
    streams := [], nextForm := 1, forms := [], fdone := 0, ended := none, done := none, paired := false, aged := 0, reserved := none
    reservedFor := 0, reservedAt := 0, journal := none, stopOrder := 0 }

def rigImage : Image :=
  { dom := 1, base := codeVa, ktab := 0, level := 0, vllo := 256, vlhi := 2048, tver := [], order := [0], uses := [], nests := none, sections := []
    kernels := [{ entry := 0x1000, sldr := 0x2000, threads := 1, framea := 0, frameb := 0, spillb := 0, seat := [1] }], unloading := none }

def rigDomain : Domain :=
  { keyBlock := [], memory := 0, sharing := 0, command := [], transfer := [], epub := [], tag := 0, cseq := 0, root := testRoot, dying := none }

/-- The machine with a thread in slot 0, an actor, and bytes of memory. -/
def rig (who : Actor) (t : Thread) (bs : List Host.Cell := []) : State :=
  let p := { State.reset.proctor with frames := [(1, { dom := 1, nsh := false })], tableNext := 0x40000,
                                       images := [(1, rigImage)], nextImage := 2, domains := [(1, rigDomain)] }
  { State.reset with
    actor := who, power := .up, sys := { State.reset.sys with mem := rigMemory bs }
    cores := [(0, { Core.reset with cur := 0xFFFFFFF0, nxt := 0xFFFFFFF0 })], threads := [(0, t)]
    sched := { State.reset.sched with kernels := [(0, rigKernel)] }, proctor := p }

/-- A control thread with these registers. -/
def scalarThread (gs : List (BitVec 5 × Nat)) : Thread :=
  let t := testThread false
  { t with ctx := gs.foldl (fun c r => c.wr r.1 (BitVec.ofNat 64 r.2)) t.ctx }

def agent (t : Thread) (bs : List Host.Cell := []) : Agent := ⟨t.ctx, threadAccessor (rig (.thread 0) t bs) 0 t, some 0, some t⟩

theorem rig_agent (t : Thread) (bs : List Host.Cell) : agentOf (rig (.thread 0) t bs) = some (agent t bs) := rfl
theorem rig_ctx (t : Thread) (bs : List Host.Cell) : (rig (.thread 0) t bs).ctx = some t.ctx := rfl

/-- A thread whose group is the one that starts with it, its sequencer running, changed by f. -/
def groupOfRig (f : Group → Group) : Group :=
  let g := Group.start 0 1
  f { g with running := true, core := { g.core with pc := w64 codeVa } }

def vectorThread (f : Group → Group) : Thread := { testThread true with group := some (groupOfRig f) }

def vrig (f : Group → Group) (bs : List Host.Cell := []) : State := rig (.sequencer 0) (vectorThread f) bs

def vec (f : Group → Group) : VCtx :=
  { tid := 0, t := vectorThread f, g := groupOfRig f, parts := partsOf 0 (vectorThread f), iaddr := (groupOfRig f).core.pc }

theorem vrig_vctx (f : Group → Group) (bs : List Host.Cell) : vctx (vrig f bs) 0 = some (vec f) := rfl

/-- The group with w registers, VL and whatever else a core holds. -/
def withCore (h : GroupCore → GroupCore) (g : Group) : Group := { g with core := h g.core }
def withVl (n : Nat) (ws : List (Nat × Nat) := []) : Group → Group :=
  withCore (fun c => { c with vl := n, w := ws.foldl (fun w x => w.setIfInBounds x.1 (BitVec.ofNat 64 x.2)) c.w })

/-- An open strip that holds nothing. -/
def emptyStrip : Strip :=
  { ckpt := { core := (groupOfRig id).core, cells := { vregs := [], masks := [] } }, effects := [], written := [], flags := 0, k := 0
    grant := 0, setvl := true }
def inStrip (f : Group → Group) : Group → Group := fun g => { f g with strip := some emptyStrip }

theorem vrig_ready (f : Group → Group) (bs : List Host.Cell) (i : Instr) (hq : (groupOfRig f).queue = []) (ha : (groupOfRig f).core.am = 0)
    (hs : (groupOfRig f).core.streams = []) (hg : (groupOfRig f).gathers = []) (hm : (groupOfRig f).core.gmark = [])
    (hr : (groupOfRig f).quiesce = false := by rfl) :
    Ready (vrig f bs) 0 (vec f) i where
  actor := rfl
  ctx := rfl
  queue := hq
  recessed := fun _ => hr
  am := fun _ => ha
  unbound := fun r _ => by rw [show (vec f).g.core.streams = [] from hs]; rfl
  taken := fun r _ x hx => by rw [show (vec f).g.gathers = [] from hg] at hx; cases hx
  unmarked := fun r _ m hx => by rw [show (vec f).g.core.gmark = [] from hm] at hx; cases hx

theorem vrig_placed (f : Group → Group) (bs : List Host.Cell) (hp : (vec f).parts = [⟨0, 0, 0, 0, 32⟩])
    (ht : (groupOfRig f).core.tags = []) : Placed (vrig f bs) (vec f) where
  lanes := fun p hx => by
    have hl : (vec f).lanes = 32 := by unfold VCtx.lanes; rw [hp]
    rw [hp] at hx; rw [List.mem_singleton.mp hx, hl]; decide
  apart := by rw [hp]; simp
  vregs := rfl
  masks := rfl
  slices := rfl
  tags := by rw [show (vec f).g.core.tags = [] from ht]; rfl

theorem rig_reachable (t : Thread) (who : Actor) (bs : List Host.Cell) (pa : Nat) (hk : (physKind pa matches .device _) = false)
    (hr : lostNode (rig who t bs) pa = none) : Reachable (rig who t bs) pa where
  memory := fun off h => by rw [h] at hk; cases hk
  route := hr
  quiet := by show (0 : Word).getLsbD 63 = false; decide

theorem reachable_of (s : State) (pa : Nat) (hk : (physKind pa matches .device _) = false) (hr : lostNode s pa = none)
    (hq : quiet s) : Reachable s pa where
  memory := fun off h => by rw [h] at hk; cases hk
  route := hr
  quiet := hq

theorem rig_quiet (t : Thread) (who : Actor) (bs : List Host.Cell) : quiet (rig who t bs) := by
  show (0 : Word).getLsbD 63 = false; decide

/-! Ill-formed terms, one for each check of WellFormed. -/

theorem test_lq_odd_register : (Instr.lq 3 1 0).wf = false := by decide +kernel
theorem test_fadd_reserved_type : (Instr.fadd 1 2 3 8).wf = false := by decide +kernel
theorem test_fcvt_same_type : (Instr.fcvt 1 2 0 0).wf = false := by decide +kernel
theorem test_ftoi_reserved_rounding : (Instr.ftoi 1 2 5 0).wf = false := by decide +kernel
theorem test_atomic_reserved_scope : (Instr.amoadd 1 2 3 0 0 3).wf = false := by decide +kernel
theorem test_atomic_reserved_size : (Instr.amoadd 1 2 3 1 0 1).wf = false := by decide +kernel
theorem test_reserved_control_register : (Instr.csrr 1 0x003).wf = false := by decide +kernel
theorem test_trap_of_a_service : (Instr.trap 5).wf = false := by decide +kernel

/-- A vector instruction with these fields. -/
def vf (vd vs1 vs2 vs3 : BitVec 6) (ty : BitVec 4) (fn : BitVec 24) : VFields := ⟨vd, vs1, vs2, vs3, 0, false, ty, fn⟩

theorem test_type_of_layout : (Instr.vsqrt (vf 1 2 0 0 8 0)).wf = false := by decide +kernel
theorem test_w_register_range : (Instr.vld (vf 1 16 0 0 0 0)).wf = false := by decide +kernel
theorem test_mask_register_range : (Instr.vcmp (vf 8 1 2 0 0 0)).wf = false := by decide +kernel
theorem test_loop_counter_range : (Instr.vloop (vf 6 1 0 0 0 0)).wf = false := by decide +kernel
theorem test_tile_number : (Instr.vtrn8 (vf 4 0 0 0 0 0)).wf = false := by decide +kernel
theorem test_unused_field : (Instr.vabs (vf 1 2 3 0 0 0)).wf = false := by decide +kernel
theorem test_mask_not_taken : (Instr.vmand ⟨1, 2, 3, 0, 1, false, 0, 0⟩).wf = false := by decide +kernel
theorem test_fn_setvl : (Instr.setvl (vf 1 2 0 0 0 0x010000)).wf = false := by decide +kernel
theorem test_fn_memory : (Instr.vld (vf 1 2 0 0 0 0x200000)).wf = false := by decide +kernel
theorem test_fn_packed : (Instr.vldz (vf 1 2 3 4 0 0x000100)).wf = false := by decide +kernel
theorem test_fn_zero : (Instr.vend (vf 0 0 0 0 0 1)).wf = false := by decide +kernel
theorem test_fn_sign_only : (Instr.vbind (vf 48 1 0 0 0 1)).wf = false := by decide +kernel
theorem test_fn_atomic : (Instr.vamo (vf 1 2 3 4 14 0x680000)).wf = false := by decide +kernel
theorem test_fn_window : (Instr.vwin (vf 0 1 2 0 14 0x080000)).wf = false := by decide +kernel
theorem test_fn_offset : (Instr.vldl (vf 1 2 0 0 0 4096)).wf = false := by decide +kernel
theorem test_fn_count : (Instr.vqpost (vf 0 1 2 0 0 0)).wf = false := by decide +kernel
theorem test_fn_source : (Instr.vadd (vf 1 2 0 0 0 0x400000)).wf = false := by decide +kernel
theorem test_fn_rounding : (Instr.vadd (vf 1 2 3 0 8 0x040000)).wf = false := by decide +kernel
theorem test_fn_condition : (Instr.vcmp (vf 1 2 3 0 8 0x060000)).wf = false := by decide +kernel
theorem test_fn_conversion : (Instr.vcvt (vf 1 2 0 0 0 0)).wf = false := by decide +kernel
theorem test_fn_complex : (Instr.vcmul (vf 1 2 3 0 0 2)).wf = false := by decide +kernel
theorem test_fn_permute : (Instr.vbcast (vf 1 2 3 0 0 0)).wf = false := by decide +kernel
theorem test_fn_rows : (Instr.vredsum (vf 1 2 0 0 0 0x010000)).wf = false := by decide +kernel
theorem test_fn_table : (Instr.vfn (vf 1 2 0 0 0 24)).wf = false := by decide +kernel
theorem test_fn_user_table : (Instr.vtblld (vf 0 1 2 0 0 15)).wf = false := by decide +kernel
theorem test_fn_jump : (Instr.vjmp (vf 0 1 2 0 0 0x700000)).wf = false := by decide +kernel
theorem test_fn_walu : (Instr.vwaluAdd (vf 1 2 3 0 0 1)).wf = false := by decide +kernel
theorem test_fn_vmode : (Instr.vmodeVec (vf 0 0 0 0 0 1)).wf = false := by decide +kernel
theorem test_fn_zero_flag : (Instr.mwb (vf 0 8 0 0 0 2)).wf = false := by decide +kernel
theorem test_fn_pass : (Instr.mpass (vf 1 2 8 0 0 4)).wf = false := by decide +kernel
theorem test_fn_quant : (Instr.mwbQ (vf 1 8 20 0 3 6)).wf = false := by decide +kernel
theorem test_fn_tile_read : (Instr.mldt (vf 1 2 3 4 0 1)).wf = false := by decide +kernel
theorem test_fn_slot : (Instr.sfree (vf 0 0 0 0 0 8)).wf = false := by decide +kernel
theorem test_fn_xop : (Instr.xop (vf 1 2 3 4 0 0x10)).wf = false := by decide +kernel
theorem test_fn_start : (Instr.sstart (vf 1 2 3 4 0 0x400)).wf = false := by decide +kernel

/-! States and operands that meet the hypotheses of the statements, in their order. -/

theorem witness_integer_registers : ∃ s c i rd v, State.ctx s = some c
    ∧ integerTable (c.rd (integerSources i).1) (c.rd (integerSources i).2) i = some (rd, v) ∧ v = 0xFFFFFFFFFFFFFFFF :=
  ⟨rig (.thread 0) (scalarThread [(1, 7)]), (scalarThread [(1, 7)]).ctx, .div 3 1 2, 3, _, rfl, by decide +kernel, rfl⟩

theorem witness_integer_immediates : ∃ s c i rd v, State.ctx s = some c
    ∧ immediateTable (c.rd (immediateSource i)) i = some (rd, v) ∧ v = 0xFFFFFFFFFFFFFFFF :=
  ⟨rig (.thread 0) (scalarThread [(1, 2 ^ 63)]), (scalarThread [(1, 2 ^ 63)]).ctx, .srai 3 1 63, 3, _, rfl, by decide +kernel, rfl⟩

theorem witness_scalar_floats : ∃ s c i rd x g, State.ctx s = some c ∧ Instr.wf i = true ∧ floatTable c i = some (rd, x, g) ∧ g ≠ 0 :=
  ⟨rig (.thread 0) (scalarThread []), (scalarThread []).ctx, .fdiv 3 1 2 0, 3, 0x7FC00000, 0b0000001, rfl, by decide +kernel, by decide +kernel, by decide⟩

theorem witness_branches : ∃ s c p q off, State.ctx s = some c ∧ branchTable c (.beq 0 0 0x8000) = some (p, off) ∧ p
    ∧ branchTable c (.bne 0 0 0x7FFF) = some (q, 0x7FFF) ∧ ¬ q
    ∧ (wrap ((c.rd 1).toNat + (0 : BitVec 16).toInt)).toNat % 4 = 0 ∧ (wrap ((c.rd 1).toNat + (3 : BitVec 16).toInt)).toNat % 4 ≠ 0 :=
  ⟨rig (.thread 0) (scalarThread [(1, 0x00FFFFFFFEFF0000)]), (scalarThread [(1, 0x00FFFFFFFEFF0000)]).ctx, _, _, _, rfl, rfl, rfl, rfl,
    fun h => h rfl, by decide +kernel, by decide +kernel⟩

/-- A plain load of the last 16 bytes of the code page. -/
theorem witness_plain_loads : ∃ s a pa, agentOf s = some a ∧ (Instr.lq 2 1 0xFFF0).wf = true
    ∧ loadForm (.lq 2 1 0xFFF0) = some (2, 1, -16, 16, false) ∧ addressOf a.ctx 1 (-16) % 16 = 0
    ∧ translate s a.acc (addressOf a.ctx 1 (-16)) .read = .ok pa ∧ Reachable s pa ∧ poisonAt s.sys pa 16 = none :=
  ⟨rig (.thread 0) (scalarThread [(1, dataVa)]), agent (scalarThread [(1, dataVa)]), 0x20FFF0, rfl, by decide +kernel, rfl, by decide +kernel, by decide +kernel,
    rig_reachable _ _ _ _ (by decide +kernel) (by decide +kernel), by decide +kernel⟩

/-- A plain store to the data page, and a filling one to the first byte of the scratchpad window. -/
theorem witness_stores :
    (∃ s a pa, Memory.wf s.sys.mem = true ∧ cellsWf s.sys.granules = true ∧ agentOf s = some a ∧ storeForm (.sq 2 1 0) = some (2, 1, 0, 16, false)
      ∧ addressOf a.ctx 1 0 % 16 = 0 ∧ translate s a.acc (addressOf a.ctx 1 0) .write = .ok pa ∧ Reachable s pa
      ∧ external a (addressOf a.ctx 1 0) = false)
    ∧ (∃ s a pa, Memory.wf s.sys.mem = true ∧ agentOf s = some a ∧ storeForm (.sbFl 2 1 0) = some (2, 1, 0, 1, true)
      ∧ 0x00FFFFFFFF000000 ≤ addressOf a.ctx 1 0 ∧ translate s a.acc (addressOf a.ctx 1 0) .write = .ok pa ∧ Reachable s pa
      ∧ external a (addressOf a.ctx 1 0) = false) :=
  ⟨⟨rig (.thread 0) (scalarThread [(1, dataVa)]), agent (scalarThread [(1, dataVa)]), 0x210000, by decide +kernel, rfl, rfl, rfl, by decide +kernel,
      by decide +kernel, rig_reachable _ _ _ _ (by decide +kernel) (by decide +kernel), by decide +kernel⟩,
    ⟨rig (.thread 0) (scalarThread [(1, windowVa)]), agent (scalarThread [(1, windowVa)]), padPa, by decide +kernel, rfl, rfl, by decide +kernel,
      by decide +kernel, rig_reachable _ _ _ _ (by decide +kernel) (by decide +kernel), by decide +kernel⟩⟩

/-- The rig with one granule of the scratchpad full. -/
def fullRig (t : Thread) (bs : List Host.Cell := []) : State :=
  { rig (.thread 0) t bs with sys := { (rig (.thread 0) t bs).sys with granules := [(padPa / 16, 1)] } }

/-- A consuming load of a full granule, and one that waits for the empty granule after it. -/
theorem witness_consuming_loads :
    let a := agent (scalarThread [(1, windowVa)])
    let s := fullRig (scalarThread [(1, windowVa)])
    agentOf s = some a ∧ cellsWf s.sys.granules = true ∧ consumingForm (.ldWc 2 1 8) = some (2, 1, 8, 8, false, true)
      ∧ addressOf a.ctx 1 8 % 8 = 0 ∧ 0x00FFFFFFFF000000 ≤ addressOf a.ctx 1 8
      ∧ translate s a.acc (addressOf a.ctx 1 8) .read = .ok (padPa + 8) ∧ Reachable s (padPa + 8)
      ∧ (∀ u, (padPa + 8) / 16 ≤ u → u * 16 < padPa + 8 + 8 → cellGet s.sys.granules u = 0b01)
      ∧ poisonAt s.sys (padPa + 8) 8 = none ∧ pairSettled a = true
      ∧ translate s a.acc (addressOf a.ctx 1 16) .read = .ok (padPa + 16) ∧ Reachable s (padPa + 16)
      ∧ cellGet s.sys.granules ((padPa + 16) / 16) = 0b00 := by
  refine ⟨rfl, by decide +kernel, rfl, by decide +kernel, by decide +kernel, by decide +kernel,
    reachable_of _ _ (by decide +kernel) (by decide +kernel) (rig_quiet (scalarThread []) (.thread 0) []), ?_,
    by decide +kernel, by decide +kernel, by decide +kernel,
    reachable_of _ _ (by decide +kernel) (by decide +kernel) (rig_quiet (scalarThread []) (.thread 0) []), by decide +kernel⟩
  intro u h1 h2
  have : u = padPa / 16 := by simp only [padPa] at *; omega
  subst this; decide +kernel

theorem witness_atomics : ∃ s a pa, Memory.wf s.sys.mem = true ∧ cellsWf s.sys.granules = true ∧ agentOf s = some a
    ∧ (Instr.amocas 3 1 2 1 3 2).wf = true ∧ atomicForm (.amocas 3 1 2 1 3 2) = some (3, 1, 2, 3, 2) ∧ (a.ctx.rd 1).toNat % 4 = 0
    ∧ translate s a.acc (a.ctx.rd 1).toNat (.atomic false) = .ok pa ∧ Reachable s pa ∧ poisonAt s.sys pa 4 = none ∧ Solo a
    ∧ orderMet a 3 :=
  ⟨rig (.thread 0) (scalarThread [(1, dataVa + 0xFFFC)]), agent (scalarThread [(1, dataVa + 0xFFFC)]), 0x21FFFC, by decide +kernel, rfl, rfl,
    by decide +kernel, rfl, by decide +kernel, by decide +kernel, rig_reachable _ _ _ _ (by decide +kernel) (by decide +kernel), by decide +kernel,
    fun t h => by cases h; exact ⟨rfl, rfl⟩, fun _ t h => by cases h; decide +kernel⟩

/-- Nothing to wait for; blocks that run; a write not acknowledged. -/
theorem witness_fences :
    (∃ s a t, agentOf s = some a ∧ pairSettled a = true ∧ a.thread = some t ∧ vectorDone t = true ∧ blocksDone t = true
      ∧ ∀ g, t.group = some g → ∀ e ∈ g.acks, e.2 = 0)
    ∧ (∃ s a t, agentOf s = some a ∧ pairSettled a = true ∧ a.thread = some t ∧ vectorDone t = false ∧ blocksDone t = false)
    ∧ (∃ s a t g, agentOf s = some a ∧ pairSettled a = true ∧ a.thread = some t ∧ t.group = some g ∧ ∃ e ∈ g.acks, e.2 ≠ 0) :=
  ⟨⟨rig (.thread 0) (scalarThread []), agent (scalarThread []), _, rfl, by decide +kernel, rfl, by decide +kernel, by decide +kernel,
      fun g h e he => by cases h; cases he⟩,
    ⟨rig (.thread 0) (vectorThread id), agent (vectorThread id), _, rfl, by decide +kernel, rfl, by decide +kernel, by decide +kernel⟩,
    ⟨rig (.thread 0) (vectorThread (fun g => { g with acks := [(0, 1)] })), agent _, _, _, rfl, by decide +kernel, rfl, rfl, (0, 1), by decide +kernel, by decide⟩⟩

/-- Bytes of a barrier object at the first bytes of the scratchpad. -/
def barrierBytes (n : Nat) : List Host.Cell := (bytesOf 16 n).zipIdx.map (fun x => (padPa + x.2, x.1))

/-- BINIT at both ends of its count, a fresh object of two forms, one that form 0 has arrived at, a retired one; and phase
tokens at both ends of BWAIT's range. -/
theorem witness_barriers :
    (∀ n : Nat, n = 1 ∨ n = 64 ∨ n = 65 → ∃ s a, Memory.wf s.sys.mem = true ∧ agentOf s = some a ∧ pairSettled a = true ∧ a.f < 64
      ∧ (a.ctx.rd 1).toNat % 16 = 0 ∧ 0x00FFFFFFFF000000 ≤ (a.ctx.rd 1).toNat ∧ Reachable s padPa
      ∧ translate s a.acc (a.ctx.rd 1).toNat .write = .ok padPa ∧ external a (a.ctx.rd 1).toNat = false ∧ (a.ctx.rd 2).toNat = n)
    ∧ (∀ arrv phase pend exp : Nat, (arrv, phase, pend, exp) ∈ [(0, 1, 0, 2), (1, 32767, 1, 2), (0, 0, 0, 0)] →
      ∃ s a, agentOf s = some a ∧ translate s a.acc (a.ctx.rd 1).toNat (.atomic false) = .ok padPa ∧ poisonAt s.sys padPa 16 = none
        ∧ BarrierOk arrv phase pend exp ∧ leValue (seenBytes s a padPa 16) = barrierValue arrv phase pend exp) := by
  constructor
  · intro n h
    refine ⟨rig (.thread 0) (scalarThread [(1, windowVa), (2, n)]), agent (scalarThread [(1, windowVa), (2, n)]), ?_⟩
    rcases h with rfl | rfl | rfl <;>
      exact ⟨by decide +kernel, rfl, by decide +kernel, by decide +kernel, by decide +kernel, by decide +kernel,
        rig_reachable _ _ _ _ (by decide +kernel) (by decide +kernel), by decide +kernel, by decide +kernel, by decide +kernel⟩
  · intro arrv phase pend exp h
    refine ⟨rig (.thread 0) (scalarThread [(1, windowVa)]) (barrierBytes (barrierValue arrv phase pend exp)),
      agent (scalarThread [(1, windowVa)]) (barrierBytes (barrierValue arrv phase pend exp)), rfl, ?_⟩
    simp only [List.mem_cons, Prod.mk.injEq, List.not_mem_nil, or_false] at h
    rcases h with ⟨rfl, rfl, rfl, rfl⟩ | ⟨rfl, rfl, rfl, rfl⟩ | ⟨rfl, rfl, rfl, rfl⟩ <;>
      exact ⟨by decide +kernel, by decide +kernel, by unfold BarrierOk; decide +kernel, by decide +kernel⟩

/-- VBLK with 63 blocks and full, VREPLY with a reply and empty, no lane group, and WAITC at and above its operand. -/
theorem witness_blocks_and_replies :
    (∀ n : Nat, n = 63 ∨ n = 64 → ∃ s a t g, agentOf s = some a ∧ a.tid = some 0 ∧ a.thread = some t ∧ t.group = some g
      ∧ (a.ctx.rd 1).toNat % 4 = 0 ∧ g.vblk.length = n)
    ∧ (∀ vs : List Word, ∃ s a t g, agentOf s = some a ∧ a.tid = some 0 ∧ a.thread = some t ∧ t.group = some g ∧ g.vreply = vs)
    ∧ (∃ s a t, agentOf s = some a ∧ a.tid = some 0 ∧ a.thread = some t ∧ t.group = none)
    ∧ (∃ s a t, agentOf s = some a ∧ a.tid = some 0 ∧ a.thread = some t ∧ t.isShadow = false
      ∧ countsOf s 0 t = (0, 2, 0, 0)) :=
  ⟨fun n h => ⟨rig (.thread 0) (vectorThread (fun g => { g with vblk := List.replicate n ⟨0, #v[0, 0, 0, 0], 0, 0, false⟩ })), agent _, _, _,
      rfl, rfl, rfl, rfl, rfl, by rcases h with rfl | rfl <;> rfl⟩,
    fun vs => ⟨rig (.thread 0) (vectorThread (fun g => { g with vreply := vs })), agent _, _, _, rfl, rfl, rfl, rfl, rfl⟩,
    ⟨rig (.thread 0) { testThread false with group := none }, agent _, _, rfl, rfl, rfl, rfl⟩,
    ⟨rig (.thread 0) (vectorThread (fun g => { g with notifies := [⟨0, 0, 1⟩, ⟨8, 8, 1⟩] })), agent _, _, rfl, rfl, rfl, rfl, by decide +kernel⟩⟩

/-- A chart that gives block 1 to the thread too, one that names a slot without a thread, and dies to attach and release. -/
theorem witness_seating : ∃ s a t, agentOf s = some a ∧ a.tid = some 0 ∧ a.thread = some t ∧ keysRise s.cores = true
    ∧ (a.ctx.rd 1).toNat < 2 ^ 32 ∧ seatRefusal s 0 t (BitVec.ofNat 32 (a.ctx.rd 1).toNat) = none
    ∧ (a.ctx.rd 2).toNat < 2 ^ 32 ∧ seatRefusal s 0 t (BitVec.ofNat 32 (a.ctx.rd 2).toNat) = some 35
    ∧ 2 ^ 32 ≤ (a.ctx.rd 3).toNat
    ∧ (∀ k, k < 8 → ∀ g, s.group (0 / 8 * 8 + k) = some g → g.idle = false)
    ∧ t.group ≠ none ∧ (a.ctx.rd 4).toNat < 16 ∧ BitVec.ofNat 4 (a.ctx.rd 4).toNat &&& ~~~ t.att ≠ 0#4
    ∧ t.lanes = 32 * t.partnerLanes
    ∧ (∀ d, d < 4 → (BitVec.ofNat 4 (a.ctx.rd 4).toNat).getLsbD d = true → t.att.getLsbD d = false → ∃ p ∈ t.partners, p.die = d)
    ∧ (BitVec.ofNat 4 (a.ctx.rd 4).toNat).getLsbD (0 / 384) = false :=
  let t : Thread := { vectorThread id with
    ctx := ([(1, 0xFFFFFF00), (2, 0xFFFFFF50), (3, 2 ^ 32), (4, 2)] : List (BitVec 5 × Nat)).foldl (fun c r => c.wr r.1 (BitVec.ofNat 64 r.2)) ScalarCtx.zero
    partners := [⟨1, 48, 0, 0, 1⟩] }
  ⟨rig (.thread 0) t, agent t, t, rfl, rfl, rfl, by and_intros <;> decide +kernel⟩

/-- The rig with pigeonhole 0. -/
def holeRig (t : Thread) (h : Hole) (bs : List Host.Cell := []) : State :=
  { rig (.thread 0) t bs with fabric := { State.reset.fabric with holes := [(0, h)] } }

def ownHole (count : Nat) : Hole := { Hole.reset with owner := some ⟨0, 0, 0⟩, depth := 256, count := count }

theorem hole_agent (t : Thread) (h : Hole) (bs : List Host.Cell) : agentOf (holeRig t h bs) = some (agent t bs) := rfl

theorem readable64_of (s : State) (a : Agent) (va : Nat)
    (h : ∀ k, k < 4 → ∃ pa, pa ∈ [(0x200000 + 16 * k : Nat)] ∧ translate s a.acc (va + 16 * k) .read = .ok pa
      ∧ (physKind pa matches .device _) = false ∧ lostNode s pa = none ∧ poisonAt s.sys pa 16 = none
      ∧ List.replicate 16 0 = seenBytes s a pa 16) (hq : quiet s) : Readable64 s a va (List.replicate 64 0) :=
  ⟨rfl, fun k hk => by
    obtain ⟨pa, _, h1, h2, h3, h4, h5⟩ := h k hk
    refine ⟨pa, h1, reachable_of _ _ h2 h3 hq, h4, ?_⟩
    rw [← h5]
    have : k = 0 ∨ k = 1 ∨ k = 2 ∨ k = 3 := by omega
    rcases this with rfl | rfl | rfl | rfl <;> rfl⟩

theorem translate_window (s : State) (a : Accessor) (va : Nat) (k : Access) (hp : a.priv = false) (h1 : windowVa ≤ va) (h2 : va < 2 ^ 56)
    (hk : (k == .fetch) = false) (lo : a.tr.spLo ≤ va - windowVa) (hi : va - windowVa < a.tr.spHi) :
    translate s a va k = .ok (aperture a.cluster (va - windowVa)) := by
  have h1' : windowBase ≤ va := h1
  have lo' : a.tr.spLo ≤ va - windowBase := lo
  have hi' : va - windowBase < a.tr.spHi := hi
  unfold Sys2Proof.Machine.translate
  rw [hp, if_neg (by simp), if_neg (by omega), if_pos h1']
  rw [if_neg (by simp only [Bool.or_eq_true, decide_eq_true_eq]; omega), if_neg (by rw [hk]; exact Bool.false_ne_true)]
  rfl

theorem writable64_of (s : State) (a : Agent) (va pa : Nat)
    (h : ∀ k, k < 4 → (physKind (pa + 16 * k) matches .device _) = false ∧ lostNode s (pa + 16 * k) = none) (hq : quiet s)
    (ht : ∀ k, k < 4 → ∀ sys : MemSys, translate { s with sys := sys } a.acc (va + 16 * k) .write = .ok (pa + 16 * k)) :
    Writable64 s a va pa :=
  fun k hk => ⟨reachable_of _ _ (h k hk).1 (h k hk).2 hq, fun sys _ _ => ht k hk sys⟩

/-- QCFG of a pigeonhole of depth 256, without and with a remote producer; its owner's post, take and waits, at an empty and a
full pigeonhole, and the post of a remote producer with one free slot and with none. -/
theorem witness_pigeonholes :
    (∀ n, n = 0 ∨ n = 1 ∨ n = 255 ∨ n = 256 → ∃ s a t bs, agentOf s = some a ∧ a.tid = some 0 ∧ a.thread = some t ∧ t.role = .solo ∧ t.events = []
      ∧ Memory.wf s.sys.mem = true ∧ cellsWf s.sys.granules = true ∧ quiet s ∧ (a.ctx.rd 1).toNat = handleBits 0 0 0
      ∧ (∃ o, (s.hole 0).owner = some o ∧ o.lnum = t.lnum ∧ o.form = t.form) ∧ (s.hole 0).count = n
      ∧ (a.ctx.rd 2).toNat % 64 = 0 ∧ Readable64 s a (a.ctx.rd 2).toNat bs ∧ (∃ pa, Writable64 s a (a.ctx.rd 3).toNat pa)
      ∧ poisonAt s.sys (entryAddress 0 (s.hole 0) (s.hole 0).head) 64 = none
      ∧ (s.hole 0).notify ≠ a.ctx.rd 2 ∧ (s.hole 0).notify = a.ctx.rd 4 ∧ entryAddress 0 (s.hole 0) (s.hole 0).head % 64 = 0
      ∧ (s.hole 0).head < 256 ∧ (s.hole 0).tail < 256 ∧ (s.hole 0).depth = 256)
    ∧ (∀ remote, remote = none ∨ remote = some (3, 5, 7, 7) → ∃ s a, agentOf s = some a
      ∧ (a.ctx.rd 2).toNat = configBits remote (0x10000 - 64 * 256) 256 ∧ ConfigOk 0 remote (0x10000 - 64 * 256) 256
      ∧ (s.hole 0).owner = none ∧ a.acc.tr.spLo ≤ 0x10000 - 64 * 256 ∧ 0x10000 - 64 * 256 + 64 * 256 ≤ a.acc.tr.spHi
      ∧ (remote = none ∨ ∃ t, a.thread = some t ∧ t.acked = true))
    ∧ (∀ cnt, cnt ≤ 1 → ∃ s a c, agentOf s = some a ∧ (s.hole 0).owner ≠ none ∧ (s.hole 0).remote = some 0 ∧ (s.hole 0).counter = some c
      ∧ (s.hole 0).frz = false ∧ c.cnt = cnt ∧ c.parity = evenParity c.cnt) := by
  let t := scalarThread [(2, codeVa), (3, windowVa)]
  refine ⟨fun n h => ?_, fun remote h => ?_, fun cnt h => ?_⟩
  · refine ⟨holeRig t (ownHole n), agent t, t, List.replicate 64 0, ?_⟩
    rcases h with rfl | rfl | rfl | rfl <;>
      exact ⟨rfl, rfl, rfl, rfl, rfl, by decide +kernel, rfl, rig_quiet (scalarThread []) (.thread 0) [], by decide +kernel,
        ⟨⟨0, 0, 0⟩, rfl, rfl, rfl⟩, rfl, by decide +kernel, readable64_of _ _ _ (by decide +kernel) (rig_quiet (scalarThread []) (.thread 0) []),
        ⟨padPa, writable64_of _ _ _ _ (by decide +kernel) (rig_quiet (scalarThread []) (.thread 0) []) (fun k hk sys => by
          have : k = 0 ∨ k = 1 ∨ k = 2 ∨ k = 3 := by omega
          rw [translate_window _ _ _ _ rfl (by rcases this with rfl | rfl | rfl | rfl <;> decide +kernel)
            (by rcases this with rfl | rfl | rfl | rfl <;> decide +kernel) rfl (by rcases this with rfl | rfl | rfl | rfl <;> decide +kernel)
            (by rcases this with rfl | rfl | rfl | rfl <;> decide +kernel)]
          rcases this with rfl | rfl | rfl | rfl <;> decide +kernel)⟩, by decide +kernel⟩
  · rcases h with rfl | rfl
    · exact ⟨rig (.thread 0) (scalarThread [(2, 0xC000 * 2 ^ 8 + 255)]), agent (scalarThread [(2, 0xC000 * 2 ^ 8 + 255)]), rfl, by decide +kernel,
        by simp [ConfigOk], rfl, by decide +kernel, by decide +kernel, .inl rfl⟩
    · let t : Thread := { scalarThread [(2, configBits (some (3, 5, 7, 7)) 0xC000 256)] with acked := true }
      exact ⟨rig (.thread 0) t, agent t, rfl, by decide +kernel, ⟨rfl, by decide, by decide, by decide, fun d c k sl h => by cases h; decide⟩, rfl, by decide +kernel, by decide +kernel, .inr ⟨t, rfl, rfl⟩⟩
  · have h : cnt = 0 ∨ cnt = 1 := by omega
    rcases h with rfl | rfl
    · exact ⟨holeRig t { ownHole 256 with remote := some 0, counter := some ⟨0, false, 0, 0⟩ }, agent t, ⟨0, false, 0, 0⟩, rfl, by decide +kernel, rfl,
        rfl, rfl, rfl, by decide +kernel⟩
    · exact ⟨holeRig t { ownHole 255 with remote := some 0, counter := some ⟨1, true, 0, 0⟩ }, agent t, ⟨1, true, 0, 0⟩, rfl, by decide +kernel, rfl,
        rfl, rfl, rfl, by decide +kernel⟩

/-- Eight-byte words at an address, as cells. -/
def wordCells (pa : Nat) (ws : List Nat) : List Host.Cell :=
  (ws.zipIdx).flatMap (fun x => (bytesOf 8 x.1).zipIdx.map (fun y => (pa + 8 * x.2 + y.2, y.1)))

theorem wordsAt_of (s : State) (a : Agent) (va pa : Nat) (ws : List Nat) (hq : quiet s)
    (h : ∀ k, k < ws.length → translate s a.acc ((va + 8 * k) % 2 ^ 64) .read = .ok (pa + 8 * k)
      ∧ (physKind (pa + 8 * k) matches .device _) = false ∧ lostNode s (pa + 8 * k) = none ∧ poisonAt s.sys (pa + 8 * k) 8 = none
      ∧ ws[k]? = some (leValue (seenBytes s a (pa + 8 * k) 8))) : WordsAt s a va ws := fun k hk => by
  obtain ⟨h1, h2, h3, h4, h5⟩ := h k hk
  refine ⟨pa + 8 * k, h1, reachable_of _ _ h2 h3 hq, h4, ?_⟩
  rw [List.getElem?_eq_getElem hk] at h5; exact Option.some.inj h5

/-- A copy of one row of 16 bytes with one region, and a job card that no check refuses, and one that its counts refuse. -/
def copyWords : List Nat := [dataVa, dataVa + 4096, 2 ^ 32 + 16, 0, 0, 1, 0, 0]
def cardWords (nform : Nat) : List Nat := [codeVa, nform * 2 ^ 40 + 1, 0, 0, 0] ++ List.replicate 37 0

theorem witness_copy_and_launch :
    (∃ s a t, agentOf s = some a ∧ a.tid = some 0 ∧ a.thread = some t ∧ t.role = .solo ∧ t.events = [] ∧ (a.ctx.rd 1).toNat % 16 = 0
      ∧ WordsAt s a (a.ctx.rd 1).toNat copyWords ∧ copyWords.length = 6 + 2 * (copyWords.getD 5 0 % 16) ∧ copyWords.getD 5 0 % 16 ≤ 8
      ∧ copyBad copyWords = false ∧ copyMisaligned copyWords = none)
    ∧ (∀ nform, nform ≤ 1 → ∃ s a t, agentOf s = some a ∧ a.tid = some 0 ∧ a.thread = some t ∧ t.role = .solo ∧ t.events = []
      ∧ (a.ctx.rd 1).toNat % 16 = 0 ∧ WordsAt s a (a.ctx.rd 1).toNat (cardWords nform) ∧ (cardWords nform).length = 42 ∧ unitLoad s 0 < 1024
      ∧ (cardDet s (cardWords nform) 0 a.acc.tr.dom a.acc.tr.asid (((s.kernel t.lnum).map Kernel.paired).getD false) = 0 ↔ nform = 1)
      ∧ (cardOf (cardWords nform)).stat = 0) := by
  constructor
  · let t := scalarThread [(1, dataVa)]
    let bs := wordCells 0x210000 copyWords
    exact ⟨rig (.thread 0) t bs, agent t bs, t, rfl, rfl, rfl, rfl, rfl, by decide +kernel,
      wordsAt_of _ _ _ 0x210000 _ (rig_quiet _ _ _) (by decide +kernel), rfl, by decide, by decide +kernel, by decide +kernel⟩
  · intro n h
    have : n = 0 ∨ n = 1 := by omega
    let t := scalarThread [(1, dataVa)]
    let bs := wordCells 0x210000 (cardWords n)
    refine ⟨rig (.thread 0) t bs, agent t bs, t, ?_⟩
    rcases this with rfl | rfl <;>
      exact ⟨rfl, rfl, rfl, rfl, rfl, by decide +kernel,
        wordsAt_of _ _ _ 0x210000 _ (rig_quiet _ _ _) (by decide +kernel), rfl, by decide +kernel, by decide +kernel, by decide +kernel⟩

/-- A thread writes FFLAGS, FMODE with the last mode and with a reserved one, and reads LSEAT; it and a Proctor core write
TRBASE. -/
theorem witness_control_registers :
    (∃ s a, agentOf s = some a ∧ (Instr.csrw 3 1 0x001).wf = true
      ∧ cregForm a.ctx (cregTable s a 1) (.csrw 3 1 0x001) = some (3, 1, some 4)
      ∧ cregForm a.ctx (cregTable s a 1) (.csrw 3 2 0x001) = some (3, 1, some 5)
      ∧ cregForm a.ctx (cregTable s a 0x010) (.csrr 3 0x010) = some (3, 0x010, none)
      ∧ cregForm a.ctx (cregTable s a 0x010) (.csrw 3 1 0x010) = some (3, 0x010, some 4)
      ∧ cregForm a.ctx (cregTable s a 0x030) (.csrs 3 1 0x030) = some (3, 0x030, some (cregTable s a 0x030 ||| 4))
      ∧ cregForm a.ctx (cregTable s a 0) (.csrs 3 0 0) = some (3, 0, none)
      ∧ a.acc.priv = false ∧ ∀ tid t, a.tid = some tid → a.thread = some t → tid < 1536)
    ∧ (∃ s a p, agentOf s = some a ∧ s.actor = .proctor 15 ∧ s.pcore 15 = some p ∧ a.acc.priv = true
      ∧ cregForm a.ctx (cregTable s a 0x032) (.csrw 3 0 0x032) = some (3, 0x032, some 0)
      ∧ (∃ kind, kind ≤ 6 ∧ FinjValue 0 kind)
      ∧ cregForm a.ctx (cregTable s a 0x031) (.csrw 3 1 0x031) = some (3, 0x031, some 0)) :=
  ⟨⟨rig (.thread 0) (scalarThread [(1, 4), (2, 5)]), agent (scalarThread [(1, 4), (2, 5)]), rfl, by decide +kernel, by decide +kernel,
      by decide +kernel, by decide +kernel, by decide +kernel, by decide +kernel, by decide +kernel, rfl, fun tid t h _ => by cases h; decide⟩,
    ⟨rig (.proctor 15) (scalarThread []), ⟨ProctorCore.reset.ctx, proctorAccessor, none, none⟩, ProctorCore.reset, rfl, rfl, rfl, rfl,
      by decide +kernel, ⟨0, by decide, rfl, rfl⟩, by decide +kernel⟩⟩

/-- A Proctor core outside its handler with a handler's address, and one in it. -/
theorem witness_traps_and_handlers :
    ∃ (s : State) (p : ProctorCore), s.actor = .proctor 0 ∧ s.pcore 0 = some p ∧ p.inHandler = false ∧ p.pxhand.toNat % 2 ^ 52 / 16 ≠ 0
      ∧ Memory.wf s.sys.mem = true :=
  let s := rig (.proctor 0) (scalarThread [])
  ⟨s.putPcore 0 { ProctorCore.reset with pxhand := 0x1000 }, { ProctorCore.reset with pxhand := 0x1000 }, rfl, rfl, rfl, by decide, by decide +kernel⟩

/-- The services of a thread outside a pair: a kernel of its domain, no region, a region that it frees, operands that ALLOC
refuses. -/
theorem witness_services : ∃ s a t k d, agentOf s = some a ∧ a.tid = some 0 ∧ a.thread = some t ∧ t.role = .solo
    ∧ t.trbase.toNat / 2 ^ 58 % 64 = a.acc.tr.dom ∧ s.kernel (a.ctx.rd 1).toNat = none
    ∧ s.kernel (a.ctx.rd 3).toNat = some k ∧ k.dom = a.acc.tr.dom ∧ k.ended = none ∧ k.done = none
    ∧ tableGet a.acc.tr.dom s.proctor.domains = some d
    ∧ (∃ r ∈ s.proctor.regions, r.dom = a.acc.tr.dom ∧ r.base = (a.ctx.rd 4).toNat ∧ r.len = (a.ctx.rd 5).toNat)
    ∧ (∀ r ∈ s.proctor.regions, ¬ (r.dom = a.acc.tr.dom ∧ r.base = (a.ctx.rd 1).toNat ∧ r.len = (a.ctx.rd 5).toNat))
    ∧ 3 ≤ (a.ctx.rd 6).toNat ∧ (a.ctx.rd 3).toNat = t.lnum ∧ ∀ e ∈ s.sched.kernels, ∀ x ∈ e.2.streams, x.1 ≠ 1 :=
  let t := scalarThread [(1, 1), (4, 2 ^ 20), (5, 65536), (6, 3)]
  let s := rig (.thread 0) t
  ⟨{ s with proctor := { s.proctor with regions := [⟨1, 2 ^ 20, 65536, 0, true, false, true, false, 0⟩] } }, agent t, t, rigKernel, rigDomain, rfl, rfl, rfl, rfl,
    by decide +kernel, by decide +kernel, by decide +kernel, by decide +kernel, rfl, rfl, by decide +kernel, by decide +kernel, by decide +kernel,
    by decide +kernel, by decide +kernel, fun e he x hx => by obtain rfl := List.mem_singleton.1 he; cases hx⟩

/-- A thread that may exit, and one whose blocks run; a Proctor core without a copy and with one. -/
theorem witness_exit :
    (∃ s a t, agentOf s = some a ∧ a.tid = some 0 ∧ a.thread = some t ∧ t.isShadow = false ∧ pairSettled a = true ∧ keysRise s.threads = true
      ∧ blocksDone t = true ∧ (countsOf s 0 t).2.2.1 = 0)
    ∧ (∃ s a t, agentOf s = some a ∧ a.tid = some 0 ∧ a.thread = some t ∧ t.isShadow = false ∧ pairSettled a = true ∧ blocksDone t = false)
    ∧ (∀ busy : Bool, ∃ (s : State) (p : ProctorCore), s.actor = .proctor 3 ∧ s.pcore 3 = some p ∧ ((∃ j ∈ s.fabric.copies, j.2.own = ⟨proctorTid 3, 0, 0⟩) ↔ busy = true)) := by
  refine ⟨⟨rig (.thread 0) (scalarThread []), agent _, _, rfl, rfl, rfl, rfl, by decide +kernel, rfl, by decide +kernel, rfl⟩,
    ⟨rig (.thread 0) (vectorThread id), agent _, _, rfl, rfl, rfl, rfl, by decide +kernel, by decide +kernel⟩, fun busy => ?_⟩
  let s := rig (.proctor 3) (scalarThread [])
  let j : CopyJob := { desc := ⟨0, 4096, 1, 16, 0, 0, 0, []⟩, own := ⟨proctorTid 3, 0, 0⟩, vec := false, next := 0, error := none, tr := proctorAccessor.tr, cluster := 0, after := [] }
  refine ⟨{ s with fabric := { s.fabric with copies := if busy then [(0, j)] else [] } }, _, rfl, rfl, ?_⟩
  cases busy
  · exact ⟨(fun ⟨x, hx, _⟩ => nomatch hx), (fun h => nomatch h)⟩
  · exact ⟨fun _ => rfl, fun _ => ⟨(0, j), List.mem_singleton.2 rfl, rfl⟩⟩

theorem parts_of (t : Thread) (g : Group) (ha : t.att = 1 ∨ t.att = 3 ∧ t.partners = [⟨1, 48, 0, 0, 1⟩]) (hg : t.group = some g) :
    partsOf 0 t = partAt 0 0 g.block0 g.nblk :: (if t.att = 3 then [⟨1, 48, 0, 0, 32⟩] else []) := by
  rcases ha with h | ⟨h, hp⟩
  · simp [partsOf, homePart, h, hg, bitOf, tidDie, coreOf, tidSlot, List.range, List.range.loop, Nat.testBit]
  · simp [partsOf, homePart, h, hg, hp, bitOf, tidDie, coreOf, tidSlot, List.range, List.range.loop, Nat.testBit, partAt]

theorem vec_parts (n : Nat) (ws : List (Nat × Nat)) : (vec (withVl n ws)).parts = [⟨0, 0, 0, 0, 32⟩] :=
  (parts_of (vectorThread (withVl n ws)) (groupOfRig (withVl n ws)) (.inl rfl) rfl).trans rfl

theorem span_parts (n : Nat) (ws : List (Nat × Nat)) :
    partsOf 0 { vectorThread (withVl n ws) with att := 3, partners := [⟨1, 48, 0, 0, 1⟩] } = [⟨0, 0, 0, 0, 32⟩, ⟨1, 48, 0, 0, 32⟩] :=
  (parts_of { vectorThread (withVl n ws) with att := 3, partners := [⟨1, 48, 0, 0, 1⟩] } (groupOfRig (withVl n ws)) (.inr ⟨rfl, rfl⟩) rfl).trans rfl

theorem vrig_room (f : Group → Group) (regs : List Nat) (hc : (groupOfRig f).closed = [])
    (hr : ∀ st, (groupOfRig f).strip = some st → (regs.foldl (fun ws r => setAdd r ws) st.written).length ≤ 16) : HasRoom (vec f) regs :=
  ⟨hc, hr⟩

theorem vrig_ready' (n : Nat) (ws : List (Nat × Nat)) (bs : List Host.Cell) (i : Instr) : Ready (vrig (withVl n ws) bs) 0 (vec (withVl n ws)) i :=
  vrig_ready _ _ _ rfl rfl rfl rfl rfl

theorem vrig_placed' (n : Nat) (ws : List (Nat × Nat)) (bs : List Host.Cell) : Placed (vrig (withVl n ws) bs) (vec (withVl n ws)) :=
  vrig_placed _ _ (vec_parts n ws) rfl

theorem vrig_room' (n : Nat) (ws : List (Nat × Nat)) (regs : List Nat) : HasRoom (vec (withVl n ws)) regs :=
  ⟨rfl, fun st h => by cases h⟩

/-- The last VL that avail allows for each width, and values for every element. -/
theorem witness_elementwise : ∃ (s : State) (v : VCtx) (f : VFields) (value : Nat → Nat × Flags), Ready s 0 v (.vsel f) ∧ Placed s v ∧ (Instr.vsel f).wf = true
    ∧ vrowOf (.vsel f) = some (⟨0x39, .vreg, .vreg, .src, .mask, true, .all, .elem, some 2, none⟩, f)
    ∧ v.vl = v.avail (elemTypeOf f).width ∧ HasRoom v [f.vd.toNat] ∧ ∀ e, e < v.vl → elementOp s v f e (.vsel f) = some (value e) :=
  let f := vf 1 2 3 0 9 0
  ⟨vrig (withVl 1024), vec (withVl 1024), f, _,
    vrig_ready' .., vrig_placed' .., by decide +kernel, rfl, by decide +kernel, vrig_room' .., fun e _ => rfl⟩

/-- A conversion from 8-bit integers to f32 at the VL where the wider type is full. -/
theorem witness_conversion : ∃ s v f, Ready s 0 v (.vcvt f) ∧ Placed s v ∧ (Instr.vcvt f).wf = true ∧ HasRoom v [f.vd.toNat]
    ∧ v.vl = v.avail (elemTypeOf f).width ∧ v.vl ≤ v.avail (typeOf (f.fn.toNat % 16) (f.fn.toNat / 2 ^ 8 % 2)).width :=
  ⟨vrig (withVl 256), vec (withVl 256), vf 1 2 0 0 0 9, vrig_ready' .., vrig_placed' .., by decide +kernel, vrig_room' .., by decide +kernel,
    by decide +kernel⟩

theorem witness_complex_products : ∀ add : Bool, ∃ s v f, Ready s 0 v (if add then .vcmac f else .vcmul f) ∧ Placed s v
    ∧ (if add then Instr.vcmac f else .vcmul f).wf = true ∧ v.vl ≤ v.avail 32 ∧ HasRoom v [f.vd.toNat] := fun add =>
  ⟨vrig (withVl 7), vec (withVl 7), vf 1 2 3 (if add then 4 else 0) 0 1, vrig_ready' .., vrig_placed' .., by cases add <;> decide +kernel,
    by decide +kernel, vrig_room' ..⟩

/-- The last VL that a mask holds and one more, and VCMP at the last VL of its type. -/
theorem witness_masks :
    (∃ s v f, Ready s 0 v (.vcmp f) ∧ Placed s v ∧ (Instr.vcmp f).wf = true ∧ v.vl = v.avail (elemTypeOf f).width)
    ∧ (∃ s v f, Ready s 0 v (.vmandn f) ∧ Placed s v ∧ (Instr.vmandn f).wf = true ∧ v.vl = v.avail 1 ∧ Ready s 0 v (.vmpop f)
      ∧ Ready s 0 v (.vmfirst f))
    ∧ (∃ s v f, v.vl = v.avail 1 + 1 ∧ Ready s 0 v (.vmand f) ∧ Ready s 0 v (.vbany f) ∧ Ready s 0 v (.vbrD f)) :=
  ⟨⟨vrig (withVl 512), vec (withVl 512), vf 7 2 3 0 13 0x050000, vrig_ready' .., vrig_placed' .., by decide +kernel, by decide +kernel⟩,
    ⟨vrig (withVl 8192), vec (withVl 8192), vf 1 2 3 0 0 0, vrig_ready' .., vrig_placed' .., by decide +kernel, by decide +kernel, vrig_ready' ..,
      vrig_ready' ..⟩,
    ⟨vrig (withVl 8193), vec (withVl 8193), vf 1 2 3 0 0 0, by decide +kernel, vrig_ready' .., vrig_ready' .., vrig_ready' ..⟩⟩

theorem witness_permutes :
    (∃ (s : State) (v : VCtx) (f : VFields) (value : Nat → Nat), Ready s 0 v (.vperm f) ∧ Placed s v ∧ (Instr.vperm f).wf = true ∧ (vrowOf (.vperm f)).isSome = true ∧ HasRoom v [f.vd.toNat]
      ∧ v.vl ≤ v.avail (elemTypeOf f).width ∧ v.vl = v.avail 32 ∧ ∀ e, e < v.vl → permuteOp s v f e (.vperm f) = some (value e))
    ∧ (∃ s v f, Placed s v ∧ HasRoom v [f.vd.toNat] ∧ v.vl ≤ v.avail (elemTypeOf f).width ∧ Ready s 0 v (.vcompress f)
      ∧ (Instr.vcompress f).wf = true ∧ Ready s 0 v (.vexpand f) ∧ (Instr.vexpand f).wf = true) :=
  let f := vf 1 2 3 0 9 0
  ⟨⟨vrig (withVl 256), vec (withVl 256), f, _, vrig_ready' ..,
      vrig_placed' .., by decide +kernel, rfl, vrig_room' .., by decide +kernel, by decide +kernel, fun e _ => rfl⟩,
    ⟨vrig (withVl 256), vec (withVl 256), vf 1 2 0 0 0 0, vrig_placed' .., vrig_room' .., by decide +kernel, vrig_ready' .., by decide +kernel,
      vrig_ready' .., by decide +kernel⟩⟩

/-- The thread with a second part on die 1. -/
def pairOfDies (f : Group → Group) : Thread :=
  { vectorThread f with att := 3, partners := [⟨1, 48, 0, 0, 1⟩] }

def spanRig (f : Group → Group) (bs : List Host.Cell := []) : State := rig (.sequencer 0) (pairOfDies f) bs

def spanVec (f : Group → Group) : VCtx :=
  { tid := 0, t := pairOfDies f, g := groupOfRig f, parts := partsOf 0 (pairOfDies f), iaddr := (groupOfRig f).core.pc }

theorem span_ready (n : Nat) (ws : List (Nat × Nat)) (i : Instr) : Ready (spanRig (withVl n ws)) 0 (spanVec (withVl n ws)) i where
  actor := rfl
  ctx := rfl
  queue := rfl
  recessed := fun _ => rfl
  am := fun _ => rfl
  unbound := fun r _ => rfl
  taken := fun r _ x hx => by cases hx
  unmarked := fun r _ m hx => by cases hx

theorem span_placed (n : Nat) (ws : List (Nat × Nat)) : Placed (spanRig (withVl n ws)) (spanVec (withVl n ws)) where
  lanes := fun p hx => by
    have e : (spanVec (withVl n ws)).parts = [⟨0, 0, 0, 0, 32⟩, ⟨1, 48, 0, 0, 32⟩] := span_parts n ws
    have hl : (spanVec (withVl n ws)).lanes = 32 := by unfold VCtx.lanes; rw [e]
    rw [e] at hx; rw [hl]; revert p; decide
  apart := by
    have e : (spanVec (withVl n ws)).parts = [⟨0, 0, 0, 0, 32⟩, ⟨1, 48, 0, 0, 32⟩] := span_parts n ws
    rw [e]; decide
  vregs := rfl
  masks := rfl
  slices := rfl
  tags := rfl

/-- VXCHG both ways of a whole block of 256 elements, of one element too many, and a pair of one part. -/
theorem witness_exchange : ∀ pb cnt : Nat, (pb, cnt) ∈ [(1, 256), (1, 257), (0, 1)] → ∃ s v f, Ready s 0 v (.vxchg f) ∧ Placed s v
    ∧ (Instr.vxchg f).wf = true ∧ HasRoom v [f.vd.toNat] ∧ v.vl ≤ v.avail (elemTypeOf f).width ∧ v.vmax (elemTypeOf f).width = 256
    ∧ (v.w f.vs2).toNat = 0 * 2 ^ 53 + true.toNat * 2 ^ 52 + pb * 2 ^ 50 + 0 * 2 ^ 48 + cnt * 2 ^ 32 + 0 * 2 ^ 16 + 0
    ∧ v.parts.length = 2 := by
  intro pb cnt h
  let ws := [(3, 2 ^ 52 + pb * 2 ^ 50 + cnt * 2 ^ 32)]
  refine ⟨spanRig (withVl 512 ws), spanVec (withVl 512 ws), vf 1 2 3 0 0 0, span_ready .., span_placed .., by decide +kernel,
    ⟨rfl, fun st h => by cases h⟩, ?_⟩
  simp only [List.mem_cons, Prod.mk.injEq, List.not_mem_nil, or_false] at h
  rcases h with ⟨rfl, rfl⟩ | ⟨rfl, rfl⟩ | ⟨rfl, rfl⟩ <;> decide +kernel

theorem witness_reductions :
    (∃ s v f op ident, Ready s 0 v (.vredsum f) ∧ Placed s v ∧ (Instr.vredsum f).wf = true ∧ (vrowOf (.vredsum f)).isSome = true
      ∧ HasRoom v [f.vd.toNat] ∧ reductionOp (elemTypeOf f) (v.mode 0) (.vredsum f) = some (op, ident) ∧ v.vl ≤ v.avail (elemTypeOf f).width)
    ∧ (∃ s v f, Ready s 0 v (.vrowstat f) ∧ Placed s v ∧ (Instr.vrowstat f).wf = true ∧ f.vd.toNat = 60 ∧ v.vl ≤ v.avail 32
      ∧ HasRoom v [60, 61, 62, 63])
    ∧ (∃ s v f, Ready s 0 v (.vrowstat f) ∧ Placed s v ∧ (Instr.vrowstat f).wf = true ∧ f.vd.toNat = 61) :=
  ⟨⟨vrig (withVl 10), vec (withVl 10), vf 1 2 0 0 9 4, _, _, vrig_ready' .., vrig_placed' .., by decide +kernel, rfl, vrig_room' .., rfl,
      by decide +kernel⟩,
    ⟨vrig (withVl 10), vec (withVl 10), vf 60 2 0 0 0 4, vrig_ready' .., vrig_placed' .., by decide +kernel, rfl, by decide +kernel, vrig_room' ..⟩,
    ⟨vrig (withVl 10), vec (withVl 10), vf 61 2 0 0 0 4, vrig_ready' .., vrig_placed' .., by decide +kernel, rfl⟩⟩

theorem witness_sequencer : ∃ s v f x, Ready s 0 v (.vwaluSra f) ∧ (Instr.vwaluSra f).wf = true ∧ (vrowOf (.vwaluSra f)).isSome = true
    ∧ waluTable (v.w f.vs1) (waluSecond v f (.vwaluSra f)) (.vwaluSra f) = some x
    ∧ Ready s 0 v (.vwaluRlc f) ∧ Ready s 0 v (.vwli f) ∧ Ready s 0 v (.vextw f) ∧ Ready s 0 v (.vinsw f) ∧ Placed s v ∧ HasRoom v [f.vd.toNat]
    ∧ v.vl ≤ v.avail (elemTypeOf f).width ∧ (Instr.vextw (vf 1 2 3 0 0 0)).wf = true ∧ (Instr.vinsw (vf 1 2 3 0 0 0)).wf = true :=
  ⟨vrig (withVl 4 [(2, 2 ^ 63), (3, 63)]), vec (withVl 4 [(2, 2 ^ 63), (3, 63)]), vf 1 2 3 0 0 0x380000, _, vrig_ready' .., by decide +kernel, rfl, rfl,
    vrig_ready' .., vrig_ready' .., vrig_ready' .., vrig_ready' .., vrig_placed' .., vrig_room' .., by decide +kernel, by decide +kernel, by decide +kernel⟩

/-- A branch of VBR.D with seven and with eight fragments pending, VJOIN at a fragment in each state and at none, a loop
counter of zero, and replies with room and without. -/
theorem witness_vector_branches :
    (∀ n : Nat, n = 7 ∨ n = 8 → ∃ (s : State) (v : VCtx) (f : VFields) (m : BitVec 65536), Ready s 0 v (.vbrD f)
      ∧ (∀ e, e < 65536 → m.getLsbD e = (decide (e < v.vl) && v.mask s v.vtypeWidth f.vs1.toNat e)) ∧ v.g.core.pending.length = n
      ∧ v.vl ≤ v.avail 1 ∧ Ready s 0 v (.vbany f) ∧ Ready s 0 v (.vball f) ∧ Ready s 0 v (.vbnone f))
    ∧ (∀ b : Bool, ∃ (s : State) (v : VCtx) (f : VFields) (p : PendFrag) (rest : List PendFrag), Ready s 0 v (.vjoin f) ∧ v.g.core.pending = p :: rest ∧ p.joining = b)
    ∧ (∃ (s : State) (v : VCtx) (f : VFields), Ready s 0 v (.vjoin f) ∧ v.g.core.pending = [] ∧ Ready s 0 v (.vjmp f) ∧ f.fn.toNat / 2 ^ 20 ≤ 6 ∧ Ready s 0 v (.vloop f)
      ∧ (v.w f.vs1).setWidth 32 = 0#32 ∧ Ready s 0 v (.vendlp f) ∧ ((v.g.core.lc[f.vd.toNat]?).getD 0) - 1 ≠ 0)
    ∧ (∀ n : Nat, n = 15 ∨ n = 16 → ∃ (s : State) (v : VCtx) (f : VFields), Ready s 0 v (.vpostr f) ∧ v.g.strip = none ∧ v.g.issues = [] ∧ v.g.vreply.length = n)
    ∧ (∃ (s : State) (v : VCtx) (f : VFields) (st : Strip), Ready s 0 v (.vpostr f) ∧ RoomFor v st 0)
    ∧ (∃ f g : VFields, 7 ≤ f.fn.toNat / 2 ^ 20 ∧ g.fn.toNat / 2 ^ 20 = 0 ∧ (Instr.vjmp g).wf = true) :=
  ⟨fun n h => by
      let g := withCore (fun c => { c with vl := 0, pending := List.replicate n ⟨0, 0, 0, false⟩ })
      refine ⟨vrig g, vec g, vf 0 0 0 0 0 0, 0, vrig_ready _ _ _ rfl rfl rfl rfl rfl, fun e _ => by simp [vec, g, groupOfRig, withCore, VCtx.vl], ?_,
        Nat.zero_le _, vrig_ready _ _ _ rfl rfl rfl rfl rfl, vrig_ready _ _ _ rfl rfl rfl rfl rfl, vrig_ready _ _ _ rfl rfl rfl rfl rfl⟩
      rcases h with rfl | rfl <;> rfl,
    fun b => let g := withCore (fun c => { c with pending := [⟨0, 0, 0, b⟩] })
      ⟨vrig g, vec g, vf 0 0 0 0 0 0, _, _, vrig_ready _ _ _ rfl rfl rfl rfl rfl, rfl, rfl⟩,
    ⟨vrig (withVl 0), vec (withVl 0), vf 0 0 0 0 0 0x600000, vrig_ready' .., rfl, vrig_ready' .., by decide, vrig_ready' .., by decide +kernel,
      vrig_ready' .., by decide +kernel⟩,
    fun n h => let g := fun (x : Group) => { x with vreply := List.replicate n 0 }
      ⟨vrig g, vec g, vf 0 0 0 0 0 0, vrig_ready _ _ _ rfl rfl rfl rfl rfl, rfl, rfl, by rcases h with rfl | rfl <;> rfl⟩,
    ⟨vrig (inStrip id), vec (inStrip id), vf 0 0 0 0 0 0, emptyStrip, vrig_ready _ _ _ rfl rfl rfl rfl rfl, rfl, rfl, by decide +kernel⟩,
    ⟨vf 0 0 0 0 0 0x700000, vf 0 0 0 0 0 1, by decide +kernel, by decide +kernel, by decide +kernel⟩⟩

theorem wordsRead_of (s : State) (v : VCtx) (va pa n : Nat) (ws : List Nat) (ha : va % n = 0)
    (h : ∀ k, k < ws.length → translate s (vecAccessor s v v.home) ((va + n * k) % 2 ^ 64) .read = .ok (pa + n * k)
      ∧ lostNode s (pa + n * k) = none ∧ poisonAt s.sys (pa + n * k) n = none ∧ ws[k]? = some (seenNumber s v (pa + n * k) n)) :
    WordsRead s v va n ws := ⟨ha, fun k hk => by
  obtain ⟨h1, h2, h3, h4⟩ := h k hk
  rw [List.getElem?_eq_getElem hk] at h4
  exact ⟨pa + n * k, h1, ⟨h2, h3⟩, Option.some.inj h4⟩⟩

theorem vrig_quiet (f : Group → Group) (bs : List Host.Cell) : quiet (vrig f bs) := rig_quiet _ _ _

/-- No seating change waits on the small machine's core. -/
theorem vrig_settled (f : Group → Group) (bs : List Host.Cell) (h : ((groupOfRig f).block0, (groupOfRig f).nblk) = (0, 1)) : SeatsSettled (vrig f bs) 0 where
  chart := rfl
  runs := fun k g hk hg => by
    have : k = 0 ∨ k = 1 ∨ k = 2 ∨ k = 3 ∨ k = 4 ∨ k = 5 ∨ k = 6 ∨ k = 7 := by omega
    rcases this with rfl | rfl | rfl | rfl | rfl | rfl | rfl | rfl
    · obtain rfl := Option.some.inj hg; exact (by decide +kernel : chartRun (0xFFFFFFF0 : BitVec 32) 0 = (0, 1)).trans h.symm
    all_goals cases hg

/-- SETVL asks for all lanes and for one element more, watches a word, and VEND, at a boundary. -/
theorem witness_strips_open : ∃ (s : State) (v : VCtx), AtBoundary v ∧ Ready s 0 v (.setvl (vf 1 2 0 0 0 0x400000))
    ∧ (Instr.setvl (vf 1 2 0 0 0 0x400000)).wf = true ∧ v.g.replay = none ∧ v.g.stopping = false ∧ (v.w 2).toNat = v.avail 32
    ∧ (v.w 3).toNat = v.avail 32 + 1 ∧ (Instr.setvl (vf 1 3 4 5 0 0x200000)).wf = true ∧ Ready s 0 v (.setvl (vf 1 3 4 5 0 0x200000)) ∧ quiet s
    ∧ WordsRead s v (v.w 4).toNat 8 [1] ∧ Ready s 0 v (.vend (vf 0 0 0 0 0 0)) ∧ SeatsSettled s 0 :=
  let ws := [(2, 256), (3, 257), (4, dataVa)]
  ⟨vrig (withVl 0 ws) (wordCells 0x210000 [1]), vec (withVl 0 ws), ⟨rfl, rfl, rfl, rfl, rfl, rfl, rfl⟩, vrig_ready' .., by decide +kernel, rfl, rfl,
    by decide +kernel, by decide +kernel, by decide +kernel, vrig_ready' .., vrig_quiet .., wordsRead_of _ _ _ 0x210000 _ _ (by decide +kernel) (by decide +kernel),
    vrig_ready' .., vrig_settled _ _ rfl⟩

/-- A boundary instruction with a fragment pending, with an operation queued behind its open strip, and with a strip that
commits at once. -/
theorem witness_boundary_commits :
    (∃ s v, s.actor = .sequencer 0 ∧ vctx s 0 = some v ∧ v.g.core.pending ≠ [])
    ∧ (∃ s v, s.actor = .sequencer 0 ∧ vctx s 0 = some v ∧ v.g.core.pending = [] ∧ v.g.strip ≠ none ∧ ∃ op ∈ v.g.queue, op.outside = false)
    ∧ (∃ s v u, s.actor = .sequencer 0 ∧ vctx s 0 = some v ∧ v.g.core.pending = [] ∧ toBoundary s 0 = (u, true) ∧ (vctx u 0).isSome = true
      ∧ toBoundary u 0 = (u, true) ∧ ((vctx u 0).map (fun x => x.g.core.pending)) = some [] ∧ u.actor = s.actor)
    ∧ (∃ s v, s.actor = .sequencer 0 ∧ vctx s 0 = some v ∧ v.g.core.pending = [] ∧ (toBoundary s 0).2 = false) :=
  let g0 := withCore (fun c => { c with pending := [⟨0, 0, 0, false⟩] })
  let g1 := inStrip (fun g => { g with queue := [⟨.mldw (vf 0 8 0 0 3 0), 0, 0, false, false, []⟩] })
  let g2 := inStrip id
  let g3 := inStrip (fun g => { g with vreply := List.replicate 16 0, issues := [.reply 0] })
  ⟨⟨vrig g0, vec g0, rfl, rfl, List.cons_ne_nil _ _⟩, ⟨vrig g1, vec g1, rfl, rfl, rfl, Option.some_ne_none _, _, List.mem_singleton.2 rfl, rfl⟩,
    ⟨vrig g2, vec g2, (toBoundary (vrig g2) 0).1, rfl, rfl, rfl, by decide +kernel, by decide +kernel, by decide +kernel, by decide +kernel, by decide +kernel⟩,
    ⟨vrig g3, vec g3, rfl, rfl, rfl, by decide +kernel⟩⟩

/-- A strip that holds two stores, the second over the last byte of the first. -/
theorem witness_commit : ∃ s v st, vctx s 0 = some v ∧ Memory.wf s.sys.mem = true ∧ quiet s ∧ v.t.role = .solo ∧ v.g.strip = some st ∧ v.g.queue = []
    ∧ v.g.closed = [] ∧ v.g.posts = [] ∧ v.g.issues = [] ∧ v.g.notifies = [] ∧ v.g.leaving = [] ∧ v.g.outgoing = []
    ∧ (∀ e ∈ st.effects, ∃ lane pa va size value mask fill, e = .store lane pa va size value mask fill ∧ lostNode s pa = none) :=
  let st : Strip := { emptyStrip with effects := [.store 0 0x210000 dataVa 8 1 0xFF false, .store 0 0x210007 (dataVa + 7) 1 2 1 false] }
  let g := fun (x : Group) => { x with strip := some st }
  ⟨vrig g, vec g, st, rfl, by decide +kernel, vrig_quiet .., rfl, rfl, rfl, rfl, rfl, rfl, rfl, rfl, rfl, fun e he => by
    simp only [st, List.mem_cons, List.not_mem_nil, or_false] at he
    rcases he with rfl | rfl
    · exact ⟨_, _, _, _, _, _, _, rfl, by decide +kernel⟩
    · exact ⟨_, _, _, _, _, _, _, rfl, by decide +kernel⟩⟩

/-- A unit-stride load of four words from the data page, an unaligned packed store's plain form, and a .W load of a full
granule and of an empty one. -/
theorem witness_vector_loads :
    (∃ (s : State) (v : VCtx) (f : VFields) (pas : Nat → List Nat), Ready s 0 v (.vld f) ∧ Placed s v ∧ quiet s ∧ (Instr.vld f).wf = true ∧ loadOf (.vld f) = some (f, .unit) ∧ HasRoom v [f.vd.toNat]
      ∧ FormatOk v.g.core.mfmt f .unit ∧ v.vl ≤ v.avail (elemTypeOf f).width
      ∧ (∀ e ∈ actives s v f 32, ElementAt s v .read 32 false (storedWidth v.g.core.mfmt f) (elementPlace s v f .unit e) e (pas e))
      ∧ (∀ e ∈ actives s v f 32, ∀ p ∈ pas e, Usable s p (bytesFor (storedWidth v.g.core.mfmt f))))
    ∧ (∀ full : Bool, ∃ (s : State) (v : VCtx) (f : VFields) (pas : Nat → List Nat), Ready s 0 v (.vld f) ∧ (Instr.vld f).wf = true ∧ f.fn.toNat / 2 ^ 20 % 4 = 1
      ∧ (∀ e ∈ actives s v f 32, ElementAt s v .read 32 true (storedWidth v.g.core.mfmt f) (elementPlace s v f .unit e) e (pas e))
      ∧ (∃ e ∈ actives s v f 32, ∃ p ∈ pas e, cellGet s.sys.granules (p / 16) = if full then 0b01 else 0b00)) := by
  constructor
  · let ws := [(2, dataVa)]
    exact ⟨vrig (withVl 4 ws), vec (withVl 4 ws), vf 1 2 0 0 0 0, fun e => [0x210000 + 4 * e], vrig_ready' .., vrig_placed' .., vrig_quiet ..,
      by decide +kernel, rfl, vrig_room' .., ⟨by decide +kernel, fun h => absurd (by decide +kernel) h, fun h => absurd h (by decide +kernel)⟩, by decide +kernel,
      by unfold ElementAt; decide +kernel, by unfold Usable; decide +kernel⟩
  · intro full
    let ws := [(2, windowVa)]
    let s := vrig (withVl 4 ws)
    refine ⟨{ s with sys := { s.sys with granules := if full then [(padPa / 16, 1)] else [] } }, vec (withVl 4 ws), vf 1 2 0 0 0 0x100000,
      fun e => [padPa + 4 * e], ?_⟩
    cases full
    · exact ⟨⟨rfl, rfl, rfl, fun _ => rfl, fun _ => rfl, fun _ _ => rfl, fun r _ x hx => (by cases hx), fun r _ m hx => (by cases hx)⟩, by decide +kernel, by decide +kernel,
        by unfold ElementAt; decide +kernel, by decide +kernel⟩
    · exact ⟨⟨rfl, rfl, rfl, fun _ => rfl, fun _ => rfl, fun _ _ => rfl, fun r _ x hx => (by cases hx), fun r _ m hx => (by cases hx)⟩, by decide +kernel, by decide +kernel,
        by unfold ElementAt; decide +kernel, by decide +kernel⟩

/-- A strip of a group with VL elements and w registers. -/
def openVl (n : Nat) (ws : List (Nat × Nat)) : Group → Group := inStrip (withVl n ws)

theorem open_ready (n : Nat) (ws : List (Nat × Nat)) (bs : List Host.Cell) (i : Instr) : Ready (vrig (openVl n ws) bs) 0 (vec (openVl n ws)) i :=
  vrig_ready _ _ _ rfl rfl rfl rfl rfl

theorem open_placed (n : Nat) (ws : List (Nat × Nat)) (bs : List Host.Cell) : Placed (vrig (openVl n ws) bs) (vec (openVl n ws)) :=
  vrig_placed _ _ ((parts_of (vectorThread (openVl n ws)) (groupOfRig (openVl n ws)) (.inl rfl) rfl).trans rfl) rfl

theorem open_room (n : Nat) (ws : List (Nat × Nat)) (k : Nat) (h : k ≤ 8192) : RoomFor (vec (openVl n ws)) emptyStrip k := by
  refine ⟨rfl, rfl, ?_⟩
  have hp : (vec (openVl n ws)).parts = [⟨0, 0, 0, 0, 32⟩] :=
    (parts_of (vectorThread (openVl n ws)) (groupOfRig (openVl n ws)) (.inl rfl) rfl).trans rfl
  have hl : (vec (openVl n ws)).lanes = 32 := by unfold VCtx.lanes; rw [hp]
  have hs : storedBytes emptyStrip.effects = 0 := rfl
  rw [hp, hl, hs]
  simp only [List.length_cons, List.length_nil]
  omega

/-- A notifying store of four words, and a .FL store to the window. -/
theorem witness_vector_stores :
    (∃ (s : State) (v : VCtx) (f : VFields) (st : Strip) (pas : Nat → List Nat) (pn : Nat), Ready s 0 v (.vst f) ∧ Placed s v ∧ quiet s
      ∧ (Instr.vst f).wf = true ∧ storeOf (.vst f) = some (f, .unit) ∧ FormatOk v.g.core.mfmt f .unit ∧ v.vl ≤ v.avail (elemTypeOf f).width
      ∧ RoomFor v st ((actives s v f 32).length * (2 * bytesFor (storedWidth v.g.core.mfmt f)))
      ∧ (∀ e ∈ actives s v f 32, ElementAt s v .write 32 false (storedWidth v.g.core.mfmt f) (elementPlace s v f .unit e) e (pas e))
      ∧ f.fn.toNat / 2 ^ 19 % 2 = 1 ∧ actives s v f 32 ≠ [] ∧ (v.w f.vd).toNat % 8 = 0
      ∧ translate s (vecAccessor s v v.home) (v.w f.vd).toNat (.atomic false) = .ok pn)
    ∧ (∃ (s : State) (v : VCtx) (f : VFields) (pas : Nat → List Nat), Ready s 0 v (.vst f) ∧ (Instr.vst f).wf = true ∧ f.fn.toNat / 2 ^ 20 % 4 = 3
      ∧ (∀ e ∈ actives s v f 32, ElementAt s v .write 32 true (storedWidth v.g.core.mfmt f) (elementPlace s v f .unit e) e (pas e))) :=
  ⟨⟨vrig (openVl 4 [(2, dataVa), (3, dataVa + 64)]), vec (openVl 4 [(2, dataVa), (3, dataVa + 64)]), vf 3 2 0 1 0 0x080000, emptyStrip,
      fun e => [0x210000 + 4 * e], 0x210040, open_ready .., open_placed .., vrig_quiet .., by decide +kernel, rfl,
      ⟨by decide +kernel, fun h => absurd (by decide +kernel) h, fun h => absurd h (by decide +kernel)⟩, by decide +kernel, open_room _ _ _ (by decide +kernel),
      by unfold ElementAt; decide +kernel, by decide, by decide +kernel, by decide +kernel, by decide +kernel⟩,
    ⟨vrig (openVl 4 [(2, windowVa)]), vec (openVl 4 [(2, windowVa)]), vf 0 2 0 1 0 0x300000, fun e => [padPa + 4 * e], open_ready .., by decide +kernel,
      by decide, by unfold ElementAt; decide +kernel⟩⟩

/-- A packed stream of one raw block of two bytes; version 0; a misaligned stream. -/
theorem witness_packed_streams :
    (∃ (s : State) (v : VCtx) (f : VFields), Ready s 0 v (.vldz f) ∧ (Instr.vldz f).wf = true ∧ f.fn.toNat % 2 ^ 8 = 0)
    ∧ (∃ (s : State) (v : VCtx) (f : VFields), Ready s 0 v (.vldz f) ∧ (Instr.vldz f).wf = true ∧ f.fn.toNat % 2 ^ 8 = 1 ∧ v.vl ≠ 0
      ∧ v.vl ≤ v.avail (elemTypeOf f).width ∧ (v.w f.vs1).toNat % 4 ≠ 0)
    ∧ (∃ (s : State) (v : VCtx) (f : VFields) (out : List Nat) (used : Nat), Ready s 0 v (.vldz f) ∧ (Instr.vldz f).wf = true ∧ f.fn.toNat % 2 ^ 8 = 1
      ∧ v.vl ≤ v.avail (elemTypeOf f).width ∧ Placed s v ∧ quiet s ∧ HasRoom v [f.vd.toNat] ∧ (v.w f.vs1).toNat % 4 = 0
      ∧ Unpacks s v (elemTypeOf f).bits (v.w f.vs1).toNat (v.w f.vs2).toNat [] 0 out used ∧ v.vl ≠ 0) := by
  refine ⟨⟨vrig (withVl 4), vec (withVl 4), vf 1 2 3 4 9 0, vrig_ready' .., by decide +kernel, by decide⟩,
    ⟨vrig (withVl 4 [(2, dataVa + 2)]), vec (withVl 4 [(2, dataVa + 2)]), vf 1 2 3 4 9 1, vrig_ready' .., by decide +kernel, by decide, by decide,
      by decide +kernel, by decide +kernel⟩, ?_⟩
  let ws := [(2, dataVa), (3, 8)]
  let bs := wordCells 0x210000 [2 * 2 ^ 21 + 0x0605 * 2 ^ 32]
  refine ⟨vrig (withVl 4 ws) bs, vec (withVl 4 ws), vf 1 2 3 4 9 1, [5, 6], 8, vrig_ready' .., by decide +kernel, by decide, by decide +kernel, vrig_placed' ..,
    vrig_quiet .., vrig_room' .., by decide +kernel, ?_, by decide⟩
  refine .block [] 0 0 2 0 0 [0x0605] [5, 6] 8 (by decide +kernel) (wordsRead_of _ _ _ 0x210000 _ _ (by decide +kernel) (by decide +kernel)) (by decide)
    ⟨by decide, by decide, by decide, by decide, by decide, by decide⟩ ⟨by decide +kernel, by decide⟩ (by decide +kernel)
    (wordsRead_of _ _ _ 0x210004 _ _ (by decide +kernel) (by decide +kernel)) ?_
  exact .past _ _ (by decide +kernel)

/-- A lane slice's last word, and the offset after it. -/
theorem witness_lane_slices :
    (∃ (s : State) (v : VCtx) (f : VFields), Placed s v ∧ v.vl ≤ v.avail (elemTypeOf f).width ∧ v.vl ≤ v.avail 32
      ∧ (∀ e ∈ actives s v f 32, v.get s f.vs1.toNat 32 e + f.fn.toNat % 2 ^ 16 = 4092)
      ∧ Ready s 0 v (.vldl f) ∧ (Instr.vldl f).wf = true ∧ HasRoom v [f.vd.toNat]
      ∧ (∀ e ∈ actives s v f 32, SliceClean s (laneAt v 32 e).1 (laneAt v 32 e).2 4092 4))
    ∧ (∃ (s : State) (v : VCtx) (f : VFields) (st : Strip), Ready s 0 v (.vstl f) ∧ (Instr.vstl f).wf = true ∧ RoomFor v st (8 * (actives s v f 32).length))
    ∧ (∃ (s : State) (v : VCtx) (f : VFields), Ready s 0 v (.vldl f) ∧ (Instr.vldl f).wf = true ∧ actives s v f 32 = [] ++ 0 :: []
      ∧ 4096 ≤ v.get s f.vs1.toNat 32 0 + f.fn.toNat % 2 ^ 16) :=
  let s := vrig (withVl 1)
  ⟨⟨vrig (withVl 4), vec (withVl 4), vf 1 2 0 0 0 4092, vrig_placed' .., by decide +kernel, by decide +kernel, by decide +kernel, vrig_ready' ..,
      by decide +kernel, vrig_room' .., fun e _ u _ _ h => nomatch h⟩,
    ⟨vrig (openVl 4 []), vec (openVl 4 []), vf 0 1 0 2 0 0, emptyStrip, open_ready .., by decide +kernel, open_room _ _ _ (by decide +kernel)⟩,
    ⟨{ s with lanes := { s.lanes with vregs := [(vregKey 0 2 0, 4096)] } }, vec (withVl 1), vf 1 2 0 0 0 0,
      ⟨rfl, rfl, rfl, fun _ => rfl, fun _ => rfl, fun _ _ => rfl, fun r _ x hx => (by cases hx), fun r _ m hx => (by cases hx)⟩, by decide +kernel, by decide +kernel,
      by decide +kernel⟩⟩

/-- A stream of two elements described, bound and unbound, a gather, a barrier, a copy, and the two outcomes of VSETMF. -/
theorem witness_streams_and_copies :
    (∃ (s : State) (v : VCtx) (f : VFields) (ws : List Nat), Placed s v ∧ quiet s ∧ Ready s 0 v (.vbind f) ∧ (Instr.vbind f).wf = true ∧ 48 ≤ f.vd.toNat
      ∧ FormatOk v.g.core.mfmt f .strided ∧ (v.w f.vs1).toNat % 8 = 0 ∧ WordsRead s v (v.w f.vs1).toNat 8 ws ∧ DescribesStream ws dataVa [2] [4])
    ∧ (∃ (s : State) (v : VCtx) (f : VFields), Placed s v ∧ quiet s ∧ Ready s 0 v (.vunbind f) ∧ 48 ≤ f.vd.toNat ∧ tableGet f.vd.toNat v.g.core.streams ≠ none)
    ∧ (∃ (s : State) (v : VCtx) (f : VFields) (st : Strip), Placed s v ∧ quiet s ∧ Ready s 0 v (.vgatherb f) ∧ (Instr.vgatherb f).wf = true ∧ f.vd.toNat = 48
      ∧ RoomFor v st 0 ∧ FormatOk v.g.core.mfmt f .indexed ∧ v.vl ≤ v.avail (elemTypeOf f).width ∧ indexFits v (f.fn.toNat / 2 ^ 17 % 4) ∧ v.vl ≠ 0
      ∧ (∀ e ∈ actives s v f 32, ElementAt s v .read 32 false (storedWidth v.g.core.mfmt f) (elementPlace s v f .indexed e) e [0x210000])
      ∧ Ready s 0 v (.sbar f) ∧ (∀ e, e = 47 → Ready s 0 v (.vunbind (vf e 0 0 0 0 0))))
    ∧ (∃ (s : State) (v : VCtx) (f : VFields) (st : Strip), Placed s v ∧ quiet s ∧ RoomFor v st 0 ∧ Ready s 0 v (.vcopy f) ∧ (v.w f.vs1).toNat % 16 = 0
      ∧ WordsRead s v (v.w f.vs1).toNat 8 copyWords ∧ copyBad copyWords = false ∧ copyMisaligned copyWords = none)
    ∧ (∃ (s : State) (v : VCtx) (f : VFields), Placed s v ∧ quiet s ∧ Ready s 0 v (.vsetmf f) ∧ mfmtIllegal (v.w f.vs1) = false
      ∧ mfmtIllegal (v.w 3) = true) := by
  refine ⟨?_, ?_, ?_, ?_, ?_⟩
  · let ds := [dataVa, 1, 2, 0, 0, 4, 0, 0, 0, 0, 0]
    let ws := [(2, dataVa)]
    exact ⟨vrig (withVl 4 ws) (wordCells 0x210000 ds), vec (withVl 4 ws), vf 48 2 0 0 0 0, ds, vrig_placed' .., vrig_quiet .., vrig_ready' .., by decide +kernel, by decide,
      ⟨by decide +kernel, fun h => absurd (by decide +kernel) h, fun h => absurd h (by decide +kernel)⟩, by decide +kernel,
      wordsRead_of _ _ _ 0x210000 _ _ (by decide +kernel) (by decide +kernel),
      ⟨rfl, by decide, by decide, ⟨by decide, by decide⟩, by decide⟩⟩
  · let g := withCore (fun c => { c with streams := [(48, ⟨0, [1], [0], 0, 0, 0, 0, none⟩)] })
    exact ⟨vrig g, vec g, vf 48 0 0 0 0 0, vrig_placed _ _ ((parts_of (vectorThread g) (groupOfRig g) (.inl rfl) rfl).trans rfl) rfl, vrig_quiet ..,
      ⟨rfl, rfl, rfl, fun _ => rfl, fun _ => rfl, fun r h => by
        have : vreads (.vunbind (vf 48 0 0 0 0 0)) = [] ∧ vwrites (.vunbind (vf 48 0 0 0 0 0)) = [] := by decide +kernel
        rw [this.1, this.2] at h; simp at h, fun r _ x hx => (by cases hx), fun r _ m hx => (by cases hx)⟩, by decide, by decide +kernel⟩
  · let ws := [(2, dataVa)]
    exact ⟨vrig (openVl 4 ws), vec (openVl 4 ws), vf 48 2 3 1 0 0, emptyStrip, open_placed .., vrig_quiet .., open_ready .., by decide +kernel, rfl, open_room _ _ _ (by decide),
      ⟨by decide +kernel, fun h => absurd (by decide +kernel) h, fun h => absurd h (by decide +kernel)⟩, by decide +kernel, by unfold indexFits; decide +kernel, by decide,
      by unfold ElementAt; decide +kernel, open_ready .., fun e _ => open_ready ..⟩
  · let ws := [(2, dataVa)]
    exact ⟨vrig (openVl 4 ws) (wordCells 0x210000 copyWords), vec (openVl 4 ws), vf 0 2 0 0 0 0, emptyStrip, open_placed .., vrig_quiet .., open_room _ _ _ (by decide), open_ready ..,
      by decide +kernel, wordsRead_of _ _ _ 0x210000 _ _ (by decide +kernel) (by decide +kernel), by decide +kernel, by decide +kernel⟩
  · let ws := [(2, 0x10), (3, 2 ^ 63)]
    exact ⟨vrig (withVl 4 ws), vec (withVl 4 ws), vf 0 2 0 0 0 0, vrig_placed' .., vrig_quiet .., vrig_ready' .., by decide +kernel, by decide +kernel⟩

/-- VAMO on one element at a boundary, whose old value is zero; VREDM; VQPOST with a malformed handle, with too many entries
and with as many as the lanes hold. -/
theorem witness_read_modify_writes :
    (∀ order : Nat, order = 0 ∨ order = 2 → ∃ (s : State) (v : VCtx) (f : VFields) (pa : Nat → Nat) (m : MemSys) (out : List (Nat × Nat)), Ready s 0 v (.vamo f) ∧ Placed s v ∧ quiet s ∧ AtBoundary v ∧ f.fn.toNat / 2 ^ 14 % 4 = order ∧ v.g.posts = []
      ∧ (Instr.vamo f).wf = true ∧ v.g.closed = [] ∧ v.t.role = .solo ∧ v.g.stopping = false ∧ f.ty = 14 ∧ v.vl ≤ v.avail 32
      ∧ indexFits v (f.fn.toNat / 2 ^ 12 % 4) ∧ AtomicAt s v f false 4 (actives s v f 32) pa
      ∧ AmoSteps s 4 (fun e old => amoTable 1 4 old (v.get s f.vs3.toNat 32 e) (v.get s f.vd.toNat 32 e)) ((actives s v f 32).map (fun e => (e, pa e))) s.sys m out)
    ∧ (∃ (s : State) (v : VCtx) (f : VFields) (pa : Nat → Nat), Ready s 0 v (.vamo f) ∧ Placed s v ∧ quiet s ∧ AtBoundary v ∧ 2 ≤ f.fn.toNat / 2 ^ 14 % 4 ∧ v.g.posts ≠ []
      ∧ (Instr.vamo f).wf = true ∧ v.g.closed = [] ∧ v.t.role = .solo ∧ v.g.stopping = false ∧ f.ty = 14 ∧ v.vl ≤ v.avail 32
      ∧ indexFits v (f.fn.toNat / 2 ^ 12 % 4) ∧ AtomicAt s v f false 4 (actives s v f 32) pa)
    ∧ (∃ (s : State) (v : VCtx) (f : VFields) (st : Strip) (pa : Nat → Nat), Ready s 0 v (.vredm f) ∧ Placed s v ∧ (Instr.vredm f).wf = true ∧ v.vl ≤ v.avail 32
      ∧ indexFits v (f.fn.toNat / 2 ^ 12 % 4) ∧ RoomFor v st ((actives s v f 32).length * 4) ∧ AtomicAt s v f false 4 (actives s v f 32) pa)
    ∧ (∀ count : Nat, count = 16 ∨ count = 17 → ∃ (s : State) (v : VCtx) (f : VFields) (st : Strip), Ready s 0 v (.vqpost f) ∧ v.t.role = .solo ∧ RoomFor v st 0
      ∧ (v.w f.vs1).toNat = handleBits 0 0 0 ∧ f.fn.toNat % 2 ^ 9 = count ∧ (∃ o, (s.hole 0).owner = some o ∧ o.lnum = v.t.lnum ∧ o.form = v.t.form)
      ∧ (s.hole 0).remote = none ∧ 32 * v.lanes * v.parts.length = 64 * 16 ∧ 2 ^ 11 ≤ (v.w 3).toNat) := by
  refine ⟨fun order h => ?_, ?_, ?_, fun count h => ?_⟩
  · let ws := [(2, dataVa)]
    have e : ∀ x : BitVec 24, actives (vrig (withVl 1 ws)) (vec (withVl 1 ws)) (vf 1 2 3 4 14 x) 32 = [0] := fun x => by
      show actives (vrig (withVl 1 ws)) (vec (withVl 1 ws)) (vf 1 2 3 4 14 0) 32 = [0]; decide +kernel
    rcases h with rfl | rfl
    · exact ⟨vrig (withVl 1 ws), vec (withVl 1 ws), vf 1 2 3 4 14 0x090000, fun _ => 0x210000, _, _, vrig_ready' .., vrig_placed' .., vrig_quiet ..,
        ⟨rfl, rfl, rfl, rfl, rfl, rfl, rfl⟩, rfl, rfl, by decide +kernel, rfl, rfl, rfl, rfl, by decide +kernel, by unfold indexFits; decide +kernel,
        by unfold AtomicAt; decide +kernel, by rw [e]; exact ⟨by decide +kernel, [], ⟨rfl, rfl⟩, rfl⟩⟩
    · exact ⟨vrig (withVl 1 ws), vec (withVl 1 ws), vf 1 2 3 4 14 0x098000, fun _ => 0x210000, _, _, vrig_ready' .., vrig_placed' .., vrig_quiet ..,
        ⟨rfl, rfl, rfl, rfl, rfl, rfl, rfl⟩, rfl, rfl, by decide +kernel, rfl, rfl, rfl, rfl, by decide +kernel, by unfold indexFits; decide +kernel,
        by unfold AtomicAt; decide +kernel, by rw [e]; exact ⟨by decide +kernel, [], ⟨rfl, rfl⟩, rfl⟩⟩
  · let ws := [(2, dataVa)]
    let g := fun (x : Group) => { withVl 1 ws x with posts := [⟨0, 0, 0, [[]]⟩] }
    exact ⟨vrig g, vec g, vf 1 2 3 4 14 0x098000, fun _ => 0x210000, vrig_ready g [] (.vamo (vf 1 2 3 4 14 0x098000)) rfl rfl rfl rfl rfl,
      vrig_placed _ _ ((parts_of (vectorThread g) (groupOfRig g) (.inl rfl) rfl).trans rfl) rfl, vrig_quiet .., ⟨rfl, rfl, rfl, rfl, rfl, rfl, rfl⟩, by decide,
      List.cons_ne_nil _ _, by decide +kernel, rfl, rfl, rfl, rfl, by decide +kernel, by unfold indexFits; decide +kernel, by unfold AtomicAt; decide +kernel⟩
  · let ws := [(2, dataVa)]
    exact ⟨vrig (openVl 2 ws), vec (openVl 2 ws), vf 0 2 3 4 14 0, emptyStrip, fun _ => 0x210000, open_ready .., open_placed .., by decide +kernel, by decide +kernel,
      by unfold indexFits; decide +kernel, open_room _ _ _ (by decide +kernel), by unfold AtomicAt; decide +kernel⟩
  · let ws := [(2, 0), (3, 2 ^ 11)]
    let s := vrig (openVl 2 ws)
    refine ⟨{ s with fabric := { s.fabric with holes := [(0, ownHole 0)] } }, vec (openVl 2 ws), vf 0 2 3 0 0 (BitVec.ofNat 24 count), emptyStrip,
      ⟨rfl, rfl, rfl, fun _ => rfl, fun _ => rfl, fun _ _ => rfl, fun r _ x hx => (by cases hx), fun r _ m hx => (by cases hx)⟩, rfl, open_room _ _ _ (by decide), ?_⟩
    rcases h with rfl | rfl <;>
      exact ⟨by decide +kernel, rfl, ⟨⟨0, 0, 0⟩, rfl, rfl, rfl⟩, rfl, by decide +kernel, by decide +kernel⟩

/-- A window of 1,024 bins of four bytes, one of a bin more, and VACC and VMERGE on a window of two bins. -/
theorem witness_windows :
    (∀ bins : Nat, bins = 1024 ∨ bins = 1025 → ∃ (s : State) (v : VCtx) (f : VFields) (st : Strip), Ready s 0 v (.vwin f) ∧ (Instr.vwin f).wf = true ∧ RoomFor v st 0
      ∧ (v.w f.vs1).toNat = 0 ∧ (v.w f.vs2).toNat = bins)
    ∧ (∃ (s : State) (v : VCtx) (f : VFields), Ready s 0 v (.vacc f) ∧ v.vl ≠ 0 ∧ v.g.core.window = none ∧ Ready s 0 v (.vmerge f))
    ∧ (∃ (s : State) (v : VCtx) (f : VFields) (st : Strip) (win : Window) (pa : Nat → Nat) (first : Nat × Nat) (rest : List (Nat × Nat)),
      v.g.core.window = some win ∧ win.ty = f.ty.toNat ∧ win.sg = f.fn.toNat / 2 ^ 23 % 2 ∧ win.off % 4 = 0 ∧ win.off + win.bins * 4 ≤ 4096 ∧ Placed s v
      ∧ Ready s 0 v (.vacc f) ∧ (Instr.vacc f).wf = true ∧ v.vl ≤ v.avail 32 ∧ RoomFor v st (8 * (actives s v f 32).length)
      ∧ (∀ e ∈ actives s v f 32, v.get s f.vs1.toNat 32 e < win.bins)
      ∧ (∀ l ∈ lanesOf v, SliceClean s l.1 l.2 win.off (win.bins * 4))
      ∧ Ready s 0 v (.vmerge (vf 0 2 0 0 14 0)) ∧ (Instr.vmerge (vf 0 2 0 0 14 0)).wf = true ∧ lanesOf v = first :: rest ∧ RoomFor v st (win.bins * 4)
      ∧ (∀ b, b < win.bins → translate s (vecAccessor s v v.home) ((v.w 2).toNat + b * 4) (.atomic false) = .ok (pa b))) := by
  refine ⟨fun bins h => ?_, ?_, ?_⟩
  · refine ⟨vrig (openVl 1 [(3, bins)]), vec (openVl 1 [(3, bins)]), vf 0 2 3 0 14 0, emptyStrip, open_ready .., by decide +kernel, open_room _ _ _ (by decide), ?_⟩
    rcases h with rfl | rfl <;> decide +kernel
  · exact ⟨vrig (withVl 1), vec (withVl 1), vf 0 2 3 0 14 0, vrig_ready' .., by decide, rfl, vrig_ready' ..⟩
  · let g := fun x => withCore (fun c => { c with window := some ⟨4088, 2, 14, 0, 0⟩ }) (openVl 3 [(2, dataVa)] x)
    have hp : (vec g).parts = [⟨0, 0, 0, 0, 32⟩] := (parts_of (vectorThread g) (groupOfRig g) (.inl rfl) rfl).trans rfl
    have room : ∀ n, n ≤ 8192 → RoomFor (vec g) emptyStrip n := fun n h => by
      refine ⟨rfl, rfl, ?_⟩
      have hl : (vec g).lanes = 32 := by unfold VCtx.lanes; rw [hp]
      have hs : storedBytes emptyStrip.effects = 0 := rfl
      rw [hp, hl, hs]; simp only [List.length_cons, List.length_nil]; omega
    exact ⟨vrig g, vec g, vf 0 2 3 0 14 0, emptyStrip, ⟨4088, 2, 14, 0, 0⟩, fun b => 0x210000 + 4 * b, (0, 0), _, rfl, rfl, rfl, rfl, by decide, vrig_placed _ _ hp rfl,
      vrig_ready _ _ _ rfl rfl rfl rfl rfl, by decide +kernel, by decide +kernel, room _ (by decide +kernel), by decide +kernel, (fun l _ u _ _ h => nomatch h),
      vrig_ready _ _ _ rfl rfl rfl rfl rfl, by decide +kernel, by unfold lanesOf; rw [hp]; rfl, room _ (by decide), by decide +kernel⟩

/-- A die that has the built-in table, one that has not, a user table that is not loaded and one that is; and a table of four
words for a slice's last bytes and one that passes its end. -/
theorem witness_functions :
    (∃ (s : State) (v : VCtx) (f : VFields), Ready s 0 v (.vfn f) ∧ Placed s v ∧ (Instr.vfn f).wf = true ∧ HasRoom v [f.vd.toNat] ∧ v.vl ≤ v.avail 32
      ∧ f.fn.toNat % 2 ^ 5 < 16 ∧ ∀ p ∈ v.parts, builtinVersion s v.t p.die (f.fn.toNat % 2 ^ 5) = some 3)
    ∧ (∃ (s : State) (v : VCtx) (f : VFields), Ready s 0 v (.vfn f) ∧ Placed s v ∧ (Instr.vfn f).wf = true ∧ HasRoom v [f.vd.toNat] ∧ v.vl ≤ v.avail 32
      ∧ ∃ p ∈ v.parts, builtinVersion s v.t p.die (f.fn.toNat % 2 ^ 5) = none)
    ∧ (∀ loaded : Bool, ∃ (s : State) (v : VCtx) (f : VFields), Ready s 0 v (.vfn f) ∧ Placed s v ∧ (Instr.vfn f).wf = true ∧ HasRoom v [f.vd.toNat] ∧ v.vl ≤ v.avail 32
      ∧ f.fn.toNat % 2 ^ 5 = 16 ∧ (tableGet 16 v.g.core.tables = if loaded then some (0, 64) else none)) := by
  refine ⟨?_, ?_, fun loaded => ?_⟩
  · let s := vrig (withVl 2)
    exact ⟨{ s with proctor := { s.proctor with micro := Vector.replicate 4 { Microcode.reset with tables := [[3]] }, images := [(1, { rigImage with tver := [3] })] } },
      vec (withVl 2), vf 1 2 0 0 0 0, ⟨rfl, rfl, rfl, fun _ => rfl, fun _ => rfl, fun _ _ => rfl, fun r _ x hx => (by cases hx), fun r _ m hx => (by cases hx)⟩,
      ⟨(vrig_placed' 2 [] []).lanes, (vrig_placed' 2 [] []).apart, rfl, rfl, rfl, rfl⟩, by decide +kernel, vrig_room' .., by decide +kernel, by decide, by decide +kernel⟩
  · exact ⟨vrig (withVl 2), vec (withVl 2), vf 1 2 0 0 0 15, vrig_ready' .., vrig_placed' .., by decide +kernel, vrig_room' .., by decide +kernel, by decide +kernel⟩
  · let g := fun x => withCore (fun c => { c with tables := if loaded then [(16, (0, 64))] else [] }) (withVl 2 [] x)
    have hp : (vec g).parts = [⟨0, 0, 0, 0, 32⟩] := (parts_of (vectorThread g) (groupOfRig g) (.inl rfl) rfl).trans rfl
    refine ⟨vrig g, vec g, vf 1 2 0 0 0 16, vrig_ready _ _ _ rfl rfl rfl rfl rfl, vrig_placed _ _ hp rfl, by decide +kernel, ⟨rfl, fun st h => by cases h⟩, ?_, rfl, ?_⟩
    · cases loaded <;> decide +kernel
    · cases loaded <;> rfl

/-- The table whose header sets out 40 bytes. -/
def tableWords : List Nat := [2 ^ 21 + 2 ^ 8 + 1, 0, 0, 0, 0, 0, 0, 0, 0, 0]

theorem witness_table_loads : ∀ off : Nat, off = 4096 - 48 ∨ off = 4096 - 32 → ∃ (s : State) (v : VCtx) (f : VFields),
    Ready s 0 v (.vtblld f) ∧ Placed s v ∧ quiet s ∧ AtBoundary v ∧ v.g.closed = [] ∧ v.g.stopping = false ∧ (v.w f.vs1).toNat % 16 = 0
      ∧ WordsRead s v (v.w f.vs1).toNat 4 (tableWords.take 4) ∧ tableSize (tableWords.getD 0 0) = some 40
      ∧ WordsRead s v (v.w f.vs1).toNat 4 tableWords ∧ 4 * tableWords.length = 40 ∧ (v.w f.vs2).toNat = off := by
  intro off h
  let ws := [(2, dataVa), (3, off)]
  let bs := (tableWords.zipIdx).flatMap (fun x => (bytesOf 4 x.1).zipIdx.map (fun y => (0x210000 + 4 * x.2 + y.2, y.1)))
  refine ⟨vrig (withVl 2 ws) bs, vec (withVl 2 ws), vf 0 2 3 0 0 16, vrig_ready' .., vrig_placed' .., vrig_quiet .., ⟨rfl, rfl, rfl, rfl, rfl, rfl, rfl⟩, rfl, rfl, ?_⟩
  rcases h with rfl | rfl <;>
    exact ⟨by decide +kernel, wordsRead_of _ _ _ 0x210000 _ _ (by decide +kernel) (by decide +kernel), by decide +kernel,
      wordsRead_of _ _ _ 0x210000 _ _ (by decide +kernel) (by decide +kernel), by decide, by decide +kernel⟩

/-- A group of 64 lanes in array mode, with an array queue. -/
def arrayGroup (am : BitVec 2) (queue : List ArrayOp) (h : Group → Group := id) : Group → Group := fun g =>
  let g := h g
  { g with nblk := 2, queue := queue, core := { g.core with am := am } }

theorem array_parts (f : Group → Group) (hb : (groupOfRig f).block0 = 0) (hn : (groupOfRig f).nblk = 2) : (vec f).parts = [⟨0, 0, 0, 0, 64⟩] := by
  refine (parts_of (vectorThread f) (groupOfRig f) (.inl rfl) rfl).trans ?_
  rw [hb, hn]; rfl

theorem array_placed (f : Group → Group) (bs : List Host.Cell) (hp : (vec f).parts = [⟨0, 0, 0, 0, 64⟩]) (ht : (groupOfRig f).core.tags = []) :
    Placed (vrig f bs) (vec f) where
  lanes := fun p hx => by
    have hl : (vec f).lanes = 64 := by unfold VCtx.lanes; rw [hp]
    rw [hp] at hx; rw [List.mem_singleton.mp hx, hl]; decide
  apart := by rw [hp]; simp
  vregs := rfl
  masks := rfl
  slices := rfl
  tags := by rw [show (vec f).g.core.tags = [] from ht]; rfl

theorem array_queueable (am : BitVec 2) (queue : List ArrayOp) (i : Instr) : ReadyToQueue (vrig (arrayGroup am queue)) 0 (vec (arrayGroup am queue)) i where
  actor := rfl
  ctx := rfl
  unbound := fun r _ => rfl
  taken := fun r _ x hx => by cases hx
  unmarked := fun r _ m hx => by cases hx

def aLoad (started : Bool) (outside : Bool := false) : ArrayOp := ⟨.mldw (vf 0 8 0 0 3 0), w64 codeVa, 0, outside, started, []⟩

/-- VMODE on a grid and on none; an array operation with seven operations queued and with eight, outside array mode, on another grid,
with operands that overlap, and with good ones; MCHAIN with a member of its own group and with none, and behind the queue. -/
theorem witness_array_issue :
    (∃ (s : State) (v : VCtx) (f : VFields), Ready s 0 v (.vmodeArr f) ∧ modeCode v.lanes = some 1 ∧ Ready s 0 v (.vmodeVec f))
    ∧ (∃ (s : State) (v : VCtx) (f : VFields), Ready s 0 v (.vmodeArr f) ∧ modeCode v.lanes = none)
    ∧ (∀ n am, (n = 0 ∨ n = 7 ∨ n = 8) → am < 3 → ∃ (s : State) (v : VCtx) (f : VFields) (regs : List Nat), ReadyToQueue s 0 v (.moxa f) ∧ (Instr.moxa f).wf = true
      ∧ arrayWrites v (.moxa f) = some regs ∧ v.g.queue.length = n ∧ v.g.core.am = am ∧ modeCode v.lanes = some 1 ∧ arrayDetail v (.moxa f) = none
      ∧ HasRoom v regs ∧ arrayDetail v (.moxa (vf 8 8 9 0 3 0)) = some 15 ∧ (Instr.moxa (vf 8 8 9 0 3 0)).wf = true)
    ∧ (∃ (s : State) (v : VCtx) (f : VFields) (p : Part), ReadyToQueue s 0 v (.mchain f) ∧ v.g.queue = [] ∧ v.g.core.am = 1 ∧ modeCode v.lanes = some 1
      ∧ (v.w f.vs1).toNat = chainWord true none none 0 ∧ v.parts[0]? = some p
      ∧ (v.w 3).toNat = chainWord true (some ⟨3, 7, 7, 7⟩) none 0 ∧ MemberOk ⟨3, 7, 7, 7⟩ ∧ chainPartnerOk s v.t p ⟨3, 7, 7, 7⟩ = false) := by
  refine ⟨?_, ⟨vrig (withVl 0), vec (withVl 0), vf 0 0 0 0 0 0, vrig_ready' .., by decide +kernel⟩, fun n am hn ha => ?_, ?_⟩
  · exact ⟨vrig (arrayGroup 0 []), vec (arrayGroup 0 []), vf 0 0 0 0 0 0, vrig_ready _ _ _ rfl rfl rfl rfl rfl, by decide +kernel,
      vrig_ready _ _ _ rfl rfl rfl rfl rfl⟩
  · refine ⟨vrig (arrayGroup am (List.replicate n (aLoad false))), vec (arrayGroup am (List.replicate n (aLoad false))), vf 0 8 9 0 3 0, _,
      array_queueable _ _ _, by decide +kernel, rfl, ?_, rfl, ?_⟩
    · rcases hn with rfl | rfl | rfl <;> rfl
    · have hl : (vec (arrayGroup am (List.replicate n (aLoad false)))).lanes = 64 := by unfold VCtx.lanes; rw [array_parts _ rfl rfl]
      refine ⟨by rw [hl]; rfl, ?_, ⟨rfl, fun st h => by cases h⟩, ?_, by decide +kernel⟩ <;> simp only [arrayDetail] <;> decide +kernel
  · let g := fun x => withCore (fun c => { c with w := (c.w.setIfInBounds 2 (w64 (2 ^ 63))).setIfInBounds 3 (w64 (chainWord true (some ⟨3, 7, 7, 7⟩) none 0)) }) (arrayGroup 1 [] id x)
    exact ⟨vrig g, vec g, vf 0 2 0 0 0 0, ⟨0, 0, 0, 0, 64⟩, ⟨rfl, rfl, fun _ _ => rfl, fun r _ x hx => (by cases hx), fun r _ m hx => (by cases hx)⟩, rfl, rfl,
      by decide +kernel, by decide +kernel, by rw [array_parts g rfl rfl]; rfl, by decide +kernel, by unfold MemberOk; decide, by decide +kernel⟩

/-- A read of a tile of two rows and two columns from the window, and a transpose of a group of 64 lanes. -/
theorem witness_tile_reads :
    (∃ (s : State) (v : VCtx) (f : VFields) (x : TileFields) (pa : Nat → Nat → Nat → Nat → Nat), Ready s 0 v (.mldt f) ∧ Placed s v ∧ quiet s ∧ (Instr.mldt f).wf = true
      ∧ gridFor v.lanes = some (8, 8) ∧ v.g.core.am = 0 ∧ x.In (v.w f.vs1).toNat (v.w f.vs2).toNat (v.w f.vs3).toNat ∧ x.base % 16 = 0 ∧ x.rp % 16 = 0 ∧ x.tp % 16 = 0
      ∧ x.drem = 2 ∧ x.krem = 2 ∧ f.vd.toNat + 1 ≤ 64 ∧ HasRoom v [f.vd.toNat] ∧ x.sbase = 0 ∧ x.srp = 0
      ∧ ∀ i k, i < 2 → k < 2 → WindowRead s v 32 (k * 64 + i) (x.offset 32 8 0 i k) 4 (pa 0 0 i k))
    ∧ (∃ (s : State) (v : VCtx) (f : VFields), Ready s 0 v (.vtrn8 f) ∧ Placed s v ∧ (Instr.vtrn8 f).wf = true ∧ gridFor v.lanes = some (8, 8) ∧ v.vl ≤ v.avail 32
      ∧ HasRoom v (tileOf f.vd) ∧ v.vl ≠ 0)
    ∧ (∃ (s : State) (v : VCtx) (f : VFields), Ready s 0 v (.vtrn8 f) ∧ Placed s v ∧ (Instr.vtrn8 f).wf = true ∧ gridFor v.lanes = none) := by
  refine ⟨?_, ?_, ⟨vrig (withVl 4), vec (withVl 4), vf 8 0 0 0 0 0, vrig_ready' .., vrig_placed' .., by decide +kernel, by decide +kernel⟩⟩
  · let ws := [(2, 0x100), (3, 16 * 2 ^ 44), (4, 2 * 2 ^ 12 + 2)]
    let g := arrayGroup 0 [] (withVl 8 ws)
    exact ⟨vrig g, vec g, vf 1 2 3 4 0 0, ⟨0x100, 16, 0, 0, 0, 0, 2, 2⟩, fun _ _ i k => padPa + 0x100 + 16 * i + 4 * k, vrig_ready _ _ _ rfl rfl rfl rfl rfl,
      array_placed _ _ (array_parts _ rfl rfl) rfl, vrig_quiet .., by decide +kernel, by decide +kernel, rfl,
      ⟨⟨by decide +kernel, by decide⟩, ⟨by decide +kernel, by decide, by decide, by decide⟩, ⟨by decide +kernel, by decide, by decide, by decide, by decide⟩⟩,
      rfl, rfl, rfl, rfl, rfl, by decide, ⟨rfl, fun st h => by cases h⟩, rfl, rfl, fun i k hi hk => by
        have : (i = 0 ∨ i = 1) ∧ (k = 0 ∨ k = 1) := by omega
        rcases this with ⟨rfl | rfl, rfl | rfl⟩ <;> exact ⟨by decide, by decide +kernel, by decide +kernel, by decide +kernel⟩⟩
  · let g := arrayGroup 0 [] (withVl 512)
    exact ⟨vrig g, vec g, vf 8 0 0 0 0 0, vrig_ready _ _ _ rfl rfl rfl rfl rfl, array_placed _ _ (array_parts _ rfl rfl) rfl, by decide +kernel, by decide +kernel,
      by decide +kernel, ⟨rfl, fun st h => by cases h⟩, by decide⟩

/-- An operation of a strip, one issued outside any, and a chained one whose result another group's link buffer takes. -/
theorem witness_array_results :
    (∀ outside : Bool, ∃ (s : State) (v : VCtx) (op : ArrayOp) (regs : List Nat), vctx s 0 = some v ∧ Placed s v ∧ v.g.queue = op :: [] ∧ op.started = true
      ∧ op.instr.wf = true ∧ arrayWrites v op.instr = some regs ∧ arrayDetail v op.instr = none ∧ gridFor v.lanes = some (8, 8)
      ∧ v.parts.Pairwise (fun p q => p.die ≠ q.die) ∧ op.outside = outside ∧ v.g.strip = none ∧ v.g.closed = [] ∧ v.t.loader = none ∧ v.g.leaving = []
      ∧ ∀ f, op.instr ≠ .mpass f)
    ∧ (∃ (s : State) (v : VCtx) (op : ArrayOp) (regs : List Nat) (f : VFields) (part : Part) (h : Group), vctx s 0 = some v ∧ Placed s v ∧ v.g.queue = op :: []
      ∧ op.started = true ∧ op.instr.wf = true ∧ arrayWrites v op.instr = some regs ∧ arrayDetail v op.instr = none ∧ gridFor v.lanes = some (8, 8)
      ∧ op.outside = true ∧ op.instr = .mpass f ∧ v.parts = [part] ∧ flagCH f = true ∧ (linksOf v.g part.die).down ≠ none ∧ s.group 1 = some h
      ∧ linkBuffer s 0 part.die (passEntry s v f op 8 8 0 part.die) = some (1, 0, [])) := by
  refine ⟨fun outside => ?_, ?_⟩
  · exact ⟨vrig (arrayGroup 1 [aLoad true outside]), vec (arrayGroup 1 [aLoad true outside]), aLoad true outside, _, rfl, array_placed _ _ (array_parts _ rfl rfl) rfl, rfl, rfl,
      by cases outside <;> decide +kernel, rfl, rfl, by cases outside <;> decide +kernel, by rw [array_parts _ rfl rfl]; simp, rfl, rfl, rfl, rfl, rfl,
      fun f => Instr.noConfusion⟩
  · let f := vf 0 8 16 0 3 2
    let op : ArrayOp := ⟨.mpass f, w64 codeVa, 0, true, true, []⟩
    let g := fun x => let y := arrayGroup 1 [op] id x; { y with core := { y.core with links := [(0, ⟨none, some ⟨0, 0, 0, 1⟩⟩)] } }
    let h := fun x => let y := arrayGroup 1 [] id x; { y with core := { y.core with links := [(0, ⟨some ⟨0, 0, 0, 0⟩, none⟩)] } }
    let p := array_placed g [] (array_parts _ rfl rfl) rfl
    exact ⟨{ vrig g with threads := [(0, vectorThread g), (1, vectorThread h)] }, vec g, op, _, f, ⟨0, 0, 0, 0, 64⟩, groupOfRig h, rfl, ⟨p.lanes, p.apart, rfl, rfl, rfl, rfl⟩, rfl, rfl,
      by decide +kernel, rfl, by decide +kernel, by decide +kernel, rfl, rfl, array_parts g rfl rfl, by decide, by simp [vec, g, groupOfRig, linksOf, tableGet], rfl, by decide +kernel⟩

/-- A queue with nothing in the way, a resting one, and a chained pass that meets an entry of its code and lanes, of another
code, and of a fourth hop. -/
theorem witness_array_events :
    (∃ (s : State) (v : VCtx), vctx s 0 = some v ∧ v.g.queue = [] ++ aLoad false :: [] ∧ v.g.recess = false ∧ v.g.quiesce = false ∧ v.g.stop = none ∧ s.sched.hot = false)
    ∧ (∃ (s : State) (v : VCtx), vctx s 0 = some v ∧ v.g.queue = [] ++ aLoad false :: [] ∧ v.g.recess = true ∧ v.g.quiesce = true ∧ v.g.stop ≠ none)
    ∧ (∀ code hop : Nat, ∃ (s : State) (v : VCtx) (op : ArrayOp) (f : VFields) (p : Part) (e : LinkEntry), vctx s 0 = some v ∧ v.g.queue = [] ++ op :: []
      ∧ op.started = false ∧ op.instr = .mpass f ∧ v.parts = [p] ∧ flagCH f = true ∧ (linksOf v.g p.die).up ≠ none ∧ (linksOf v.g p.die).down ≠ none
      ∧ tableGet p.die op.entries = none ∧ v.g.stop = none ∧ tableGet p.die v.g.buffers = some ([] ++ e :: []) ∧ e.consumed = false ∧ e.code = code ∧ e.hop = hop
      ∧ e.lanes = 64 ∧ ∀ l ∈ v.g.core.links, ∀ m, l.2.up = some m → memberPart s m = none) :=
  ⟨⟨vrig (arrayGroup 1 [aLoad false]), vec (arrayGroup 1 [aLoad false]), rfl, rfl, rfl, rfl, rfl, rfl⟩,
    let g := fun x => { arrayGroup 1 [aLoad false] id x with recess := true, quiesce := true, stop := some true }
    ⟨vrig g, vec g, rfl, rfl, rfl, rfl, by simp [vec, g, groupOfRig]⟩,
    fun code hop =>
      let op : ArrayOp := ⟨.mpass (vf 0 8 16 0 3 2), w64 codeVa, 0, false, false, []⟩
      let m : Member := ⟨0, 0, 0, 1⟩
      let g := fun x => let y := arrayGroup 1 [op] id x; { y with buffers := [(0, [⟨[], code, 64, hop, false, none⟩])], core := { y.core with links := [(0, ⟨some m, some m⟩)] } }
      ⟨vrig g, vec g, op, _, _, _, rfl, rfl, rfl, rfl, array_parts g rfl rfl, by decide, by simp [vec, g, groupOfRig, linksOf, tableGet], by simp [vec, g, groupOfRig, linksOf, tableGet], rfl, rfl, rfl, rfl, rfl, rfl, rfl,
        fun l hl x e => by obtain rfl := List.mem_singleton.1 hl; cases e; rfl⟩⟩

/-- A compute graph that passes its source on, a memory graph of one load port, waiting or not, one of one addition, and a header of zeros. -/
def computeWords : List Nat := [2 ^ 56 + 63 * 2 ^ 32 + 2 ^ 28 + 2 ^ 26 + 2 ^ 16 + 14, 0, 28 * 2 ^ 27 + 2 * 2 ^ 24 + 0xF0FFFF * 2 ^ 32, 0]
def loadWords (aux : Nat) : List Nat :=
  [2 ^ 56 + 63 * 2 ^ 32 + 2 * 2 ^ 28 + 2 ^ 26 + 2 ^ 16 + 15, 0, 25 * 2 ^ 27 + 3 * 2 ^ 24 + 0xF0FFFF * 2 ^ 32, aux * 2 ^ 32]
def memoryWords : List Nat := [2 ^ 56 + 63 * 2 ^ 32 + 2 * 2 ^ 28 + 2 ^ 26 + 2 ^ 16 + 15, 0, 3 * 2 ^ 24 + 0xF0F0FF * 2 ^ 32, 0]

theorem witness_loads_of_graphs : ∀ good : Bool, ∃ (s : State) (v : VCtx) (f : VFields) (st : Strip) (ws : List Nat), Ready s 0 v (.sload f) ∧ quiet s
    ∧ (v.w f.vs1).toNat % 16 = 0 ∧ WordsRead s v (v.w f.vs1).toNat 8 ws ∧ ws.length = 2 * (1 + graphRecords (joinNumbers 64 ws % 2 ^ 128))
    ∧ (graphFault (graphOf (joinNumbers 64 ws)) = if good then none else some 0xFF)
    ∧ (good = true → (graphOf (joinNumbers 64 ws)).ver = 1 ∧ loadStatus v 0 (graphOf (joinNumbers 64 ws)) = 0) ∧ RoomFor v st 0
    ∧ Ready s 0 v (.sfree f) ∧ Ready s 0 v (.squery f) := by
  intro good
  let ws := [(2, dataVa)]
  cases good
  · exact ⟨vrig (openVl 1 ws), vec (openVl 1 ws), vf 1 2 0 0 0 0, emptyStrip, [0, 0], open_ready .., vrig_quiet .., by decide +kernel,
      wordsRead_of _ _ _ 0x210000 _ _ (by decide +kernel) (by decide +kernel), by decide +kernel, by decide +kernel, (fun h => nomatch h), open_room _ _ _ (by decide),
      open_ready .., open_ready ..⟩
  · exact ⟨vrig (openVl 1 ws) (wordCells 0x210000 computeWords), vec (openVl 1 ws), vf 1 2 0 0 0 0, emptyStrip, computeWords, open_ready .., vrig_quiet .., by decide +kernel,
      wordsRead_of _ _ _ 0x210000 _ _ (by decide +kernel) (by decide +kernel), by decide +kernel, by decide +kernel, (fun _ => by decide +kernel), open_room _ _ _ (by decide),
      open_ready .., open_ready ..⟩

/-- A slot with a graph. -/
def graphSlot (st : Nat) (ws : List Nat) (run : Option Run) : Slot :=
  { st := st, addr := dataVa, image := bytesOf (8 * ws.length) (joinNumbers 64 ws), cost := 2, live := [], run := run, reload := false }

def slateGroup (sl : Slot) (h : Group → Group) : Group → Group := fun g => { h g with slots := [(0, sl)] }

theorem slate_ready (sl : Slot) (n : Nat) (ws : List (Nat × Nat)) (bs : List Host.Cell) (i : Instr) :
    Ready (vrig (slateGroup sl (openVl n ws)) bs) 0 (vec (slateGroup sl (openVl n ws))) i := vrig_ready _ _ _ rfl rfl rfl rfl rfl

theorem slate_parts (sl : Slot) (n : Nat) (ws : List (Nat × Nat)) : (vec (slateGroup sl (openVl n ws))).parts = [⟨0, 0, 0, 0, 32⟩] :=
  (parts_of (vectorThread (slateGroup sl (openVl n ws))) (groupOfRig (slateGroup sl (openVl n ws))) (.inl rfl) rfl).trans rfl

/-- XOP on a graph of its type, still being placed and ready, on one of another kind, and on an empty slot; SSTART without and with a completion. -/
theorem witness_slate_instructions :
    (∃ (s : State) (v : VCtx) (f : VFields), (Ready s 0 v (.xop f) ∧ Ready s 0 v (.sstart f)) ∧ EmptySlot v (slotOf f))
    ∧ (∀ st, st = 1 ∨ st = 2 → ∃ (s : State) (v : VCtx) (f : VFields) (sl : Slot), InSlot v (slotOf f) sl ∧ Ready s 0 v (.xop f) ∧ (Instr.xop f).wf = true
      ∧ (graphOf (leValue sl.image)).kind = 1 ∧ (graphOf (leValue sl.image)).ty = f.ty.toNat ∧ (graphOf (leValue sl.image)).sg = f.fn.toNat / 2 ^ 23 % 2
      ∧ SourcesOk f (graphOf (leValue sl.image)).nsrc ∧ sl.st = st ∧ Placed s v ∧ HasRoom v [f.vd.toNat] ∧ v.vl ≤ v.avail (elemTypeOf f).width)
    ∧ (∃ (s : State) (v : VCtx) (f : VFields) (sl : Slot), InSlot v (slotOf f) sl ∧ Ready s 0 v (.xop f) ∧ (Instr.xop f).wf = true ∧ (graphOf (leValue sl.image)).kind ≠ 1)
    ∧ (∀ post : Bool, ∃ (s : State) (v : VCtx) (f : VFields) (sl : Slot) (st : Strip), InSlot v (slotOf f) sl ∧ Ready s 0 v (.sstart f) ∧ (Instr.sstart f).wf = true
      ∧ (graphOf (leValue sl.image)).kind = 2 ∧ SourcesOk f (graphOf (leValue sl.image)).nsrc ∧ RoomFor v st 0 ∧ f.fn.getLsbD 9 = post ∧ v.t.role = .solo
      ∧ f.fn.toNat / 2 ^ 10 % 2 ^ 11 = handleBits 0 0 0 ∧ (∃ o, (s.hole 0).owner = some o ∧ o.lnum = v.t.lnum ∧ o.form = v.t.form) ∧ (s.hole 0).remote = none) := by
  refine ⟨⟨vrig (withVl 1), vec (withVl 1), vf 1 2 0 0 0 0, ⟨vrig_ready' .., vrig_ready' ..⟩, fun sl h => by cases h⟩, fun st h => ?_, ?_, fun post => ?_⟩
  · have src : SourcesOk (vf 1 2 0 0 14 0) 1 := fun k x hk h => by
      have : k = 1 ∨ k = 2 ∨ 3 ≤ k := by omega
      rcases this with rfl | rfl | hk
      · cases h; rfl
      · cases h; rfl
      · rw [List.getElem?_eq_none (by simp; omega)] at h; cases h
    refine ⟨vrig (slateGroup (graphSlot st computeWords none) (openVl 3 [])), vec (slateGroup (graphSlot st computeWords none) (openVl 3 [])), vf 1 2 0 0 14 0,
      graphSlot st computeWords none, ⟨rfl, ?_⟩, slate_ready .., by decide +kernel, ?_, ?_, ?_, ?_, rfl, vrig_placed _ _ (slate_parts ..) rfl,
      ⟨rfl, fun s h => by cases h; decide⟩, ?_⟩
    · rcases h with rfl | rfl <;> decide
    · rcases h with rfl | rfl <;> decide +kernel
    · rcases h with rfl | rfl <;> decide +kernel
    · rcases h with rfl | rfl <;> decide +kernel
    · have : (graphOf (leValue (graphSlot st computeWords none).image)).nsrc = 1 := by rcases h with rfl | rfl <;> decide +kernel
      rw [this]; exact src
    · rcases h with rfl | rfl <;> decide +kernel
  · exact ⟨vrig (slateGroup (graphSlot 3 memoryWords none) (openVl 3 [])), vec (slateGroup (graphSlot 3 memoryWords none) (openVl 3 [])), vf 1 2 0 0 14 0,
      graphSlot 3 memoryWords none, ⟨rfl, by decide⟩, slate_ready .., by decide +kernel, by decide +kernel⟩
  · have src : ∀ n, SourcesOk (vf 1 2 0 0 0 n) 1 := fun n k x hk h => by
      have : k = 1 ∨ k = 2 ∨ 3 ≤ k := by omega
      rcases this with rfl | rfl | hk
      · cases h; rfl
      · cases h; rfl
      · rw [List.getElem?_eq_none (by simp; omega)] at h; cases h
    let g := slateGroup (graphSlot 3 memoryWords none) (openVl 3 [])
    let s := vrig g
    have room : RoomFor (vec g) emptyStrip 0 := by
      refine ⟨rfl, rfl, ?_⟩
      have hl : (vec g).lanes = 32 := by unfold VCtx.lanes; rw [slate_parts]
      rw [slate_parts, hl]; decide
    have hn : (graphOf (leValue (graphSlot 3 memoryWords none).image)).nsrc = 1 := by decide +kernel
    refine ⟨{ s with fabric := { s.fabric with holes := [(0, ownHole 0)] } }, vec g, vf 1 2 0 0 0 (if post then 0x200 else 0), graphSlot 3 memoryWords none, emptyStrip, ⟨?_, by decide⟩,
      ⟨rfl, rfl, rfl, fun _ => rfl, fun _ => rfl, fun _ _ => rfl, fun r _ x hx => (by cases hx), fun r _ m hx => (by cases hx)⟩, ?_, by decide +kernel, by rw [hn]; exact src _, room, ?_, rfl,
      ?_, ⟨⟨0, 0, 0⟩, rfl, rfl, rfl⟩, rfl⟩ <;> cases post <;> rfl

/-- A placement that completes; a run's next and last iterations; iterations that load, fail a check, meet poison and wait; a run that is over, with its pigeonhole free, full and owned by nobody; a
loader that has returned. -/
theorem witness_slate_events :
    (∃ (s : State) (v : VCtx) (sl : Slot), vctx s 0 = some v ∧ tableGet 0 v.g.slots = some sl ∧ sl.st = 1 ∧ sl.reload = false)
    ∧ (∃ (s : State) (v : VCtx) (sl : Slot) (r : Run), vctx s 0 = some v ∧ quiet s ∧ v.t.isShadow = false ∧ tableGet 0 v.g.slots = some sl ∧ sl.run = some r ∧ sl.st = 4
      ∧ v.g.stop = none ∧ r.stopped = none ∧ r.next < r.count ∧ Memory.wf s.sys.mem = true ∧ (iterationOf s v sl r).waits = false ∧ (iterationOf s v sl r).stop = none
      ∧ (iterationOf s v sl r).stores = [])
    ∧ (∀ way : Nat × Nat × Bool, way = (dataVa, 0, false) ∨ way = (dataVa + 4, 0, false) ∨ way = (dataVa, 0, true) ∨ way = (windowVa, 1, false) →
      ∃ (s : State) (v : VCtx) (sl : Slot) (r : Run), vctx s 0 = some v ∧ quiet s ∧ v.t.isShadow = false ∧ tableGet 0 v.g.slots = some sl ∧ sl.run = some r ∧ sl.st = 4
      ∧ v.g.stop = none ∧ r.stopped = none ∧ r.next < r.count ∧ Memory.wf s.sys.mem = true ∧ ((iterationOf s v sl r).waits = true ↔ way.2.1 = 1)
      ∧ ((iterationOf s v sl r).stop = none ↔ way.1 ≠ dataVa + 4) ∧ (iterationOf s v sl r).stores = []
      ∧ (way.1 = dataVa → (iterationOf s v sl r).loads = [] ++ (dataVa, 0x210000, 8) :: []) ∧ lostNode s 0x210000 = none ∧ ((poisonAt s.sys 0x210000 8).isSome = way.2.2))
    ∧ (∀ count, count = 255 ∨ count = 256 → ∃ (s : State) (v : VCtx) (sl : Slot) (r : Run), vctx s 0 = some v ∧ tableGet 0 v.g.slots = some sl ∧ sl.run = some r ∧ v.g.stop = none
      ∧ r.count ≤ r.next ∧ sl.st = 4 ∧ r.post = some (0, 0) ∧ (s.hole 0).owner ≠ none ∧ (s.hole 0).gen.toNat = 0 ∧ (s.hole 0).remote = none ∧ (s.hole 0).count = count
      ∧ (s.hole 0).depth = 256 ∧ quiet s ∧ Memory.wf s.sys.mem = true ∧ cellsWf s.sys.granules = true ∧ SeatsSettled s (0 / 8))
    ∧ (∃ (s : State) (v : VCtx) (h : LoaderHold), vctx s 0 = some v ∧ v.t.loader = some h ∧ Placed s v ∧ cellsWf h.ckpt.cells.masks = true ∧ h.leaving = true
      ∧ v.g.blocksOver = true ∧ v.t.stopped = false ∧ v.g.stop = none) := by
  let run := fun (n : Nat) (post : Option (Nat × Nat)) => ({ count := 2, next := n, params := [5], stream := none, post := post, flags := 0, stopped := none } : Run)
  let g := fun sl => slateGroup sl id
  refine ⟨⟨vrig (g (graphSlot 1 computeWords none)), vec (g (graphSlot 1 computeWords none)), _, rfl, rfl, rfl, rfl⟩, ?_, fun way h => ?_, fun count h => ?_, ?_⟩
  · exact ⟨vrig (g (graphSlot 4 memoryWords (some (run 1 none)))), vec (g (graphSlot 4 memoryWords (some (run 1 none)))), _, _, rfl, vrig_quiet .., rfl, rfl, rfl, rfl, rfl, rfl,
      by decide, by decide +kernel, by decide +kernel, by decide +kernel, by decide +kernel⟩
  · let sl := graphSlot 4 (loadWords way.2.1) (some { run 1 none with params := [w64 way.1] })
    let s := vrig (g sl)
    refine ⟨{ s with sys := { s.sys with poison := if way.2.2 then [0x210000 / 128] else [] } }, vec (g sl), sl, _, rfl, vrig_quiet (g sl) [], rfl, rfl, rfl, rfl, rfl, rfl,
      (by decide : 1 < 2), (by decide +kernel : Memory.wf (rigMemory []) = true), ?_⟩
    rcases h with rfl | rfl | rfl | rfl <;>
      exact ⟨by decide +kernel, by decide +kernel, by decide +kernel, by decide +kernel, by decide +kernel, by decide +kernel⟩
  · let s := vrig (g (graphSlot 4 memoryWords (some (run 2 (some (0, 0))))))
    exact ⟨{ s with fabric := { s.fabric with holes := [(0, ownHole count)] } }, vec (g (graphSlot 4 memoryWords (some (run 2 (some (0, 0)))))), _, _, rfl, rfl, rfl, rfl, by decide, rfl, rfl,
      (fun h => by cases h), rfl, rfl, rfl, rfl, vrig_quiet (g (graphSlot 4 memoryWords (some (run 2 (some (0, 0)))))) [], (by decide +kernel : Memory.wf (rigMemory []) = true), rfl,
      (let x := vrig_settled (g (graphSlot 4 memoryWords (some (run 2 (some (0, 0)))))) [] rfl; ⟨x.chart, x.runs⟩)⟩
  · let h : LoaderHold := ⟨ScalarCtx.zero, ⟨(groupOfRig id).core, ⟨[], []⟩⟩, none, none, [], none, true⟩
    let t : Thread := { vectorThread (fun x => { x with running := false }) with loader := some h }
    have hp : partsOf 0 t = [⟨0, 0, 0, 0, 32⟩] := (parts_of t (groupOfRig (fun x => { x with running := false })) (.inl rfl) rfl).trans rfl
    exact ⟨rig (.sequencer 0) t, ⟨0, t, groupOfRig (fun x => { x with running := false }), partsOf 0 t, w64 codeVa⟩, h, rfl, rfl,
      ⟨fun p hx => by
        have hl : VCtx.lanes ⟨0, t, groupOfRig (fun x => { x with running := false }), partsOf 0 t, w64 codeVa⟩ = 32 := by unfold VCtx.lanes; rw [hp]
        rw [hp] at hx; rw [List.mem_singleton.mp hx, hl]; decide, by rw [hp]; simp, rfl, rfl, rfl, rfl⟩, rfl, rfl, by decide +kernel, rfl, rfl⟩

/-- A vector instruction's opcode in its first parcel. -/
def opcodeParcel (op : Nat) : Nat := op * 2 ^ 24

/-- The parcel `p` is fetched at `a`, as a Bool. -/
def fetches (s : State) (a : Accessor) (pc at' : Nat) (p : Parcel) : Bool :=
  match fetchParcel s a pc at' with | .ok q => q == p | .error _ => false

theorem fetches_ok {s : State} {a : Accessor} {pc at' : Nat} {p : Parcel} (h : fetches s a pc at' p = true) : fetchParcel s a pc at' = .ok p := by
  unfold fetches at h
  split at h
  · rename_i q e; rw [e, eq_of_beq h]
  · cases h

/-- The four parcels of two vector instructions at `pc`, all zero but for their opcodes, are fetched. -/
def twoFetched (s : State) (a : Accessor) (pc o1 o2 : Nat) : Bool :=
  [0, 1, 2, 3].all fun k => fetches s a ((pc + 4 * k) % 2 ^ 64) ((pc + 4 * (k / 2 * 2)) % 2 ^ 64)
    (if k % 2 = 0 then BitVec.ofNat 32 ((if k = 0 then o1 else o2) * 2 ^ 24) else 0)

theorem opcodesAt_two (s : State) (a : Accessor) (pc o1 o2 : Nat) (h1 : o1 < 0xFC) (h2 : o2 < 0xFC)
    (h : twoFetched s a pc o1 o2 = true) : OpcodesAt s a pc [o1, o2] := by
  have f := fun k (hk : k ∈ [0, 1, 2, 3]) => fetches_ok (List.all_eq_true.1 h k hk)
  have e : ∀ o : Nat, o < 0xFC → (BitVec.ofNat 32 (o * 2 ^ 24)).toNat / 2 ^ 24 = o := fun o h => by
    rw [BitVec.toNat_ofNat, Nat.mod_eq_of_lt (by omega)]; omega
  refine ⟨_, by simpa using f 0 (by decide), (e o1 h1).symm, ?_⟩
  rw [if_pos h1]
  refine ⟨⟨_, by simpa using f 1 (by decide)⟩, ?_⟩
  refine ⟨_, by simpa [Nat.add_assoc] using f 2 (by decide), (e o2 h2).symm, ?_⟩
  rw [if_pos h2]
  exact ⟨⟨_, by simpa [Nat.add_assoc] using f 3 (by decide)⟩, trivial⟩

/-- A convoy of a load and an add whose header names their units, one with a unit used twice, and an undefined opcode; a
provided and a missing microcode opcode. -/
theorem witness_convoys :
    (∃ (s : State) (v : VCtx), Ready s 0 v (.convoy 2 0 2 0 0 0 0) ∧ UnitsOk [0, 2] ∧ OpcodesAt s (threadAccessor s 0 v.t) (v.iaddr.toNat + 4) [0x02, 0x20]
      ∧ [0x02, 0x20].map chainingClass = [0, 2].map some)
    ∧ (∃ (s : State) (v : VCtx), Ready s 0 v (.convoy 2 2 2 0 0 0 0) ∧ ¬ UnitsOk [2, 2])
    ∧ (∃ (s : State) (v : VCtx), Ready s 0 v (.undefinedEncoding 0 0))
    ∧ (∃ (s : State) (a : Agent), agentOf s = some a)
    ∧ (∀ has : Bool, ∃ (s : State) (v : VCtx) (p : Part) (h : p.die < 4), Ready s 0 v (.microcodeOpcode 3 (vf 0 0 0 0 0 0)) ∧ v.parts = [] ++ p :: []
      ∧ (s.proctor.micro[p.die]).emask.getLsbD 3 = has ∧ ∃ hi lo, encode (.microcodeOpcode 3 (vf 0 0 0 0 0 0)) = [hi, lo]) := by
  refine ⟨⟨vrig (withVl 1) [(0x200007, 0x02), (0x20000F, 0x20)], vec (withVl 1), vrig_ready' .., ?_, ?_, by decide⟩, ⟨vrig (withVl 1), vec (withVl 1), vrig_ready' .., ?_⟩,
    ⟨vrig (withVl 1), vec (withVl 1), vrig_ready' ..⟩, ⟨rig (.thread 0) (scalarThread []), agent _, rfl⟩, fun has => ?_⟩
  · refine ⟨by decide, fun i j hj hi h => ?_⟩
    have : i = 1 ∧ j = 0 := by simp at hi; omega
    obtain ⟨rfl, rfl⟩ := this
    cases h
  · exact opcodesAt_two _ _ _ _ _ (by decide) (by decide) (by decide +kernel)
  · exact fun h => by
      have := h.2 1 0 (by decide) (by decide) rfl
      cases this.1
  · let s := vrig (withVl 1)
    exact ⟨{ s with proctor := { s.proctor with micro := Vector.replicate 4 { Microcode.reset with emask := bif has then 8 else 0 } } }, vec (withVl 1), ⟨0, 0, 0, 0, 32⟩, by decide,
      ⟨rfl, rfl, rfl, fun _ => rfl, fun _ => rfl, fun _ _ => rfl, fun r _ x hx => (by cases hx), fun r _ m hx => (by cases hx)⟩, vec_parts 1 [],
      by cases has <;> decide +kernel, 0xE3000000, 0, by decide +kernel⟩

/-- The fault of a page that is not present, and a machine whose Proctor maps that page when it is touched. -/
def lazyFault : FaultInfo := faultOf 4 [0, 0x10000000, dataVa]
def lazily (s : State) : State :=
  { s with proctor := { s.proctor with regions := [{ dom := 1, base := dataVa, len := 0x10000, page := 0, lazy := true, nsh := false, wr := true, ex := false, die := 0 }] } }

/-- Faults that end the kernel and that the Proctor resolves, of a strip with a checkpoint; an empty Slate slot with its loader; a
control thread's; a Proctor core outside and in its handler. -/
theorem witness_faults :
    (∃ (s : State) (v : VCtx) (k : Kernel), vctx s 0 = some v ∧ v.t.role = .solo ∧ PlainFault (faultOf 1 []) ∧ faultEnds s v.t (faultOf 1 []) = true
      ∧ s.kernel v.t.lnum = some k ∧ k.ended = none ∧ k.done = none)
    ∧ (∃ (s : State) (v : VCtx) (st : Strip), vctx s 0 = some v ∧ v.t.role = .solo ∧ v.g.strip = some st ∧ faultEnds s v.t (lazyFault) = false
      ∧ cellsWf s.lanes.vregs = true ∧ cellsWf s.lanes.masks = true ∧ cellsWf st.ckpt.cells.vregs = true ∧ cellsWf st.ckpt.cells.masks = true)
    ∧ (∃ (s : State) (v : VCtx) (k : Kernel) (im : Image) (e : KernelEntry), vctx s 0 = some v ∧ v.t.role = .solo ∧ faultEnds s v.t (faultOf 8 [0, codeVa, 0]) = false
      ∧ s.kernel v.t.lnum = some k ∧ s.image k.image = some im ∧ im.kernels[k.kidx]? = some e)
    ∧ (∃ (s : State) (t : Thread), s.thread 0 = some t ∧ faultEnds s t (faultOf 1 []) = true ∧ faultEnds s t (lazyFault) = false)
    ∧ (∀ inside : Bool, ∃ (s : State) (p : ProctorCore), s.actor = .proctor 0 ∧ s.pcore 0 = some p ∧ p.inHandler = inside ∧ p.pxhand ≠ 0
      ∧ Memory.wf s.sys.mem = true) := by
  refine ⟨⟨vrig (withVl 1), vec (withVl 1), _, rfl, rfl, ⟨rfl, rfl, rfl⟩, by decide +kernel, rfl, rfl, rfl⟩,
    ⟨lazily (vrig (openVl 1 [])), vec (openVl 1 []), _, rfl, rfl, rfl, by decide +kernel, rfl, rfl, rfl, rfl⟩,
    ⟨vrig (withVl 1), vec (withVl 1), rigKernel, rigImage, _, rfl, rfl, by decide +kernel, rfl, rfl, rfl⟩,
    ⟨lazily (rig (.thread 0) (scalarThread [])), _, rfl, by decide +kernel, by decide +kernel⟩, fun inside => ?_⟩
  let s := rig (.proctor 0) (scalarThread [])
  exact ⟨s.putPcore 0 { ProctorCore.reset with pxhand := 0x1000, inHandler := inside }, _, rfl, rfl, rfl, (by decide : (0x1000 : Word) ≠ 0), (by decide +kernel : Memory.wf (rigMemory []) = true)⟩

/-- Waiting agents that a wake-up finds, and that it does not concern. -/
theorem witness_wakes :
    (∃ (s : State) (t : Thread) (w : Instr → Bool), scalarWake (.getrWake 0) = some (0, w) ∧ s.thread 0 = some t ∧ t.waiting = some (.getr 1) ∧ w (.getr 1) = true
      ∧ w .exit = false ∧ t.stopped = false ∧ t.faulted = false)
    ∧ (∃ (s : State) (p : ProctorCore) (w : Instr → Bool), scalarWake (.releaseAtomicResume (1536 + 15)) = some (1536 + 15, w) ∧ s.pcore 15 = some p
      ∧ p.waiting = some (.amoadd 1 2 3 1 3 3) ∧ w (.amoadd 1 2 3 1 3 3) = true)
    ∧ (∃ (s : State) (t : Thread), s.thread 0 = some t ∧ t.waiting = some (.qcfg 1 2) ∧ t.stopped = false ∧ t.faulted = false)
    ∧ (∃ (s : State) (g : Group) (w : Instr → Bool), vectorWake (.commitResume 0) = some (0, w) ∧ s.group 0 = some g ∧ g.waiting = some (.vend (vf 0 0 0 0 0 0))
      ∧ w (.vend (vf 0 0 0 0 0 0)) = true ∧ w .exit = false ∧ g.faulted = false ∧ g.stop = none) := by
  refine ⟨⟨rig .engine { scalarThread [] with waiting := some (.getr 1) }, _, _, rfl, rfl, rfl, rfl, rfl, rfl, rfl⟩, ?_,
    ⟨rig .engine { scalarThread [] with waiting := some (.qcfg 1 2) }, _, rfl, rfl, rfl, rfl⟩,
    ⟨vrig (fun g => { g with waiting := some (.vend (vf 0 0 0 0 0 0)) }), _, _, rfl, rfl, rfl, rfl, rfl, rfl, rfl⟩⟩
  let s := rig .engine (scalarThread [])
  exact ⟨s.putPcore 15 { ProctorCore.reset with waiting := some (.amoadd 1 2 3 1 3 3) }, _, _, rfl, rfl, rfl, by decide +kernel⟩

/-- A group that waits in an instruction. -/
def asleep (i : Instr) (f : Group → Group) : Group → Group := fun g => { f g with waiting := some i }

theorem again_vrig (i : Instr) (n : Nat) (ws : List (Nat × Nat)) (bs : List Host.Cell) :
    againVector (vrig (asleep i (withVl n ws)) bs) 0 = vrig (withVl n ws) bs := rfl

theorem asleep_vrig (i : Instr) (f : Group → Group) (bs : List Host.Cell) (h : (groupOfRig f).faulted = false ∧ (groupOfRig f).stop = none) :
    Asleep (vrig (asleep i f) bs) 0 i := ⟨_, rfl, rfl, h⟩

/-- Sleepers: a selection, a reply with fifteen before it, a watched word, VEND, a .W load; and a commit that goes on with one reply to post. -/
theorem witness_sleepers :
    (∃ (s : State) (v : VCtx) (f : VFields) (value : Nat → Nat × Flags), let u := againVector s 0
      Asleep s 0 (.vsel f) ∧ Ready u 0 v (.vsel f) ∧ Placed u v ∧ (Instr.vsel f).wf = true ∧ (vrowOf (.vsel f)).isSome = true
        ∧ v.vl ≤ v.avail (elemTypeOf f).width ∧ HasRoom v [f.vd.toNat] ∧ ∀ e, e < v.vl → elementOp u v f e (.vsel f) = some (value e))
    ∧ (∃ (s : State) (v : VCtx) (f : VFields), Asleep s 0 (.vpostr f) ∧ Ready (againVector s 0) 0 v (.vpostr f) ∧ v.g.strip = none ∧ v.g.issues = []
      ∧ v.g.vreply.length = 15)
    ∧ (∃ (s : State) (v : VCtx) (f : VFields), Asleep s 0 (.setvl f) ∧ Ready (againVector s 0) 0 v (.setvl f) ∧ AtBoundary v ∧ (Instr.setvl f).wf = true
      ∧ v.g.replay = none ∧ v.g.stopping = false ∧ quiet s ∧ f.fn.toNat / 2 ^ 21 % 2 = 1 ∧ f.fn.toNat / 2 ^ 22 % 2 = 0
      ∧ WordsRead (againVector s 0) v (v.w f.vs2).toNat 8 [1] ∧ 1 ≤ min (min (v.w f.vs1).toNat (v.avail (elemTypeOf f).width)) (1 - (v.w f.vs3).toNat))
    ∧ (∃ (s : State) (v : VCtx) (f : VFields), Asleep s 0 (.vend f) ∧ Ready (againVector s 0) 0 v (.vend f) ∧ AtBoundary v ∧ v.g.stopping = false)
    ∧ (∃ (s : State) (v : VCtx) (x : Word), vctx s 0 = some v ∧ v.g.waiting = none ∧ v.g.strip ≠ none ∧ v.g.issues = [.reply x] ∧ v.g.leaving = []
      ∧ v.g.vreply.length = 15)
    ∧ (∃ (s : State) (v : VCtx) (f : VFields) (pas : Nat → List Nat), let u := againVector s 0
      Asleep s 0 (.vld f) ∧ Ready u 0 v (.vld f) ∧ Placed u v ∧ quiet s ∧ (Instr.vld f).wf = true ∧ loadOf (.vld f) = some (f, .unit) ∧ HasRoom v [f.vd.toNat]
        ∧ FormatOk v.g.core.mfmt f .unit ∧ v.vl ≤ v.avail (elemTypeOf f).width ∧ f.fn.toNat / 2 ^ 20 % 4 = 1
        ∧ (∀ e ∈ actives u v f 32, ElementAt u v .read 32 true (storedWidth v.g.core.mfmt f) (elementPlace u v f .unit e) e (pas e))
        ∧ (∀ e ∈ actives u v f 32, ∀ p ∈ pas e, Usable u p (bytesFor (storedWidth v.g.core.mfmt f)))
        ∧ (∀ e ∈ actives u v f 32, ∀ p ∈ pas e, cellGet u.sys.granules (p / 16) = 0b01)) := by
  refine ⟨?_, ?_, ?_, ?_, ?_, ?_⟩
  · let f := vf 1 2 3 0 9 0
    exact ⟨vrig (asleep (.vsel f) (withVl 1024)), vec (withVl 1024), f, _, asleep_vrig _ _ _ ⟨rfl, rfl⟩, vrig_ready' .., vrig_placed' .., by decide +kernel, by decide +kernel,
      by decide +kernel, vrig_room' .., fun e _ => rfl⟩
  · let g := fun (g : Group) => { withVl 0 [(2, 7)] g with vreply := List.replicate 15 0 }
    let f := vf 0 2 0 0 0 0
    exact ⟨vrig (asleep (.vpostr f) g), vec g, f, asleep_vrig _ _ _ ⟨rfl, rfl⟩, vrig_ready g [] (.vpostr f) rfl rfl rfl rfl rfl, rfl, rfl, by decide +kernel⟩
  · let f := vf 1 3 4 5 0 0x200000
    let ws := [(3, 257), (4, dataVa)]
    exact ⟨vrig (asleep (.setvl f) (withVl 0 ws)) (wordCells 0x210000 [1]), vec (withVl 0 ws), f, asleep_vrig _ _ _ ⟨rfl, rfl⟩, vrig_ready' .., ⟨rfl, rfl, rfl, rfl, rfl, rfl, rfl⟩,
      by decide +kernel, rfl, rfl, vrig_quiet .., by decide, by decide, wordsRead_of _ _ _ 0x210000 _ _ (by decide +kernel) (by decide +kernel), by decide +kernel⟩
  · let f := vf 0 0 0 0 0 0
    exact ⟨vrig (asleep (.vend f) (withVl 0)), vec (withVl 0), f, asleep_vrig _ _ _ ⟨rfl, rfl⟩, vrig_ready' .., ⟨rfl, rfl, rfl, rfl, rfl, rfl, rfl⟩, rfl⟩
  · let g := inStrip (fun g => { g with vreply := List.replicate 15 0, issues := [.reply 0] })
    exact ⟨vrig g, vec g, 0, rfl, rfl, Option.some_ne_none _, rfl, rfl, by decide +kernel⟩
  · let f := vf 1 2 0 0 0 0x100000
    let ws := [(2, windowVa)]
    let s := vrig (asleep (.vld f) (withVl 4 ws))
    exact ⟨{ s with sys := { s.sys with granules := [(padPa / 16, 1)] } }, vec (withVl 4 ws), f, fun e => [padPa + 4 * e], ⟨_, rfl, rfl, rfl, rfl⟩,
      ⟨rfl, rfl, rfl, fun _ => rfl, fun _ => rfl, fun _ _ => rfl, fun r _ x hx => (by cases hx), fun r _ m hx => (by cases hx)⟩,
      ⟨fun p hp => (vrig_placed' 4 ws []).lanes p hp, (vrig_placed' 4 ws []).apart, rfl, rfl, rfl, rfl⟩, vrig_quiet (asleep (.vld f) (withVl 4 ws)) [],
      by decide +kernel, rfl, vrig_room' .., ⟨by decide +kernel, fun h => absurd (by decide +kernel) h, fun h => absurd h (by decide +kernel)⟩, by decide +kernel,
      by decide, by unfold ElementAt; decide +kernel, by unfold Usable; decide +kernel, by decide +kernel⟩

/-- A block that may start and a fencing one that may not; a notify write with a poisoned counter and with a sound one; a gather that is not delivered; a
stream at its end, misaligned and in memory; a fault that the Proctor resolves by mapping its page, one that it cannot resolve, and a feature no die has. -/
theorem witness_engines :
    (∀ fence : Bool, ∃ (s : State) (v : VCtx) (b : VBlock), vctx s 0 = some v ∧ v.g.vblk = [b] ∧ b.fence = fence ∧ v.g.running = false ∧ v.g.faulted = false
      ∧ v.g.stopping = false ∧ v.g.stop = none ∧ v.g.issues = [] ∧ (v.g.notifies = [] ↔ fence = false) ∧ v.g.posts = [] ∧ v.g.closed = []
      ∧ (∀ x ∈ v.g.gathers, x.delivered ≠ none) ∧ ∀ e ∈ v.g.slots, e.2.run = none)
    ∧ (∀ bad : Bool, ∃ (s : State) (v : VCtx) (n : PendingNotify), vctx s 0 = some v ∧ quiet s ∧ Memory.wf s.sys.mem = true ∧ cellsWf s.sys.granules = true
      ∧ v.g.notifies = [n] ∧ lostNode s n.pa = none ∧ ((poisonAt s.sys n.pa 8).isSome = bad))
    ∧ (∃ (s : State) (v : VCtx) (x : Gather), vctx s 0 = some v ∧ quiet s ∧ x ∈ v.g.gathers ∧ x.delivered = none
      ∧ ∀ y ∈ v.g.gathers, y.reg = x.reg → y.delivered = none → y = x)
    ∧ (∀ place : Nat × Nat, place = (dataVa, 2) ∨ place = (dataVa + 2, 0) ∨ place = (dataVa, 1) → ∃ (s : State) (v : VCtx) (b : Stream), vctx s 0 = some v ∧ quiet s
      ∧ tableGet 48 v.g.core.streams = some b ∧ b.slot = none ∧ b.exts.length = b.strs.length ∧ b.base = place.1 ∧ b.pos = place.2 ∧ b.exts = [2]
      ∧ (place = (dataVa, 1) → (streamPlace b 1 % 2 ^ 64).toNat % storedSize b.mfmt b.ty b.sg = 0
          ∧ translate s (vecAccessor s v v.home) (streamPlace b 1 % 2 ^ 64).toNat .read = .ok (0x210000 + 4)))
    ∧ (∀ vec : Bool, ∃ (s : State) (r : Delivered) (t : Thread), s.proctor.faults[0]? = some r ∧ s.thread r.tid = some t ∧ r.kind = 4 ∧ r.vec = vec
      ∧ (mapListed { s with proctor := { s.proctor with faults := s.proctor.faults.eraseIdx 0 } } r.tid t (listedPages r.words)).isSome = true)
    ∧ (∀ kind : Nat, kind = 4 ∨ kind = 9 → ∃ (s : State) (r : Delivered) (t : Thread) (k : Kernel), s.proctor.faults[0]? = some r ∧ s.thread r.tid = some t
      ∧ s.kernel t.lnum = some k ∧ k.ended = none ∧ k.done = none ∧ r.kind = kind
      ∧ (kind = 4 → mapListed { s with proctor := { s.proctor with faults := s.proctor.faults.eraseIdx 0 } } r.tid t (listedPages r.words) = none)
      ∧ (kind = 9 → tableGet t.form k.forms ≠ none ∧ ∀ x, r.feature = some x →
          providingDie { s with proctor := { s.proctor with faults := s.proctor.faults.eraseIdx 0 } }
            (kernelLevel { s with proctor := { s.proctor with faults := s.proctor.faults.eraseIdx 0 } } t.lnum) x = none)) := by
  refine ⟨fun fence => ?_, fun bad => ?_, ?_, fun place h => ?_, fun vec => ?_, fun kind h => ?_⟩
  · let b : VBlock := ⟨w64 codeVa, Vector.replicate 4 0, 0, 0, fence⟩
    let g := fun (g : Group) => { g with running := false, vblk := [b], notifies := if fence then [⟨0x210000, dataVa, 1⟩] else [] }
    exact ⟨vrig g, Tests.vec g, b, rfl, rfl, rfl, rfl, rfl, rfl, rfl, rfl, by cases fence <;> simp [g, b, Tests.vec, groupOfRig], rfl, rfl,
      fun x hx => (by cases hx), fun x hx => (by cases hx)⟩
  · let g := fun (g : Group) => { g with notifies := [⟨0x210000, dataVa, 1⟩] }
    let s := vrig g
    refine ⟨{ s with sys := { s.sys with poison := if bad then [0x210000 / 128] else [] } }, Tests.vec g, ⟨0x210000, dataVa, 1⟩, ?_⟩
    cases bad
    · exact ⟨rfl, vrig_quiet g [], by decide +kernel, rfl, rfl, by decide +kernel, by decide +kernel⟩
    · exact ⟨rfl, vrig_quiet g [], by decide +kernel, rfl, rfl, by decide +kernel, by decide +kernel⟩
  · let x : Gather := ⟨48, [some (0x210000, dataVa), none], 0, 0, 0, 0, [], none⟩
    let g := fun (g : Group) => { g with gathers := [x] }
    exact ⟨vrig g, Tests.vec g, x, rfl, vrig_quiet .., List.mem_singleton.2 rfl, rfl, fun y hy _ _ => List.mem_singleton.1 hy⟩
  · let b : Stream := ⟨place.1, [2], [4], 0, 0, 0, place.2, none⟩
    let g := withCore (fun c => { c with streams := [(48, b)] })
    refine ⟨vrig g, Tests.vec g, b, rfl, vrig_quiet .., rfl, rfl, rfl, rfl, rfl, rfl, fun e => ?_⟩
    subst e
    decide +kernel
  · let words : List Word := List.replicate 7 0 ++ [0x10000000, w64 (dataVa + 0x10000)]
    let r : Delivered := ⟨words, 0, vec, 4, none⟩
    let s := vrig (fun g => { g with faulted := true })
    refine ⟨{ s with proctor := { s.proctor with faults := [r], regions := [{ dom := 1, base := dataVa, len := 0x20000, page := 0, lazy := true, nsh := false, wr := true, ex := false, die := 0 }] } },
      r, vectorThread (fun g => { g with faulted := true }), rfl, rfl, rfl, rfl, ?_⟩
    cases vec <;> decide +kernel
  · let words : List Word := List.replicate 7 0 ++ [0x10000000, w64 (dataVa + 0x10000)]
    let r : Delivered := ⟨words, 0, true, kind, some (.graph 9)⟩
    let k : Kernel := { rigKernel with forms := [(0, { no := 0, res := 1, status := .resident, place := { clusters := [0], seats := [], shadow := [], shadowSeats := [] }, since := 0, stopAt := 0, saved := [],
                                                       order := 0, refused := false, needs := none, moveTo := none, chart := [], short := false })] }
    let s := vrig (fun g => { g with faulted := true })
    refine ⟨{ s with proctor := { s.proctor with faults := [r] }, sched := { s.sched with kernels := [(0, k)] } }, r,
      vectorThread (fun g => { g with faulted := true }), k, rfl, rfl, rfl, rfl, rfl, rfl, ?_⟩
    rcases h with rfl | rfl
    · exact ⟨fun _ => by decide +kernel, (fun h => nomatch h)⟩
    · exact ⟨(fun h => nomatch h), fun _ => ⟨by decide +kernel, fun x e => by cases e; decide +kernel⟩⟩

/-- A job that copies one row of 16 bytes, and its machine. -/
def oneJob (src next : Nat) (stat : Nat) : CopyJob :=
  { desc := ⟨src, dataVa + 4096, 1, 16, 0, 0, stat, []⟩, own := ⟨0, 0, 0⟩, vec := false, next := next, error := none, tr := (agent (scalarThread [])).acc.tr, cluster := 0, after := [] }

def jobRig (j : CopyJob) (poison : List Nat) : State :=
  let s := rig .engine (scalarThread [])
  { s with fabric := { s.fabric with copies := [(0, j)] }, sys := { s.sys with poison := poison } }

/-- A chunk whose source is clean, and poisoned; one whose source is not mapped; a job whose chunks are done, without and with a status address. -/
theorem witness_copies :
    (∀ bad : Bool, ∃ (s : State) (j : CopyJob) (sp dp : Nat → Nat), tableGet 0 s.fabric.copies = some j ∧ keysRise s.fabric.copies = true ∧ quiet s
      ∧ Memory.wf s.sys.mem = true ∧ cellsWf s.sys.granules = true ∧ ChunkOf j.desc j.next 0 dataVa (dataVa + 4096) 16
      ∧ (∀ k ∈ j.after, tableGet k s.fabric.copies = none) ∧ PiecesAt s j.acc dataVa 16 .read sp ∧ PiecesAt s j.acc (dataVa + 4096) 16 .write dp
      ∧ ((∃ i, i < 16 / 16 ∧ poisonAt s.sys (sp i) 16 ≠ none) ↔ bad = true))
    ∧ (∃ (s : State) (j : CopyJob), tableGet 0 s.fabric.copies = some j ∧ quiet s ∧ ChunkOf j.desc j.next 0 0 (dataVa + 4096) 16
      ∧ (∀ k ∈ j.after, tableGet k s.fabric.copies = none) ∧ 0 < 16 / 16 ∧ (∀ pa, translate s j.acc ((0 + 16 * 0) % 2 ^ 64) .read ≠ .ok pa)
      ∧ ∀ k ea, k < 16 / 16 → translate s j.acc ((0 + 16 * k) % 2 ^ 64) .read ≠ .poison ea)
    ∧ (∀ stat : Nat, stat = 0 ∨ stat = dataVa → ∃ (s : State) (j : CopyJob) (pa : Nat), tableGet 0 s.fabric.copies = some j ∧ quiet s
      ∧ j.desc.rows * ((j.desc.rowLen + 127) / 128) ≤ j.next ∧ j.desc.stat = stat
      ∧ (stat = dataVa → translate s j.acc j.desc.stat .write = .ok pa ∧ lostNode s pa = none ∧ ∀ off, physKind pa ≠ .device off)) := by
  refine ⟨fun bad => ?_, ?_, fun stat h => ?_⟩
  · refine ⟨jobRig (oneJob dataVa 0 0) (if bad then [0x210000 / 128] else []), oneJob dataVa 0 0, fun i => 0x210000 + 16 * i, fun i => 0x211000 + 16 * i, ?_⟩
    have p : ∀ (va pa : Nat) (k : Access) (ps : List Nat), translate (jobRig (oneJob dataVa 0 0) ps) (oneJob dataVa 0 0).acc ((va + 16 * 0) % 2 ^ 64) k = .ok (pa + 16 * 0)
        → lostNode (jobRig (oneJob dataVa 0 0) ps) (pa + 16 * 0) = none → (physKind (pa + 16 * 0) matches .device _) = false
        → PiecesAt (jobRig (oneJob dataVa 0 0) ps) (oneJob dataVa 0 0).acc va 16 k (fun i => pa + 16 * i) := fun va pa k ps h1 h2 h3 i hi => by
      have : i = 0 := by omega
      subst this
      exact ⟨h1, h2, fun off e => by rw [e] at h3; cases h3⟩
    cases bad
    · exact ⟨rfl, rfl, rig_quiet (scalarThread []) .engine [], by decide +kernel, rfl, ⟨by decide, by decide, by decide, by decide, by decide⟩, (fun k hk => nomatch hk),
        p _ _ _ _ (by decide +kernel) (by decide +kernel) (by decide +kernel), p _ _ _ _ (by decide +kernel) (by decide +kernel) (by decide +kernel),
        ⟨fun ⟨i, hi, h⟩ => by (have : i = 0 := by omega); subst this; exact absurd (by decide +kernel) h, fun h => nomatch h⟩⟩
    · exact ⟨rfl, rfl, rig_quiet (scalarThread []) .engine [], by decide +kernel, rfl, ⟨by decide, by decide, by decide, by decide, by decide⟩, (fun k hk => nomatch hk),
        p _ _ _ _ (by decide +kernel) (by decide +kernel) (by decide +kernel), p _ _ _ _ (by decide +kernel) (by decide +kernel) (by decide +kernel),
        ⟨fun _ => rfl, fun _ => ⟨0, by decide, by decide +kernel⟩⟩⟩
  · exact ⟨jobRig (oneJob 0 0 0) [], oneJob 0 0 0, rfl, rig_quiet (scalarThread []) .engine [], ⟨by decide, by decide, by decide, by decide, by decide⟩, (fun k hk => nomatch hk), by decide,
      (fun pa h => by
        have : (match translate (jobRig (oneJob 0 0 0) []) (oneJob 0 0 0).acc ((0 + 16 * 0) % 2 ^ 64) .read with | .ok _ => false | _ => true) = true := by decide +kernel
        rw [h] at this; cases this),
      fun k ea hk h => by
        obtain rfl : k = 0 := by omega
        have : (match translate (jobRig (oneJob 0 0 0) []) (oneJob 0 0 0).acc ((0 + 16 * 0) % 2 ^ 64) .read with | .poison _ => false | _ => true) = true := by decide +kernel
        rw [h] at this; cases this⟩
  · rcases h with rfl | rfl
    · exact ⟨jobRig (oneJob dataVa 1 0) [], oneJob dataVa 1 0, 0, rfl, rig_quiet (scalarThread []) .engine [], by decide, rfl, (fun h => nomatch h)⟩
    · exact ⟨jobRig (oneJob dataVa 1 dataVa) [], oneJob dataVa 1 dataVa, 0x210000, rfl, rig_quiet (scalarThread []) .engine [], by decide, rfl, fun _ => ⟨by decide +kernel, by decide +kernel, fun off h => by
        have : (physKind 0x210000 matches .device _) = false := by decide +kernel
        rw [h] at this; cases this⟩⟩

/-- A post held behind a full pigeonhole, behind one with a free entry, and for one that is gone; a free-slot return in sequence, with a parity that does not
hold, one too old and one too new; a freeze whose owner takes its fault. -/
theorem witness_pigeonhole_events :
    (∃ (s : State) (v : VCtx) (n : Nat), vctx s 0 = some v ∧ tableGet 3 v.g.acks = some n)
    ∧ (∀ c : Nat × Nat, c = (0, 256) ∨ c = (0, 255) ∨ c = (1, 0) → ∃ (s : State) (v : VCtx) (p : PendingPost) (e : List Byte), vctx s 0 = some v ∧ quiet s
      ∧ Memory.wf s.sys.mem = true ∧ cellsWf s.sys.granules = true ∧ v.g.posts = [p] ∧ p.entries = [e] ∧ (s.hole p.hole).owner ≠ none
      ∧ ((s.hole p.hole).gen.toNat = p.gen ↔ c.1 = 0) ∧ (s.hole p.hole).remote = none ∧ (s.hole p.hole).count = c.2 ∧ (s.hole p.hole).depth = 256)
    ∧ (∀ c : Bool × Nat, c = (true, 5) ∨ c = (false, 5) ∨ c = (true, 4) ∨ c = (true, 6) → ∀ frz : Bool, ∃ (s : State) (r : SlotReturn) (f : FreeCounter), quiet s ∧ (s.hole r.hole).frz = frz
      ∧ s.fabric.returns[0]? = some r ∧ (s.hole r.hole).counter = some f ∧ f.eseq < 65536 ∧ f.cnt ≤ 256 ∧ r.gen.toNat = f.gen
      ∧ (f.parity = evenParity f.cnt ↔ c.1 = true) ∧ f.eseq = 5 ∧ r.seq.toNat = c.2)
    ∧ (∃ (s : State) (t : Thread) (h : Hole), s.thread 0 = some t ∧ tableGet ((0 * 6 + 0) * 64 + 0) s.fabric.holes = some h ∧ keysRise s.fabric.holes = true
      ∧ h.owner = some ⟨0, t.lnum, t.form⟩ ∧ h.cause = some (1, 5, 0) ∧ ∀ e ∈ s.fabric.holes, e.1 = 0) := by
  refine ⟨?_, fun c h => ?_, fun c h frz => ?_, ?_⟩
  · let g := fun (g : Group) => { g with acks := [(3, 1)] }
    exact ⟨vrig g, vec g, 1, rfl, rfl⟩
  · let p : PendingPost := ⟨0, c.1, 0, [List.replicate 64 0]⟩
    let g := fun (g : Group) => { g with posts := [p] }
    let s := vrig g
    refine ⟨{ s with fabric := { s.fabric with holes := [(0, ownHole c.2)] } }, vec g, p, List.replicate 64 0, ?_⟩
    rcases h with rfl | rfl | rfl <;>
      exact ⟨rfl, vrig_quiet g [], by decide +kernel, rfl, rfl, rfl, Option.some_ne_none _, by decide +kernel, rfl, rfl, rfl⟩
  · let f : FreeCounter := ⟨0, !c.1 != evenParity 0, 5, 0⟩
    let s := rig .engine (scalarThread [])
    refine ⟨{ s with fabric := { s.fabric with returns := [⟨0, 0, BitVec.ofNat 16 c.2⟩], holes := [(0, { ownHole 0 with counter := some f, frz := frz })] } }, ⟨0, 0, BitVec.ofNat 16 c.2⟩, f, ?_⟩
    rcases h with rfl | rfl | rfl | rfl <;>
      exact ⟨rig_quiet (scalarThread []) .engine [], rfl, rfl, rfl, by decide, by decide, by decide, by decide +kernel, rfl, by decide⟩
  · let h : Hole := { ownHole 1 with frz := true, cause := some (1, 5, 0) }
    exact ⟨holeRig (scalarThread []) h, scalarThread [], h, rfl, rfl, rfl, rfl, rfl, fun e he => by rw [List.mem_singleton.1 he]⟩

/-- The module with a host port, a ring of 16 slots, and its bridge. -/
def hostRig (h : HostSys → HostSys) : State :=
  let s := rig .engine (scalarThread [])
  { s with host := h { HostSys.reset with bridge := true, ready := true, hostPort := some 3, ringb := 0x1000, ringn := 16 } }

theorem leValue_lt : ∀ bs : List Byte, leValue bs < 256 ^ bs.length
  | [] => by decide
  | b :: bs => by
    have h := leValue_lt bs
    have := b.isLt
    rw [leValue, List.length_cons, Nat.pow_succ]
    omega

/-- A number of n bytes, in a vector of as many bits. -/
theorem hostNumber_bits (s : State) (a n : Nat) : (BitVec.ofNat (8 * n) (hostNumber s a n)).toNat = hostNumber s a n := by
  have h := leValue_lt ((List.range n).map (fun i => Config.hostByte s.tick (a + i)))
  rw [List.length_map, List.length_range, show 256 = 2 ^ 8 from rfl, ← Nat.pow_mul] at h
  rw [BitVec.toNat_ofNat, Nat.mod_eq_of_lt]; exact h

/-- The command that host memory holds at an address. -/
noncomputable def commandAt (s : State) (a : Nat) : Command :=
  let w := fun i => BitVec.ofNat (8 * 8) (hostNumber s (a + 16 + 8 * i) 8)
  { typ := BitVec.ofNat (8 * 2) (hostNumber s a 2), dom := BitVec.ofNat (8 * 1) (hostNumber s (a + 2) 1), flg := BitVec.ofNat (8 * 1) (hostNumber s (a + 3) 1)
    tgt := BitVec.ofNat (8 * 2) (hostNumber s (a + 4) 2), htag := BitVec.ofNat (8 * 8) (hostNumber s (a + 8) 8), op0 := w 0, op1 := w 1, op2 := w 2, op3 := w 3, op4 := w 4
    op5 := w 5, cseq := BitVec.ofNat (8 * 8) (hostNumber s (a + 64) 8), zeros := hostNumber s (a + 6) 2 == 0 && hostNumber s (a + 72) 8 == 0
    mac := BitVec.ofNat (8 * 48) (hostNumber s (a + 80) 48) }

theorem commandAt_holds (s : State) (a : Nat) : SlotHolds s a (commandAt s a) where
  typ := hostNumber_bits ..
  dom := hostNumber_bits ..
  flg := hostNumber_bits ..
  tgt := hostNumber_bits ..
  htag := hostNumber_bits ..
  ops := by
    have w := fun i => hostNumber_bits s (a + 16 + 8 * i) 8
    show [(BitVec.ofNat (8 * 8) (hostNumber s (a + 16 + 8 * 0) 8)).toNat, (BitVec.ofNat (8 * 8) (hostNumber s (a + 16 + 8 * 1) 8)).toNat,
      (BitVec.ofNat (8 * 8) (hostNumber s (a + 16 + 8 * 2) 8)).toNat, (BitVec.ofNat (8 * 8) (hostNumber s (a + 16 + 8 * 3) 8)).toNat,
      (BitVec.ofNat (8 * 8) (hostNumber s (a + 16 + 8 * 4) 8)).toNat, (BitVec.ofNat (8 * 8) (hostNumber s (a + 16 + 8 * 5) 8)).toNat] = _
    rw [w, w, w, w, w, w]; rfl
  cseq := hostNumber_bits ..
  mac := hostNumber_bits s (a + 80) 48
  zeros := by simp [commandAt]

/-- Values of FINJ that are allowed and not; registers at the ends of their ranges and next to them; ports absent and present, rings empty and not; a slot for
this module, and one for another. -/
theorem witness_registers :
    (FinjValue (2 ^ 59) 1 ∧ ¬ FinjValue (2 ^ 59 + 1) 1 ∧ FinjValue 0 0 ∧ FinjValue (BitVec.ofNat 64 (5 * 2 ^ 59 + 2 ^ 11 - 1)) 5)
    ∧ (∀ off : Nat, off = 8 ∨ off = 0x40000100 → deviceKeeps off 1 = none)
    ∧ (∀ off : Nat, off = 0 ∨ off = 0x30000000 ∨ off = 0x40000000 ∨ off = 0x400000F8 → (deviceKeeps off 1).isSome = true)
    ∧ (rig .engine (scalarThread [])).host.hostPort = none
    ∧ ((hostRig id).host.hostPort ≠ none ∧ (hostRig id).host.head = (hostRig id).host.tail)
    ∧ (hostRig (fun h => { h with tail := 1 })).host.head ≠ (hostRig (fun h => { h with tail := 1 })).host.tail
    ∧ ((0x1000 : Word).toNat % 4096 = 0 ∧ (0x1001 : Word).toNat % 4096 ≠ 0 ∧ (16 : Word).toNat = 2 ^ 4 ∧ (65536 : Word).toNat = 2 ^ 16)
    ∧ (∀ k, 4 ≤ k → k ≤ 16 → (8 : Word).toNat ≠ 2 ^ k)
    ∧ (∃ (s : State) (c : Command), s.host.hostPort ≠ none ∧ s.host.bridge = true ∧ s.host.pending = none ∧ s.host.ringn ≠ 0 ∧ s.host.head ≠ (1 : BitVec 32)
      ∧ s.host.node = 0x7FF ∧ SlotHolds s (s.host.ringb.toNat + 128 * (s.host.head.toNat % s.host.ringn.toNat)) c)
    ∧ (∃ (s : State) (c : Command), s.host.hostPort ≠ none ∧ s.host.fail = 5 ∧ s.host.pending = none ∧ s.host.ringn ≠ 0 ∧ s.host.head + 1 = (1 : BitVec 32)
      ∧ ¬ (s.host.node = 0x7FF ∨ c.tgt.toNat = s.host.node.toNat) ∧ SlotHolds s (s.host.ringb.toNat + 128 * (s.host.head.toNat % s.host.ringn.toNat)) c) := by
  refine ⟨⟨⟨rfl, rfl⟩, fun h => absurd (show (2 ^ 59 + 1 : Word).toNat % 2 ^ 48 = 0 from h.2) (by decide), ⟨rfl, rfl⟩, ⟨rfl, rfl⟩⟩, fun off h => ?_, fun off h => ?_, rfl, ⟨Option.some_ne_none _, rfl⟩, by decide +kernel, by decide, fun k h1 h2 => ?_,
    ⟨hostRig id, _, Option.some_ne_none _, rfl, rfl, by decide +kernel, by decide +kernel, rfl, commandAt_holds ..⟩, ?_⟩
  · rcases h with rfl | rfl <;> decide
  · rcases h with rfl | rfl | rfl | rfl <;> decide
  · have : 2 ^ 4 ≤ 2 ^ k := Nat.pow_le_pow_right (by decide) h1
    simp; omega
  · have h : ∃ n : BitVec 11, ∀ x : Nat, x = hostNumber (hostRig id) (0x1000 + 4) 2 → ¬ (n = 0x7FF ∨ x = n.toNat) := by
      by_cases h : hostNumber (hostRig id) (0x1000 + 4) 2 = 0
      · exact ⟨1, fun x e => by rw [e, h]; decide⟩
      · exact ⟨0, fun x e => by rw [e]; simp [h]⟩
    obtain ⟨n, hn⟩ := h
    exact ⟨hostRig (fun h => { h with fail := 5, node := n }), _, Option.some_ne_none _, rfl, rfl, by show (16 : Word) ≠ 0; decide, rfl, hn _ (commandAt_holds _ _).tgt,
      commandAt_holds ..⟩

/-- Bring-up that fails at its codes and that ends, with a node number and without; a port that may train, with its own module, with a known peer and with no signature left;
a module that serves its host port and one that does not; readings at the junctions' limits; a port that trained; a route that may be
lost and one that stands; another module's access to a frame of its own domain, and to another's. -/
theorem witness_module :
    (rig .engine (scalarThread [])).power ≠ .off
    ∧ (∀ code : Nat, 2 ≤ code → code ≤ 5 → ∃ (s : State) (b : BringUp), s.power = .off ∧ StepFails s b code)
    ∧ (∀ flash, flash = none ∨ flash = some 1023 → ∃ (s : State) (b : BringUp), s.power = .off ∧ s.host.flashNode = flash ∧ ∀ code, ¬ StepFails s b code)
    ∧ (∀ c : Nat, c < 3 → ∃ (s : State) (x : Word), lstatReads s 23 = some x ∧ ((s.host.node = 0x7FF ∨ 5 = s.host.node.toNat) ↔ c = 0) ∧ (5 ∈ s.host.keyed ↔ c = 1)
      ∧ (c = 2 → ¬ s.host.hssUsed < Config.hssSignatures))
    ∧ (Serves (hostRig id).host ∧ ¬ Serves (hostRig (fun h => { h with bridge := false })).host)
    ∧ (∀ t : Nat, t = 100 * 256 ∨ t = 105 * 256 ∨ t = 105 * 256 + 1 ∨ t = 112 * 256 - 1 ∨ t = 112 * 256 → ∀ hot : Bool, ∃ (s : State) (r : SensorReading), r.die < 5 ∧ r.sensor < 8
      ∧ r.temp < 65536 ∧ r.temp = t ∧ s.sched.hot = hot ∧ keysRise s.proctor.sensors = true ∧ ∀ x ∈ s.proctor.sensors, x.1 ≠ r.die * 8 + r.sensor → x.2.toNat ≤ 100 * 256)
    ∧ (∀ node : BitVec 11, node = 0 ∨ node = 0x7FF → ∃ (s : State) (x : Word), lstatReads s 23 = some x ∧ s.host.node = node)
    ∧ (∃ s : State, s.host.node ≠ 0x7FF ∧ s.host.brn ≠ 0x7FF ∧ s.sched.kernels = [] ∧ 5 ∉ s.host.lost ∧ ∀ p ∈ s.host.ports.toList, ¬ (p.up = true ∧ p.sw = false ∧ p.peer.toNat = 5))
    ∧ (∃ s : State, ∃ p ∈ s.host.ports.toList, p.up = true ∧ p.sw = false ∧ p.peer.toNat = 5)
    ∧ (∀ bad : Bool, ∃ (s : State) (r : RemoteRequest) (x : Nat), quiet s ∧ Memory.wf s.sys.mem = true ∧ cellsWf s.sys.granules = true ∧ r.op = 13 ∧ r.size = 16
      ∧ (∃ d, physKind r.addr = .hbm d false) ∧ (∃ d, physKind (r.addr + r.size - 1) = .hbm d false)
      ∧ (∀ a, a = r.addr ∨ a = r.addr + r.size - 1 → ∃ n d, frameOwner s.proctor a = some n ∧ tableGet n s.proctor.domains = some d ∧ d.tag = r.tag ∧ d.keyBlock = r.keyBlock) ∧ ((poisonAt s.sys r.addr r.size).isSome = bad)
      ∧ remoteAtomic (r.op - 2) (8 * r.size) (leValue ((List.range r.size).map (fun k => byteOf s (r.addr + k)))) r.data r.compare = some x)
    ∧ (∃ (s : State) (r : RemoteRequest), quiet s ∧ r.size = 1 ∧ (∃ d, physKind r.addr = .hbm d false) ∧ ∀ n d, frameOwner s.proctor r.addr = some n →
        tableGet n s.proctor.domains = some d → d.tag ≠ r.tag) := by
  have boots : ∀ (s : State) (b : BringUp) (code : Nat), s.host.staged = none → (b.fail = 0 ∨ 2 ≤ b.fail ∧ b.fail ≤ 4) → (StepFails s b code ↔
      (1 ≤ b.fail ∧ b.fail ≤ 4 ∧ code = b.fail) ∨ (b.fail = 0 ∧ code = 5 ∧ ∃ n a, s.host.flashNode = some n ∧ a ∈ b.announced ∧ a.1 = n ∧ a.2.toNat < b.serial.toNat)) := fun s b code h hb => by
    have f : ¬ ∃ x, s.host.staged = some x ∧ brynpolVerifies x = false := by rw [h]; exact fun ⟨x, hx, _⟩ => nomatch hx
    unfold StepFails
    constructor
    · rintro (⟨h, _⟩ | ⟨_, ⟨h1, h2⟩, h3⟩ | ⟨_, h2, h3, h4⟩)
      · exact absurd h f
      · exact .inl ⟨h1, h2, h3⟩
      · exact .inr ⟨by omega, h3, h4⟩
    · rintro (⟨h1, h2, h3⟩ | ⟨h1, h2, h3⟩)
      · exact .inr (.inl ⟨f, ⟨h1, h2⟩, h3⟩)
      · exact .inr (.inr ⟨f, by omega, h2, h3⟩)
  refine ⟨by decide +kernel, fun code h1 h2 => ?_, fun flash _ => ?_, fun c hc => ?_, ⟨.inl rfl, fun h => by rcases h with h | h <;> revert h <;> decide⟩, fun t h hot => ?_, fun node h => ?_, ?_, ?_,
    fun bad => ?_, ?_⟩
  · refine ⟨{ State.reset with host := { State.reset.host with flashNode := some 3 } },
      { (default : BringUp) with fail := if code = 5 then 0 else code, serial := 1, announced := [(3, 0)] }, rfl, (boots _ _ _ rfl ?_).2 ?_⟩
    · show (if code = 5 then 0 else code) = 0 ∨ 2 ≤ (if code = 5 then 0 else code) ∧ (if code = 5 then 0 else code) ≤ 4
      split <;> omega
    · by_cases h : code = 5
      · exact .inr ⟨if_pos h, h, 3, (3, 0), rfl, List.mem_singleton.2 rfl, rfl, (by decide : (0 : Word).toNat < (1 : Word).toNat)⟩
      · refine .inl ⟨?_, ?_, (if_neg h).symm⟩
        · show 1 ≤ (if code = 5 then 0 else code); rw [if_neg h]; omega
        · show (if code = 5 then 0 else code) ≤ 4; rw [if_neg h]; omega
  · refine ⟨{ State.reset with host := { State.reset.host with flashNode := flash } }, default, rfl, rfl, fun code h => ?_⟩
    rcases (boots _ _ _ rfl (.inl rfl)).1 h with ⟨h, _⟩ | ⟨_, _, n, a, _, ha, _⟩
    · exact absurd h (by decide)
    · cases ha
  · have : c = 0 ∨ c = 1 ∨ c = 2 := by omega
    refine ⟨hostRig (fun h => { h with node := if c = 0 then 5 else 6, keyed := if c = 1 then [5] else [], hssUsed := Config.hssSignatures }),
      (readDevice (hostRig id) (0x40100000 + 8 * 23)).getD 0, ?_⟩
    rcases this with rfl | rfl | rfl <;>
      exact ⟨by decide +kernel, by decide, by decide, fun _ => Nat.lt_irrefl _⟩
  · let s := rig .engine (scalarThread [])
    refine ⟨{ s with sched := { s.sched with hot := hot } }, ⟨4, 7, t⟩, by show 4 < 5; decide, by show 7 < 8; decide, by show t < 65536; omega, rfl, rfl, rfl, fun x hx => nomatch hx⟩
  · refine ⟨hostRig (fun h => { h with node := node }), ?_⟩
    rcases h with rfl | rfl <;> exact ⟨(readDevice (hostRig id) (0x40100000 + 8 * 23)).getD 0, by decide +kernel, rfl⟩
  · let s := hostRig (fun h => { h with node := 0, brn := 0 })
    exact ⟨{ s with sched := { s.sched with kernels := [] } }, by decide +kernel⟩
  · exact ⟨hostRig (fun h => { h with ports := Vector.replicate 24 ⟨5, 0, false, true⟩ }), ⟨5, 0, false, true⟩, by decide +kernel⟩
  · let s := rig .engine (scalarThread [])
    refine ⟨{ s with sys := { s.sys with poison := if bad then [0x210000 / 128] else [] } }, ⟨1, 0, [], 0x210000, 16, 13, 7, 0⟩, 7, ?_⟩
    cases bad <;>
      exact ⟨rig_quiet (scalarThread []) .engine [], by decide +kernel, rfl, rfl, rfl, ⟨0, by decide +kernel⟩, ⟨0, by decide +kernel⟩,
        fun a h => by rcases h with rfl | rfl <;> exact ⟨1, rigDomain, by decide +kernel, rfl, rfl, rfl⟩, by decide +kernel, by decide +kernel⟩
  · exact ⟨rig .engine (scalarThread []), ⟨1, 2, [], 0x210000, 1, 0, 0, 0⟩, rig_quiet (scalarThread []) .engine [], rfl, ⟨0, by decide +kernel⟩, fun n d h1 h2 => by
      have : frameOwner (rig .engine (scalarThread [])).proctor 0x210000 = some 1 := by decide +kernel
      rw [this] at h1; cases h1; cases h2; decide⟩

theorem tableGet_one {α : Type} (k : Nat) (x : α) : tableGet k [(k, x)] = some x := by simp [tableGet]

/-- A machine whose home slice of the data page's first line is this one, the line's first byte 1. -/
noncomputable def sliceRig (sl : CacheSlice) : State :=
  let s := rig .engine (scalarThread []) [(0x210000, 1)]
  { s with sys := { s.sys with cache := [(sliceOf 0x4200, sl)] } }

theorem sliceRig_slice (sl : CacheSlice) : tableGet (sliceOf 0x4200) (sliceRig sl).sys.cache = some sl := tableGet_one _ _

theorem sliceRig_order (sl : CacheSlice) (h : keysRise sl.tags = true) : TagsInOrder (sliceRig sl) := fun k x hx => by
  have : k = sliceOf 0x4200 ∧ x = sl := by
    change tableGet k [(sliceOf 0x4200, sl)] = some x at hx
    by_cases e : k = sliceOf 0x4200
    · subst e; rw [tableGet_one] at hx; exact ⟨rfl, (Option.some.inj hx).symm⟩
    · simp [tableGet, e] at hx
  rw [this.2]; exact h

def emptySlice : CacheSlice := { tags := [], entries := [], nextEntry := 0, shares := 0, coll := 0, satur := 0, unshr := 0, poisn := 0 }

/-- A line that is not cached, in a slice with room and with its contents already entered; one whose tag is dirty, in an entry; a line outside HBM. -/
theorem witness_caches :
    (∃ s : State, TagsInOrder s ∧ tagOf s.sys 0x4200 = none ∧ physKind (0x4200 * 128) = .hbm 0 false ∧ SliceHasRoom s 0x4200)
    ∧ (∀ d p, physKind (0x2000000000 * 128) ≠ .hbm d p)
    ∧ (∃ (s : State) (sl : CacheSlice) (n l : Nat) (ls : List Nat) (e : CacheEntry), let bytes := (List.range 128).map (fun k => byteOf s (0x4200 * 128 + k))
      TagsInOrder s ∧ tagOf s.sys 0x4200 = none ∧ SliceHasRoom s 0x4200 ∧ tableGet (sliceOf 0x4200) s.sys.cache = some sl
      ∧ ¬ ((lineShare s.proctor (0x4200 * 128)).nsh = true ∨ 0x4200 ∈ s.sys.poison) ∧ (∃ b ∈ bytes, b ≠ 0)
      ∧ sl.entries.find? (fun y => y.2.indexed && y.2.dom == (lineShare s.proctor (0x4200 * 128)).dom
          && y.2.hash == sipHash (lineShare s.proctor (0x4200 * 128)).key bytes) = some (n, e)
      ∧ e.lines = l :: ls ∧ (List.range 128).map (fun k => byteOf s (l * 128 + k)) = bytes ∧ e.refs < 63)
    ∧ (∃ (s : State) (x : CacheTag) (sl : CacheSlice) (e : CacheEntry), TagsInOrder s ∧ tagOf s.sys 0x4200 = some x ∧ x.dirty = true ∧ x.zero = false
      ∧ tableGet (sliceOf 0x4200) s.sys.cache = some sl ∧ tableGet x.entry sl.entries = some e ∧ 0x4200 ∈ e.lines) := by
  refine ⟨⟨sliceRig emptySlice, sliceRig_order _ rfl, ?_, by decide +kernel, fun sl h => ?_⟩, fun d p h => ?_, ?_, ?_⟩
  · rw [tagOf, sliceRig_slice]; rfl
  · rw [sliceRig_slice] at h; cases h; decide
  · have : (match physKind (0x2000000000 * 128) with | .hbm .. => true | _ => false) = false := by decide +kernel
    rw [h] at this; cases this
  · let bytes := (List.range 128).map (fun k => byteOf (sliceRig emptySlice) (0x4200 * 128 + k))
    let e : CacheEntry := { dom := 1, hash := sipHash 0 bytes, refs := 62, indexed := true, lines := [0x4200] }
    let sl := { emptySlice with entries := [(0, e)] }
    exact ⟨sliceRig sl, sl, 0, 0x4200, [], e, sliceRig_order _ rfl, by rw [tagOf, sliceRig_slice]; rfl, fun x h => by rw [sliceRig_slice] at h; cases h; decide, sliceRig_slice _,
      (by decide +kernel : ¬ ((lineShare (rig .engine (scalarThread []) [(0x210000, 1)]).proctor (0x4200 * 128)).nsh = true ∨ 0x4200 ∈ (rig .engine (scalarThread []) [(0x210000, 1)]).sys.poison)),
      ⟨1, List.mem_map.2 ⟨0, by simp, (by decide +kernel : byteOf (rig .engine (scalarThread []) [(0x210000, 1)]) (0x4200 * 128 + 0) = 1)⟩, by decide⟩,
      by
        have h : (lineShare (sliceRig sl).proctor (0x4200 * 128)).dom = 1 ∧ (lineShare (sliceRig sl).proctor (0x4200 * 128)).key = 0 :=
          (by decide +kernel : (lineShare (rig .engine (scalarThread []) [(0x210000, 1)]).proctor (0x4200 * 128)).dom = 1
            ∧ (lineShare (rig .engine (scalarThread []) [(0x210000, 1)]).proctor (0x4200 * 128)).key = 0)
        rw [h.1, h.2]
        show List.find? _ [(0, e)] = _
        rw [List.find?_cons_of_pos]
        have : sipHash 0 bytes = sipHash 0 ((List.range 128).map (fun k => byteOf (sliceRig sl) (0x4200 * 128 + k))) := rfl
        simp only [e, this, beq_self_eq_true, Bool.and_true], rfl, rfl, by decide⟩
  · let e : CacheEntry := { dom := 1, hash := 0, refs := 1, indexed := true, lines := [0x4200] }
    let sl := { emptySlice with tags := [(0x4200, ⟨false, 0, true, false⟩)], entries := [(0, e)] }
    exact ⟨sliceRig sl, ⟨false, 0, true, false⟩, sl, e, sliceRig_order _ rfl, by rw [tagOf, sliceRig_slice]; rfl, rfl, rfl, sliceRig_slice _, rfl, by simp [e]⟩

/-- A walk of a mapped address and of one that no leaf maps, and of the window; an invalidation that an access still holds, and one that it does not hold. -/
theorem witness_walks :
    (∃ (s : State) (t : Thread) (va e : Word) (level : Nat), s.thread 0 = some t ∧ va.toNat < 0x00FFFFFFFF000000 ∧ walk s.sys (trCtx s t).root va.toNat = .leaf e level
      ∧ quiet s ∧ pageBlocked s (trCtx s t).dom (e.toNat / 2 ^ 8 % 2 ^ 44 * 2 ^ 8) (pageBits level) = false)
    ∧ (∃ (s : State) (t : Thread), s.thread 0 = some t ∧ quiet s ∧ ∀ e l, walk s.sys (trCtx s t).root 0 ≠ .leaf e l)
    ∧ (∀ held : Bool, ∃ (s : State) (i : Invalidation) (j : JournalEntry), s.sys.invalidations[0]? = some i ∧ (HeldBack s i ↔ held = true) ∧ i.last = true
      ∧ (∀ k ∈ s.sys.invalidations.eraseIdx 0, k.dom ≠ i.dom) ∧ keysRise s.proctor.frames = true ∧ keysRise s.proctor.domains = true ∧ i.seq = some 7
      ∧ tableGet 7 s.host.journal = some j) := by
  refine ⟨⟨rig .engine (scalarThread []), scalarThread [], w64 dataVa, BitVec.ofNat 64 0x21000D, 3, rfl, by decide +kernel, by decide +kernel, rig_quiet .., by decide +kernel⟩,
    ⟨rig .engine (scalarThread []), scalarThread [], rfl, rig_quiet .., fun e l h => ?_⟩, fun held => ?_⟩
  · have : (match walk (rig .engine (scalarThread [])).sys (trCtx (rig .engine (scalarThread [])) (scalarThread [])).root 0 with | .leaf .. => true | _ => false) = false := by decide +kernel
    rw [h] at this; cases this
  · let t : Thread := { scalarThread [] with events := if held then [⟨0, 0, 0, 0x210000, 8, [1], .exit, false⟩] else [] }
    let s := rig .engine t
    let i : Invalidation := ⟨1, dataVa, dataVa + 0x10000, [1], [], some 7, true⟩
    let j : JournalEntry := { seq := 7, cmd := default, state := 3, det := 0, src := 0, result := 0, tacc := 0, tend := 0 }
    refine ⟨{ s with sys := { s.sys with invalidations := [i] }, host := { s.host with journal := [(7, j)] } }, i, j, rfl, ?_, rfl, (fun k hk => nomatch hk), rfl, rfl, rfl, rfl⟩
    cases held
    · refine ⟨fun h => ?_, fun h => nomatch h⟩
      have : pendingFrames t = [] := by decide +kernel
      obtain ⟨x, hx, _⟩ | ⟨x, h, f, hf, _⟩ := h
      · cases hx
      rcases h with ⟨n, hn⟩ | ⟨n, k, m, f, sv, hk, hm, _⟩
      · obtain ⟨_, rfl⟩ : n = 0 ∧ x = t := by simpa [s, rig] using hn
        rw [this] at hf; cases hf
      · obtain ⟨_, rfl⟩ : n = 0 ∧ k = rigKernel := by simpa [s, rig] using hk
        cases hm
    · exact ⟨fun _ => rfl, fun _ => .inr ⟨t, .inl ⟨0, List.mem_singleton.2 rfl⟩, 1, by decide +kernel, by decide⟩⟩

/-- Errors of each unit with the agent they strike; a core that retires with and without a form on it. -/
theorem witness_errors :
    (∃ (s : State) (v : VCtx) (st : Strip) (x : Thread), LanesOf s 0 0 ∧ vctx s 0 = some v ∧ v.g.strip = some st ∧ 3 ∈ st.written ∧ 4 ∉ st.written ∧ s.thread 0 = some x
      ∧ keysRise s.cores = true ∧ (s.core 0).retiring = false ∧ cellsWf s.sys.granules = true ∧ physKind padPa = .scratch 0 0)
    ∧ (∃ (s : State) (v : VCtx), LanesOf s 384 0 ∧ vctx s 0 = some v)
    ∧ (∃ (s : State) (p : ProctorCore), s.pcore 15 = some p)
    ∧ (∀ last : Bool, ∃ s : State, keysRise s.cores = true ∧ (s.core 0).retiring = false
      ∧ (255 ≤ ((s.core 0).errors.filter (fun x => (s.cycle 0).toNat - x < 2 ^ 32)).length ↔ last = true))
    ∧ (∀ used : Bool, ∃ s : State, keysRise s.cores = true ∧ (s.core 0).retiring = true ∧ (s.core 0).retired = false
      ∧ ((∃ n k m f x, (n, k) ∈ s.sched.kernels ∧ (m, f) ∈ k.forms ∧ x ∈ f.place.slots ∧ x.1 = 0) ↔ used = true)) := by
  refine ⟨?_, ?_, ⟨rig .engine (scalarThread []), _, rfl⟩, fun last => ?_, fun used => ?_⟩
  · let st : Strip := { emptyStrip with written := [3] }
    let g := fun (g : Group) => { g with strip := some st }
    exact ⟨vrig g, vec g, st, vectorThread g, .inr ⟨rfl, fun x hx ⟨p, hp, _⟩ => by obtain rfl := List.mem_singleton.1 hx; cases hp⟩, rfl, rfl, by simp [st], by simp [st], rfl, rfl, rfl, rfl, by decide +kernel⟩
  · let t := { vectorThread id with att := 3, partners := [⟨1, 48, 0, 0, 1⟩] }
    exact ⟨rig (.sequencer 0) t, ⟨0, t, groupOfRig id, partsOf 0 t, w64 codeVa⟩,
      .inl ⟨⟨t, List.mem_singleton.2 rfl, _, List.mem_singleton.2 rfl, rfl⟩, fun x hx _ => by obtain rfl := List.mem_singleton.1 hx; rfl⟩, rfl⟩
  · let s := rig .engine (scalarThread [])
    refine ⟨{ s with cores := [(0, { Core.reset with errors := List.replicate (if last then 255 else 254) 0 })] }, rfl, rfl, ?_⟩
    cases last <;> decide +kernel
  · let s := rig .engine (scalarThread [])
    let f : Form := { no := 0, res := 1, status := .resident, place := { clusters := [0], seats := [⟨0, 0, 1, []⟩], shadow := [], shadowSeats := [] }, since := 0, stopAt := 0, saved := [],
                      order := 0, refused := false, needs := none, moveTo := none, chart := [], short := false }
    refine ⟨{ s with cores := [(0, { Core.reset with retiring := true })], sched := { s.sched with kernels := [(0, { rigKernel with forms := if used then [(0, f)] else [] })] } }, rfl, rfl, rfl, ?_⟩
    cases used
    · refine ⟨fun ⟨n, k, m, f, x, hk, hf, _⟩ => ?_, fun h => nomatch h⟩
      obtain ⟨_, rfl⟩ : n = 0 ∧ k = { rigKernel with forms := [] } := by simpa using hk
      cases hf
    · exact ⟨fun _ => rfl, fun _ => ⟨0, _, 0, f, (0, 0), List.mem_singleton.2 rfl, List.mem_singleton.2 rfl, by decide +kernel, rfl⟩⟩

/-- A pair, each with a group, a closed strip and an external event. -/
def pairThread (role : PairRole) (sig mism : Nat) (e : ExtEvent) : Thread :=
  let c : ClosedStrip := { strip := emptyStrip, ssn := 0, signature := w64 sig, inj := false, block := none, blocks := 0, gread := [], consumed := [], links := [] }
  { vectorThread (fun g => { g with closed := [c], mismatches := mism }) with role := role, events := [e] }

def pairRig (sig mism : Nat) (e x : ExtEvent) (bs : List Host.Cell) : State :=
  let s := rig .engine (pairThread (.lead 1) sig mism e) bs
  { s with threads := [(0, pairThread (.lead 1) sig mism e), (1, pairThread (.shadow 0) 5 mism x)] }

/-- Equal signatures; unequal ones for the second and for the third time; equal stores, equal atomics, and events that differ in an operand. -/
theorem witness_pairs :
    (∀ c : Nat × Nat, c = (5, 0) ∨ c = (6, 1) ∨ c = (6, 2) → ∃ (s : State) (v w : VCtx) (a b : ClosedStrip) (k : Kernel), vctx s 0 = some v ∧ vctx s 1 = some w
      ∧ v.t.role = .lead 1 ∧ w.t.role = .shadow 0 ∧ v.g.closed = [a] ∧ w.g.closed = [b] ∧ CommitsFree v.g ∧ CommitsFree w.g ∧ a.ssn = b.ssn
      ∧ (a.signature = b.signature ↔ c.1 = 5) ∧ a.strip.effects = [] ∧ b.strip.effects = [] ∧ linksHaveRoom s 0 a.links = true ∧ linksHaveRoom s 1 b.links = true ∧ v.g.mismatches = c.2 ∧ s.kernel v.t.lnum = some k ∧ k.ended = none ∧ k.done = none)
    ∧ (∀ c : Nat × Nat, c = (0, 7) ∨ c = (1, 7) ∨ c = (0, 8) → ∃ (s : State) (t u : Thread) (e x : ExtEvent) (k : Kernel), s.thread 0 = some t ∧ s.thread 1 = some u
      ∧ t.role = .lead 1 ∧ t.events = [e] ∧ u.events = [x] ∧ quiet s ∧ Memory.wf s.sys.mem = true ∧ cellsWf s.sys.granules = true ∧ e.kind = c.1 ∧ x.kind = c.1
      ∧ e.addr = x.addr ∧ (atomicShape e.instr).map Prod.fst = (atomicShape x.instr).map Prod.fst ∧ e.size = x.size ∧ e.size = 8 ∧ (e.data = x.data ↔ c.2 = 7) ∧ lostNode s e.addr = none ∧ poisonAt s.sys e.addr e.size = none
      ∧ (e.data.getD 0 0).toNat < 2 ^ 64 ∧ (e.data.getD 1 0).toNat < 2 ^ 64 ∧ (c.1 = 1 → (atomicShape e.instr).isSome = true)
      ∧ s.kernel t.lnum = some k ∧ k.ended = none ∧ k.done = none) := by
  refine ⟨fun c h => ?_, fun c h => ?_⟩
  · let e : ExtEvent := ⟨1, 0, 0, 0x210000, 8, [7], .sd 1 2 0, false⟩
    refine ⟨pairRig c.1 c.2 e e [], _, _, _, _, rigKernel, rfl, rfl, rfl, rfl, rfl, rfl, ⟨⟨rfl, rfl, rfl, rfl, rfl⟩, rfl⟩, ⟨⟨rfl, rfl, rfl, rfl, rfl⟩, rfl⟩, rfl, ?_, rfl, rfl, rfl, rfl, rfl, rfl, rfl, rfl⟩
    rcases h with rfl | rfl | rfl <;> decide
  · let i : Instr := if c.1 = 1 then .amoadd 1 2 3 1 3 3 else .sd 1 2 0
    let e : ExtEvent := ⟨1, c.1, 0, 0x210000, 8, [7], i, false⟩
    let x : ExtEvent := ⟨1, c.1, 0, 0x210000, 8, [w64 c.2], i, false⟩
    have w : ∀ e x : ExtEvent, Memory.wf (pairRig 5 0 e x []).sys.mem = true := fun e x => (by decide +kernel : Memory.wf (rigMemory []) = true)
    refine ⟨pairRig 5 0 e x [], pairThread (.lead 1) 5 0 e, pairThread (.shadow 0) 5 0 x, e, x, rigKernel, rfl, rfl, rfl, rfl, rfl, rig_quiet (scalarThread []) .engine [], w _ _, rfl, rfl, rfl, rfl,
      rfl, rfl, rfl, ?_⟩
    rcases h with rfl | rfl | rfl <;>
      exact ⟨by decide, by decide +kernel, by decide +kernel, by decide, by decide, by decide +kernel, rfl, rfl, rfl⟩

/-- A command for domain 1 whose other fields are zero. -/
def commandOf (typ : Nat) (dom : BitVec 8) (op0 op1 op2 : Nat) (cseq : Nat) : Command :=
  { typ := BitVec.ofNat 16 typ, dom := dom, flg := 0, tgt := 5, htag := 0, op0 := w64 op0, op1 := w64 op1, op2 := w64 op2, op3 := 0, op4 := 0, op5 := 0, cseq := w64 cseq, zeros := true, mac := 0 }

/-- The module, numbered 5, with a command that its bridge has read, as the ring's last. -/
def commandRig (c : Command) (p : Proctor → Proctor) (f : State → State := id) : State :=
  let s := rig .engine (scalarThread [])
  f { s with proctor := p s.proctor, host := { (hostRig id).host with node := 5, brn := 5, tail := 1, pending := some c } }

theorem command_ready (c : Command) (p : Proctor → Proctor) (hq : (p (rig .engine (scalarThread [])).proctor).queued = []) : CommandReady (commandRig c p) c c.typ.toNat 1 where
  pending := rfl
  typ := rfl
  next := rfl
  journal := rfl
  room := fun h => absurd h (by decide)
  ring := rfl
  fresh := fun q h => by
    have : (commandRig c p).proctor.queued = [] := hq
    rw [this] at h; cases h

/-- The command with the MAC that the small machine's domain gives it. -/
def macked (c : Command) : Command := { c with mac := BitVec.ofNat 384 (leValue (hmac384 rigDomain.command (macText c))) }

theorem hmac_length (key text : List Byte) : (hmac384 key text).length ≤ 48 := by unfold hmac384 sha384; rw [List.length_take]; omega

/-- At most 48 bytes as a number of 384 bits. -/
theorem mac_bits (bs : List Byte) (h : bs.length ≤ 48) : (BitVec.ofNat 384 (leValue bs)).toNat = leValue bs := by
  have e : (256 : Nat) ^ bs.length ≤ 256 ^ 48 := Nat.pow_le_pow_right (by decide) h
  have l := leValue_lt bs
  rw [BitVec.toNat_ofNat, Nat.mod_eq_of_lt]
  exact Nat.lt_of_lt_of_le l e

theorem macText_mac (c : Command) (m : BitVec 384) : macText { c with mac := m } = macText c := rfl

theorem macked_right (c : Command) : MacRight rigDomain (macked c) := by
  have e : macText (macked c) = macText c := macText_mac c _
  unfold MacRight
  rw [e]
  exact mac_bits _ (hmac_length rigDomain.command (macText c))

/-- A command of domain 1 with its MAC is accepted. -/
theorem command_accepted (c : Command) (p : Proctor → Proctor) (hd : tableGet 1 (p (rig .engine (scalarThread [])).proctor).domains = some rigDomain)
    (hf : c.flg = 0 ∧ c.dom = 1 ∧ c.zeros = true ∧ c.cseq = 1) (ht : 2 ≤ c.typ.toNat ∧ c.typ.toNat ≤ 10)
    (hm : MacRight rigDomain c) : SlotAccepted (commandRig c p) c where
  form := fun h => by
    obtain ⟨h1, h2, h3, h4⟩ := hf
    rcases h with h | h | ⟨h, _⟩ | ⟨h, _⟩ | ⟨h, _⟩ | ⟨_, h⟩
    · rw [h3] at h; cases h
    · rw [h1] at h; exact absurd h (by decide)
    · exact absurd h (by decide : ¬ (5 : BitVec 11) = 0x7FF)
    · exact absurd h (by decide : ¬ (0 : BitVec 8) = 5)
    · rcases h with h | h | h | h | h <;> omega
    · rw [h2] at h; exact absurd h (by decide)
  maced := fun _ => ⟨rigDomain, by rw [hf.2.1]; exact hd, rfl, hm, by rw [hf.2.2.2]; rfl⟩

/-- Slots that are malformed, of no domain, and of a domain that is there; types that no command has; commands with no MAC at the ends of their operands' ranges. -/
theorem witness_slots :
    (∃ (s : State) (c : Command), CommandReady s c 2 1 ∧ Malformed s c ∧ commandEvent (.ddestroy 1) = some (2, 1))
    ∧ (∀ dom : BitVec 8, dom = 1 ∨ dom = 63 → ∃ (s : State) (c : Command), CommandReady s c 2 1 ∧ ¬ Malformed s c ∧ ¬ NoMac 2 ∧ c.dom = dom
      ∧ (tableGet c.dom.toNat s.proctor.domains = if dom = 1 then some rigDomain else none) ∧ rigDomain.dying = none ∧ c.cseq.toNat = rigDomain.cseq + 2)
    ∧ (∀ typ : Nat, typ = 0 ∨ typ = 15 ∨ typ = 1 ∨ typ = 14 → ∃ (s : State) (c : Command), CommandReady s c typ 1)
    ∧ (∀ op0 : Nat, op0 = 1023 ∨ op0 = 1024 → ∃ (s : State) (c : Command), CommandReady s c 14 1 ∧ SlotAccepted s c ∧ c.op0.toNat = op0)
    ∧ (∀ op2 : Nat, op2 = 0 ∨ op2 = 1 ∨ op2 = 255 ∨ op2 = 256 → ∃ (s : State) (c : Command), CommandReady s c 11 1 ∧ SlotAccepted s c ∧ c.op0.toNat % 16 = 0 ∧ c.op2.toNat = op2
      ∧ (tableGet op2 s.proctor.domains ≠ none ↔ op2 = 1))
    ∧ (∃ (s : State) (i : Instr), commandEvent i = some (14, 1) ∧ s.host.pending = none ∧ ∀ q, s.proctor.queued.head? = some q → q.seq ≠ 1) := by
  have fresh : ∀ typ op0 op2, typ = 11 ∨ typ = 14 → SlotAccepted (commandRig (commandOf typ 0xFF op0 0 op2 0) id) (commandOf typ 0xFF op0 0 op2 0) := fun typ op0 op2 h => by
    have e : (commandOf typ 0xFF op0 0 op2 0).typ.toNat = typ := by rcases h with rfl | rfl <;> rfl
    refine ⟨fun m => ?_, fun m => absurd (show NoMac _ from ?_) m⟩
    · rcases m with m | m | ⟨m, _⟩ | ⟨m, _⟩ | ⟨_, m⟩ | ⟨m, _⟩
      · cases m
      · exact absurd m (by decide : ¬ 4 ≤ (0 : BitVec 8).toNat)
      · exact absurd m (by decide : ¬ (5 : BitVec 11) = 0x7FF)
      · exact absurd m (by decide : ¬ (0 : BitVec 8) = 5)
      · exact m ⟨rfl, rfl, rfl⟩
      · rw [e] at m; unfold NoMac at m; omega
    · rw [e]; unfold NoMac; omega
  refine ⟨⟨commandRig (commandOf 2 64 0 0 0 1) id, commandOf 2 64 0 0 0 1, command_ready _ _ rfl, .inr (.inr (.inr (.inr (.inr ⟨by unfold NoMac; decide, by decide⟩)))), rfl⟩, fun dom h => ?_, fun typ h => ?_, fun op0 h => ?_, fun op2 h => ?_,
    ⟨hostRig id, .nodeset 1, rfl, rfl, fun q h => nomatch h⟩⟩
  · refine ⟨commandRig (commandOf 2 dom 0 0 0 2) id, commandOf 2 dom 0 0 0 2, command_ready _ _ rfl, ?_, by unfold NoMac; decide, rfl, ?_, rfl, rfl⟩
    · rintro (m | m | ⟨m, _⟩ | ⟨m, _⟩ | ⟨m, _⟩ | ⟨_, m⟩)
      · cases m
      · exact absurd m (by decide : ¬ 4 ≤ (0 : BitVec 8).toNat)
      · exact absurd m (by decide : ¬ (5 : BitVec 11) = 0x7FF)
      · exact absurd m (by decide : ¬ (0 : BitVec 8) = 5)
      · exact absurd (show NoMac 2 from m) (by unfold NoMac; decide)
      · rcases h with rfl | rfl <;> exact absurd m (by decide)
    · rcases h with rfl | rfl <;> rfl
  · rcases h with rfl | rfl | rfl | rfl
    · exact ⟨_, _, command_ready (commandOf 0 1 0 0 0 1) id rfl⟩
    · exact ⟨_, _, command_ready (commandOf 15 1 0 0 0 1) id rfl⟩
    · exact ⟨_, _, command_ready (commandOf 1 1 0 0 0 1) id rfl⟩
    · exact ⟨_, _, command_ready (commandOf 14 1 0 0 0 1) id rfl⟩
  · refine ⟨commandRig (commandOf 14 0xFF op0 0 0 0) id, commandOf 14 0xFF op0 0 0 0, command_ready _ _ rfl, fresh _ _ _ (.inr rfl), ?_⟩
    rcases h with rfl | rfl <;> rfl
  · refine ⟨commandRig (commandOf 11 0xFF 0 0 op2 0) id, commandOf 11 0xFF 0 0 op2 0, command_ready _ _ rfl, fresh _ _ _ (.inl rfl), rfl, ?_⟩
    rcases h with rfl | rfl | rfl | rfl <;> exact ⟨rfl, by decide⟩

/-- Commands with their MACs: a domain, an image, a kernel that is there and one that is not; a transfer whose length is odd; a region that may be
mapped, one that is taken, one whose range is still invalidated, one that is writable and executable; a region that is there. -/
theorem witness_commands :
    (∀ typ op0 : Nat, 2 ≤ typ → typ ≤ 10 → typ ≠ 9 → op0 ≤ 1 → ∃ (s : State) (c : Command), CommandReady s c typ 1 ∧ SlotAccepted s c ∧ c.op0.toNat = op0
      ∧ tableGet c.dom.toNat s.proctor.domains = some rigDomain ∧ keysRise s.sched.kernels = true ∧ s.image 1 = some rigImage ∧ rigImage.unloading = none ∧ s.image 0 = none
      ∧ s.kernel 0 = some rigKernel ∧ rigKernel.dom = c.dom.toNat ∧ s.kernel 1 = none ∧ c.op2.toNat % 16 ≠ 0)
    ∧ (∀ base flags : Nat, base = 0x100000 ∨ base = 0x200000 → flags = 1 ∨ flags = 5 ∨ flags = 12 → ∃ (s : State) (c : Command), CommandReady s c 9 1
      ∧ SlotAccepted s c ∧ (mapRegion c).base = base ∧ (MapLegal c ↔ flags ≠ 12) ∧ (mapRegion c).lazy = (flags != 12)
      ∧ (RangeFree s (mapRegion c).dom (mapRegion c).base (mapRegion c).len ↔ base = 0x200000)
      ∧ (∃ r ∈ s.proctor.regions, r.dom = c.dom.toNat ∧ r.base = 0x100000 ∧ r.len = 0x10000) ∧ s.sys.invalidations = []) := by
  refine ⟨fun typ op0 h1 h2 h3 h4 => ?_, fun base flags hb hf => ?_⟩
  · refine ⟨commandRig (macked (commandOf typ 1 op0 0 1 1)) id, macked (commandOf typ 1 op0 0 1 1), ?_,
      command_accepted _ _ rfl ⟨rfl, rfl, rfl, rfl⟩ (show 2 ≤ (BitVec.ofNat 16 typ).toNat ∧ (BitVec.ofNat 16 typ).toNat ≤ 10 from ⟨?_, ?_⟩) (macked_right _), ?_, rfl, rfl, rfl, rfl, rfl, rfl, rfl, rfl, (by decide : ¬ (w64 1).toNat % 16 = 0)⟩
    · have e : (macked (commandOf typ 1 op0 0 1 1)).typ.toNat = typ := by simp [macked, commandOf]; omega
      have r := command_ready (macked (commandOf typ 1 op0 0 1 1)) id rfl
      rwa [e] at r
    · simp; omega
    · simp; omega
    · simp [macked, commandOf, w64]; omega
  · let r : Region := { dom := 1, base := 0x100000, len := 0x10000, page := 0, lazy := true, nsh := false, wr := true, ex := false, die := 0 }
    refine ⟨commandRig (macked (commandOf 9 1 base 0x10000 flags 1)) (fun p => { p with regions := [r] }), macked (commandOf 9 1 base 0x10000 flags 1), command_ready _ _ rfl,
      command_accepted _ _ rfl ⟨rfl, rfl, rfl, rfl⟩ (by decide : 2 ≤ (9 : BitVec 16).toNat ∧ (9 : BitVec 16).toNat ≤ 10) (macked_right _), ?_⟩
    rcases hb with rfl | rfl <;> rcases hf with rfl | rfl | rfl <;>
      exact ⟨rfl, by unfold MapLegal; decide +kernel, by decide +kernel, by unfold RangeFree; decide +kernel, ⟨r, List.mem_singleton.2 rfl, rfl, rfl, rfl⟩, rfl⟩

/-- A domain and an image that wait for their kernels, and do not; queued microcode that may be taken and not, behind an update and behind none; an update of a die with a
form on it that can be saved, and of its last die with none. -/
theorem witness_command_ends :
    (∀ done : Bool, ∃ (s : State) (d : Domain) (im : Image), tableGet 1 s.proctor.domains = some d ∧ d.dying = some 7 ∧ s.image 1 = some im ∧ im.unloading = some 8 ∧ im.dom = 1
      ∧ keysRise s.proctor.images = true ∧ ((∃ n k, (n, k) ∈ s.sched.kernels ∧ k.dom = 1 ∧ k.image = 1 ∧ k.done = none) ↔ done = false) ∧ s.sys.invalidations = [])
    ∧ (∀ busy low : Bool, ∃ (s : State) (m : Microcode), s.proctor.queued = [⟨7, m, 0⟩] ∧ (s.proctor.update = none ↔ busy = false) ∧ (PackageBad s m ↔ low = true))
    ∧ (∃ (s : State) (u : McodeUpdate), s.proctor.update = some u ∧ u.die = 3 ∧ ∀ n k m f, (n, k) ∈ s.sched.kernels → (m, f) ∉ k.forms)
    ∧ (∃ (s : State) (u : McodeUpdate) (k : Kernel) (f : Form), s.proctor.update = some u ∧ u.die = 0 ∧ s.sched.kernels = [(0, k)] ∧ k.forms = [(0, f)] ∧ f.no = 0 ∧ f.status = .resident
      ∧ (∃ x ∈ f.place.slots, x.1 / 48 = 0) ∧ formSaveable s f = true ∧ faultHandled s f = false) := by
  refine ⟨fun done => ?_, fun busy low => ?_, ?_, ?_⟩
  · let s := rig .engine (scalarThread [])
    let d : Domain := { rigDomain with dying := some 7 }
    let im : Image := { rigImage with unloading := some 8 }
    refine ⟨{ s with proctor := { s.proctor with domains := [(1, d)], images := [(1, im)] }, sched := { s.sched with kernels := [(0, { rigKernel with done := if done then some 1 else none })] } },
      d, im, rfl, rfl, rfl, rfl, rfl, rfl, ?_, rfl⟩
    cases done
    · exact ⟨fun _ => rfl, fun _ => ⟨0, _, List.mem_singleton.2 rfl, rfl, rfl, rfl⟩⟩
    · refine ⟨fun ⟨n, k, hk, _, _, h⟩ => ?_, fun h => nomatch h⟩
      obtain ⟨_, rfl⟩ : n = 0 ∧ k = { rigKernel with done := some 1 } := by simpa using hk
      cases h
  · let s := rig .engine (scalarThread [])
    let m : Microcode := { Microcode.reset with level := if low then 0 else 1 }
    refine ⟨{ s with proctor := { s.proctor with queued := [⟨7, m, 0⟩], update := if busy then some ⟨6, m, 0⟩ else none, micro := Vector.replicate 4 { Microcode.reset with level := 1 } } }, m, rfl, ?_, ?_⟩
    · cases busy <;> simp
    · refine ⟨fun h => ?_, fun h => .inl ⟨0, by decide, ?_⟩⟩
      · rcases h with ⟨d, hd, h⟩ | ⟨n, k, im, x, hk, _, hi, hx, _⟩
        · have : d = 0 ∨ d = 1 ∨ d = 2 ∨ d = 3 := by omega
          cases low
          · rcases this with rfl | rfl | rfl | rfl <;> exact absurd h (by cases busy <;> decide +kernel)
          · rfl
        · obtain ⟨_, rfl⟩ : n = 0 ∧ k = rigKernel := by simpa [s, rig] using hk
          obtain rfl : rigImage = im := Option.some.inj hi
          cases hx
      · subst h; cases busy <;> decide +kernel
  · let s := rig .engine (scalarThread [])
    refine ⟨{ s with proctor := { s.proctor with update := some ⟨7, Microcode.reset, 3⟩ } }, _, rfl, rfl, fun n k m f hk hf => ?_⟩
    obtain ⟨_, rfl⟩ : n = 0 ∧ k = rigKernel := by simpa [s, rig] using hk
    cases hf
  · let t : Thread := { scalarThread [] with satb := 1 }
    let s := rig .engine t
    let f : Form := { no := 0, res := 1, status := .resident, place := { clusters := [0], seats := [⟨0, 0, 1, []⟩], shadow := [], shadowSeats := [] }, since := 0, stopAt := 0, saved := [],
                      order := 0, refused := false, needs := none, moveTo := none, chart := [], short := false }
    exact ⟨{ s with proctor := { s.proctor with update := some ⟨7, Microcode.reset, 0⟩ }, sched := { s.sched with kernels := [(0, { rigKernel with forms := [(0, f)] })] } }, _, _, f, rfl, rfl, rfl, rfl,
      rfl, rfl, ⟨(0, 0), by decide +kernel, by decide⟩, by decide +kernel, by decide +kernel⟩

def oneForm (st : FormStatus) : Form :=
  { no := 0, res := 1, status := st, place := { clusters := [0], seats := [⟨0, 0, 1, []⟩], shadow := [], shadowSeats := [] }, since := 0, stopAt := 0, saved := [], order := 0
    refused := false, needs := none, moveTo := none, chart := [], short := false }

/-- The timetable with a kernel, changed, and a thread. -/
def tableRig (t : Thread) (k : Kernel) (c : Nat) : State :=
  let s := rig .engine t
  { s with sched := { s.sched with kernels := [(0, k)] }, cycles := Vector.replicate 5 (w64 c) }

/-- A form whose preloads are done, of none and of one chunk; a kernel that ages and one that does not, over and not. -/
theorem witness_timetable :
    (∀ pre : Bool, ∃ (s : State) (k : Kernel) (f : Form) (im : Image) (e : KernelEntry) (sp : Nat → Nat), s.kernel 0 = some k ∧ tableGet 0 k.forms = some f ∧ f.no = 0
      ∧ s.image k.image = some im ∧ im.kernels[k.kidx]? = some e ∧ f.status = .preloading ∧ f.place.shadowSeats = [] ∧ f.place.shadow = []
      ∧ f.place.seats.Pairwise (fun x y => x.tid ≠ y.tid) ∧ f.place.clusters = [0] ∧ quiet s ∧ Memory.wf s.sys.mem = true
      ∧ k.card.preloads = (if pre then [(codeVa, 128, 2 ^ 24 - 128)] else []) ∧ PiecesAt s (engineAccessor k.dom k.asid k.root) codeVa 128 .read sp)
    ∧ (∀ last : Bool, ∀ c : Nat, c = 2 ^ 21 - 1 ∨ c = 2 ^ 21 → ∃ (s : State) (k : Kernel) (pa : Nat), s.kernel 0 = some k ∧ k.done = none ∧ k.ended = none
      ∧ (k.aged < (((s.cycle k.unit).toNat : Int) - k.since).toNat / 2 ^ 21 ↔ c = 2 ^ 21) ∧ k.forms = [] ∧ (k.nextForm = k.card.nform ↔ last = true) ∧ WorkDone s 0
      ∧ Memory.wf s.sys.mem = true ∧ cellsWf s.sys.granules = true ∧ k.card.stat = dataVa ∧ translate s (engineAccessor k.dom k.asid k.root) k.card.stat .write = .ok pa
      ∧ lostNode s pa = none ∧ ∀ off, physKind pa ≠ .device off) := by
  refine ⟨fun pre => ?_, fun o c h => ?_⟩
  · let k : Kernel := { rigKernel with forms := [(0, oneForm .preloading)], card := { rigKernel.card with preloads := if pre then [(codeVa, 128, 2 ^ 24 - 128)] else [] } }
    refine ⟨tableRig (scalarThread []) k 0, k, oneForm .preloading, rigImage, _, fun i => 0x200000 + 16 * i, rfl, rfl, rfl, rfl, rfl, rfl, rfl, rfl, by simp [oneForm], rfl,
      rig_quiet (scalarThread []) .engine [], (by decide +kernel : Memory.wf (rigMemory []) = true), rfl, fun i hi => ?_⟩
    have : i = 0 ∨ i = 1 ∨ i = 2 ∨ i = 3 ∨ i = 4 ∨ i = 5 ∨ i = 6 ∨ i = 7 := by omega
    have d : ∀ pa off, (physKind pa matches .device _) = false → physKind pa ≠ .device off := fun pa off h e => by rw [e] at h; cases h
    cases pre <;> rcases this with rfl | rfl | rfl | rfl | rfl | rfl | rfl | rfl <;>
      exact ⟨by decide +kernel, by decide +kernel, fun off => d _ _ (by decide +kernel)⟩
  · let k : Kernel := { rigKernel with nextForm := if o then 1 else 0, card := { rigKernel.card with stat := dataVa } }
    refine ⟨tableRig { scalarThread [] with lnum := 1 } k c, k, 0x210000, rfl, rfl, rfl, ?_, rfl, ?_, ⟨(fun j hj => nomatch hj), (fun j hj => nomatch hj), (fun j hj => nomatch hj), fun t ht => ?_⟩,
      (by decide +kernel : Memory.wf (rigMemory []) = true), rfl, rfl, ?_, ?_, fun off h => by
        have : (physKind 0x210000 matches .device _) = false := by decide +kernel
        rw [h] at this; cases this⟩
    · rcases h with rfl | rfl <;> cases o <;> decide +kernel
    · cases o <;> decide
    · have : t = (0, { scalarThread [] with lnum := 1 }) := by simpa [tableRig, rig] using ht
      rw [this]; decide
    · rcases h with rfl | rfl <;> cases o <;> decide +kernel
    · rcases h with rfl | rfl <;> cases o <;> decide +kernel

/-- A group at its deadline and just before it; a form's last thread that has stopped, with a satchel of no size and with one that holds it; one that has not stopped. -/
theorem witness_stops :
    (∀ late : Bool, ∃ (s : State) (v : VCtx) (k : Kernel) (f : Form) (d : Word), vctx s 0 = some v ∧ v.t.role = .solo ∧ v.g.closed = [] ∧ s.kernel v.t.lnum = some k
      ∧ tableGet v.t.form k.forms = some f ∧ readDevice s 0 = some d ∧ (f.stopAt + d.toNat ≤ (s.cycle 0).toNat ↔ late = true) ∧ f.status = .stopping ∧ v.g.faulted = false
      ∧ v.g.stop = none ∧ v.g.stopping = true)
    ∧ (∀ size : Nat, size = 0 ∨ size = 1 → ∃ (s : State) (k : Kernel) (f : Form) (x : Seat) (t : Thread), s.kernel 0 = some k ∧ tableGet 0 k.forms = some f ∧ f.place.seats = [x]
      ∧ f.place.shadowSeats = [] ∧ x.tid = 0 ∧ s.thread 0 = some t ∧ t.lnum = 0 ∧ t.form = 0 ∧ t.group = none ∧ t.role = .solo ∧ t.loader = none ∧ k.paired = false
      ∧ f.status = .stopping ∧ t.stopped = true ∧ t.faulted = false ∧ t.satb.toNat % 2 ^ 16 = size ∧ (size = 1 → (saveThread s k 0 t).2 = true)) := by
  refine ⟨fun late => ?_, fun size h => ?_⟩
  · let k : Kernel := { rigKernel with forms := [(0, oneForm .stopping)] }
    let g := fun (g : Group) => { g with stopping := true }
    refine ⟨tableRig (vectorThread g) k (if late then 0xA410 else 0xA40F), _, k, oneForm .stopping, 0xA410, rfl, rfl, rfl, rfl, rfl, by cases late <;> decide +kernel, ?_, rfl, rfl, rfl, rfl⟩
    cases late <;> decide +kernel
  · let k : Kernel := { rigKernel with forms := [(0, oneForm .stopping)] }
    let t : Thread := { scalarThread [] with stopped := true, group := none, satb := w64 (dataVa + size) }
    refine ⟨tableRig t k 0, k, oneForm .stopping, _, t, rfl, rfl, rfl, rfl, rfl, rfl, rfl, rfl, rfl, rfl, rfl, rfl, rfl, rfl, rfl, ?_, fun e => ?_⟩
    · rcases h with rfl | rfl <;> decide
    · subst e; decide +kernel

/-- A turn of a control thread whose parcel lies at its program counter, of a Proctor core and of a sequencer with both parcels of an instruction, an event's, and one of a
thread that is not there; a machine without power. -/
theorem witness_steps :
    (∃ (s u : State) (t : Thread), TurnComes s (.scalar 0) u ∧ s.power = .up ∧ quiet s ∧ ThreadFree u 0 t ∧ ParcelAt u (threadAccessor u 0 t) t.ctx.pc 0x04A6FFFE)
    ∧ (∃ (s u : State) (c : ProctorCore), TurnComes s (.proctor 0) u ∧ s.power = .up ∧ quiet s ∧ u.pcore 0 = some c ∧ c.halted = false ∧ c.waiting = none ∧ c.poisoned = false
      ∧ ParcelAt u proctorAccessor c.ctx.pc 0)
    ∧ (∃ (s u : State) (t : Thread) (g : Group), TurnComes s (.vector 0) u ∧ s.power = .up ∧ quiet s ∧ SequencerFree u 0 t g ∧ ParcelAt u (threadAccessor u 0 t) g.core.pc 0x20000000
      ∧ ParcelAt u (threadAccessor u 0 t) (g.core.pc + 4) 0 ∧ (0x20000000 : Parcel).toNat / 2 ^ 24 < 0xFC)
    ∧ (∃ (s u : State), TurnComes s (.event (.nodeset 1)) u ∧ s.power = .up ∧ OfAnotherAgent (.nodeset 1) ∧ u.thread 5 = none ∧ s.sched.rescan = false)
    ∧ (∃ s : State, s.power ≠ .up)
    ∧ (∃ s t : State, Memory.wf s.sys.mem = true ∧ s.power ≠ .up ∧ s.agenda = [.scalar 5]) := by
  have parcel : ∀ (s : State) (a : Accessor) (pc : Word) (p : Parcel) (pa : Nat), pc.toNat % 4 = 0 → translate s a pc.toNat .fetch = .ok pa → lostNode s pa = none
      → poisonAt s.sys pa 4 = none → p.toNat = leValue (presentBytes s pa 4) → ParcelAt s a pc p :=
    fun s a pc p pa h1 h2 h3 h4 h5 => ⟨h1, pa, h2, ⟨h3, h4⟩, h5⟩
  refine ⟨?_, ?_, ?_, ?_, ⟨State.reset, by decide⟩, ⟨{ State.reset with agenda := [.scalar 5] }, State.reset, rfl, by decide, rfl⟩⟩
  · let bs : List Host.Cell := [(0x200000, 0xFE), (0x200001, 0xFF), (0x200002, 0xA6), (0x200003, 0x04)]
    exact ⟨{ rig .engine (scalarThread []) bs with agenda := [.scalar 0] }, rig .engine (scalarThread []) bs, scalarThread [], .inl ⟨rfl, rfl⟩, rfl, rig_quiet (scalarThread []) .engine bs,
      ⟨rfl, ⟨rfl, rfl, rfl, rfl⟩, (fun h e => nomatch e), fun e he => nomatch he⟩, parcel _ _ _ _ 0x200000 (by decide +kernel) (by decide +kernel) (by decide +kernel) (by decide +kernel) (by decide +kernel)⟩
  · exact ⟨{ rig .engine (scalarThread []) with agenda := [.proctor 0] }, rig .engine (scalarThread []), _, .inl ⟨rfl, rfl⟩, rfl, rig_quiet (scalarThread []) .engine [], rfl, rfl, rfl, rfl,
      parcel _ _ _ _ 0 (by decide +kernel) (by decide +kernel) (by decide +kernel) (by decide +kernel) (by decide +kernel)⟩
  · exact ⟨{ rig .engine (vectorThread id) [(0x200003, 0x20)] with agenda := [.vector 0] }, rig .engine (vectorThread id) [(0x200003, 0x20)], vectorThread id, groupOfRig id, .inl ⟨rfl, rfl⟩, rfl, rig_quiet (vectorThread id) .engine [(0x200003, 0x20)],
      ⟨rfl, rfl, rfl, rfl, rfl, rfl, rfl⟩, parcel _ _ _ _ 0x200000 (by decide +kernel) (by decide +kernel) (by decide +kernel) (by decide +kernel) (by decide +kernel),
      parcel _ _ _ _ 0x200004 (by decide +kernel) (by decide +kernel) (by decide +kernel) (by decide +kernel) (by decide +kernel), by decide⟩
  · exact ⟨{ rig .engine (scalarThread []) with agenda := [.event (.nodeset 1)] }, rig .engine (scalarThread []), .inl ⟨rfl, rfl⟩, rfl, ⟨rfl, fun hi lo h => nomatch h⟩, rfl, rfl⟩

/-- Well-formed instructions of one parcel and of two, and parcels that decode. -/
theorem witness_encodings :
    (∃ i p, Instr.wf i = true ∧ encodeParcel i = some p) ∧ (∃ i v, Instr.wf i = true ∧ encodeVector i = some v)
    ∧ (∃ hi lo i, decodeVector hi lo = some i) :=
  ⟨⟨.addi 5 6 0xFFFE, 0x08A6FFFE, by decide +kernel⟩, ⟨.vadd (vf 1 2 3 0 0 0), 0x200420C000000000, by decide +kernel⟩, ⟨0x200420C0, 0, .vadd (vf 1 2 3 0 0 0), by decide +kernel⟩⟩

theorem test_decode_integer : ∀ x ∈ ([
    (1#6 ++ 4#5 ++ 5#5 ++ 6#5 ++ 0#11, .add 4 5 6), (1#6 ++ 4#5 ++ 5#5 ++ 6#5 ++ 1#11, .sub 4 5 6), (1#6 ++ 4#5 ++ 5#5 ++ 6#5 ++ 2#11, .and 4 5 6),
    (1#6 ++ 4#5 ++ 5#5 ++ 6#5 ++ 3#11, .or 4 5 6), (1#6 ++ 4#5 ++ 5#5 ++ 6#5 ++ 4#11, .xor 4 5 6), (1#6 ++ 4#5 ++ 5#5 ++ 6#5 ++ 5#11, .sll 4 5 6),
    (1#6 ++ 4#5 ++ 5#5 ++ 6#5 ++ 6#11, .srl 4 5 6), (1#6 ++ 4#5 ++ 5#5 ++ 6#5 ++ 7#11, .sra 4 5 6), (1#6 ++ 4#5 ++ 5#5 ++ 6#5 ++ 8#11, .slt 4 5 6),
    (1#6 ++ 4#5 ++ 5#5 ++ 6#5 ++ 9#11, .sltu 4 5 6), (1#6 ++ 4#5 ++ 5#5 ++ 6#5 ++ 0xa#11, .mul 4 5 6), (1#6 ++ 4#5 ++ 5#5 ++ 6#5 ++ 0xb#11, .mulh 4 5 6),
    (1#6 ++ 4#5 ++ 5#5 ++ 6#5 ++ 0xc#11, .mulhu 4 5 6), (1#6 ++ 4#5 ++ 5#5 ++ 6#5 ++ 0xd#11, .div 4 5 6), (1#6 ++ 4#5 ++ 5#5 ++ 6#5 ++ 0xe#11, .divu 4 5 6),
    (1#6 ++ 4#5 ++ 5#5 ++ 6#5 ++ 0xf#11, .rem 4 5 6), (1#6 ++ 4#5 ++ 5#5 ++ 6#5 ++ 0x10#11, .remu 4 5 6), (1#6 ++ 4#5 ++ 5#5 ++ 6#5 ++ 0x11#11, .min 4 5 6),
    (1#6 ++ 4#5 ++ 5#5 ++ 6#5 ++ 0x12#11, .max 4 5 6), (1#6 ++ 4#5 ++ 5#5 ++ 6#5 ++ 0x13#11, .minu 4 5 6),
    (1#6 ++ 4#5 ++ 5#5 ++ 6#5 ++ 0x14#11, .maxu 4 5 6), (1#6 ++ 4#5 ++ 5#5 ++ 0x15#16, .clz 4 5), (1#6 ++ 4#5 ++ 5#5 ++ 0x16#16, .ctz 4 5),
    (1#6 ++ 4#5 ++ 5#5 ++ 0x17#16, .popc 4 5), (2#6 ++ 4#5 ++ 5#5 ++ 0x5a5#16, .addi 4 5 1445), (3#6 ++ 4#5 ++ 5#5 ++ 0x5a5#16, .andi 4 5 1445),
    (4#6 ++ 4#5 ++ 5#5 ++ 0x5a5#16, .ori 4 5 1445), (5#6 ++ 4#5 ++ 5#5 ++ 0x5a5#16, .xori 4 5 1445), (6#6 ++ 4#5 ++ 5#5 ++ 0x5a5#16, .slti 4 5 1445),
    (7#6 ++ 4#5 ++ 5#5 ++ 0x5a5#16, .sltiu 4 5 1445), (8#6 ++ 4#5 ++ 5#5 ++ 0#10 ++ 9#6, .slli 4 5 9), (9#6 ++ 4#5 ++ 5#5 ++ 0#10 ++ 9#6, .srli 4 5 9),
    (0xa#6 ++ 4#5 ++ 5#5 ++ 0#10 ++ 9#6, .srai 4 5 9), (0xb#6 ++ 4#5 ++ 0x12345#21, .lui 4 74565), (0xc#6 ++ 4#5 ++ 0x12345#21, .auipc 4 74565),
    (0xd#6 ++ 4#5 ++ 5#5 ++ 0x5a5#16, .ormi 4 5 1445), (0xe#6 ++ 4#5 ++ 5#5 ++ 0x5a5#16, .orhi 4 5 1445)] : List (Parcel × Instr)), decodeThread x.1 = x.2 := by decide +kernel

theorem test_decode_plain_accesses : ∀ x ∈ ([
    (0x10#6 ++ 3#5 ++ 5#5 ++ 0x5a5#16, .lb 3 5 1445), (0x11#6 ++ 3#5 ++ 5#5 ++ 0x5a5#16, .lbu 3 5 1445), (0x12#6 ++ 3#5 ++ 5#5 ++ 0x5a5#16, .lh 3 5 1445),
    (0x13#6 ++ 3#5 ++ 5#5 ++ 0x5a5#16, .lhu 3 5 1445), (0x14#6 ++ 3#5 ++ 5#5 ++ 0x5a5#16, .lw 3 5 1445), (0x15#6 ++ 3#5 ++ 5#5 ++ 0x5a5#16, .lwu 3 5 1445),
    (0x16#6 ++ 3#5 ++ 5#5 ++ 0x5a5#16, .ld 3 5 1445), (0x17#6 ++ 6#5 ++ 5#5 ++ 0x5a5#16, .lq 6 5 1445), (0x18#6 ++ 3#5 ++ 5#5 ++ 0x5a5#16, .sb 3 5 1445),
    (0x19#6 ++ 3#5 ++ 5#5 ++ 0x5a5#16, .sh 3 5 1445), (0x1a#6 ++ 3#5 ++ 5#5 ++ 0x5a5#16, .sw 3 5 1445), (0x1b#6 ++ 3#5 ++ 5#5 ++ 0x5a5#16, .sd 3 5 1445),
    (0x1c#6 ++ 6#5 ++ 5#5 ++ 0x5a5#16, .sq 6 5 1445)] : List (Parcel × Instr)), decodeThread x.1 = x.2 := by decide +kernel

theorem test_decode_consuming_accesses : ∀ x ∈ ([
    (0x1d#6 ++ 3#5 ++ 5#5 ++ 2#5 ++ 0x5a5#11, .lbW 3 5 1445), (0x1d#6 ++ 3#5 ++ 5#5 ++ 3#5 ++ 0x5a5#11, .lbWc 3 5 1445),
    (0x1d#6 ++ 3#5 ++ 5#5 ++ 0#5 ++ 0x5a5#11, .lbuW 3 5 1445), (0x1d#6 ++ 3#5 ++ 5#5 ++ 1#5 ++ 0x5a5#11, .lbuWc 3 5 1445),
    (0x1d#6 ++ 3#5 ++ 5#5 ++ 6#5 ++ 0x5a5#11, .lhW 3 5 1445), (0x1d#6 ++ 3#5 ++ 5#5 ++ 7#5 ++ 0x5a5#11, .lhWc 3 5 1445),
    (0x1d#6 ++ 3#5 ++ 5#5 ++ 4#5 ++ 0x5a5#11, .lhuW 3 5 1445), (0x1d#6 ++ 3#5 ++ 5#5 ++ 5#5 ++ 0x5a5#11, .lhuWc 3 5 1445),
    (0x1d#6 ++ 3#5 ++ 5#5 ++ 0xa#5 ++ 0x5a5#11, .lwW 3 5 1445), (0x1d#6 ++ 3#5 ++ 5#5 ++ 0xb#5 ++ 0x5a5#11, .lwWc 3 5 1445),
    (0x1d#6 ++ 3#5 ++ 5#5 ++ 8#5 ++ 0x5a5#11, .lwuW 3 5 1445), (0x1d#6 ++ 3#5 ++ 5#5 ++ 9#5 ++ 0x5a5#11, .lwuWc 3 5 1445),
    (0x1d#6 ++ 3#5 ++ 5#5 ++ 0xc#5 ++ 0x5a5#11, .ldW 3 5 1445), (0x1d#6 ++ 3#5 ++ 5#5 ++ 0xd#5 ++ 0x5a5#11, .ldWc 3 5 1445),
    (0x1d#6 ++ 6#5 ++ 5#5 ++ 0x10#5 ++ 0x5a5#11, .lqW 6 5 1445), (0x1d#6 ++ 6#5 ++ 5#5 ++ 0x11#5 ++ 0x5a5#11, .lqWc 6 5 1445),
    (0x1e#6 ++ 3#5 ++ 5#5 ++ 0#5 ++ 0x5a5#11, .sbFl 3 5 1445), (0x1e#6 ++ 3#5 ++ 5#5 ++ 4#5 ++ 0x5a5#11, .shFl 3 5 1445),
    (0x1e#6 ++ 3#5 ++ 5#5 ++ 8#5 ++ 0x5a5#11, .swFl 3 5 1445), (0x1e#6 ++ 3#5 ++ 5#5 ++ 0xc#5 ++ 0x5a5#11, .sdFl 3 5 1445),
    (0x1e#6 ++ 6#5 ++ 5#5 ++ 0x10#5 ++ 0x5a5#11, .sqFl 6 5 1445)] : List (Parcel × Instr)), decodeThread x.1 = x.2 := by decide +kernel

theorem test_decode_branches : ∀ x ∈ ([
    (0x20#6 ++ 5#5 ++ 6#5 ++ 0x1234#16, .beq 5 6 4660), (0x21#6 ++ 5#5 ++ 6#5 ++ 0x1234#16, .bne 5 6 4660),
    (0x22#6 ++ 5#5 ++ 6#5 ++ 0x1234#16, .blt 5 6 4660), (0x23#6 ++ 5#5 ++ 6#5 ++ 0x1234#16, .bge 5 6 4660),
    (0x24#6 ++ 5#5 ++ 6#5 ++ 0x1234#16, .bltu 5 6 4660), (0x25#6 ++ 5#5 ++ 6#5 ++ 0x1234#16, .bgeu 5 6 4660), (0x26#6 ++ 0x2345678#26, .jal 36984440),
    (0x27#6 ++ 0x2345678#26, .j 36984440), (0x28#6 ++ 4#5 ++ 5#5 ++ 0x5a5#16, .jalr 4 5 1445)] : List (Parcel × Instr)), decodeThread x.1 = x.2 := by decide +kernel

theorem test_decode_floats : ∀ x ∈ ([
    (0x2a#6 ++ 4#5 ++ 5#5 ++ 6#5 ++ 2#4 ++ 0#7, .fadd 4 5 6 2), (0x2a#6 ++ 4#5 ++ 5#5 ++ 6#5 ++ 2#4 ++ 1#7, .fsub 4 5 6 2),
    (0x2a#6 ++ 4#5 ++ 5#5 ++ 6#5 ++ 2#4 ++ 2#7, .fmul 4 5 6 2), (0x2a#6 ++ 4#5 ++ 5#5 ++ 6#5 ++ 2#4 ++ 3#7, .fdiv 4 5 6 2),
    (0x2a#6 ++ 4#5 ++ 5#5 ++ 0#5 ++ 2#4 ++ 4#7, .fsqrt 4 5 2), (0x2a#6 ++ 4#5 ++ 5#5 ++ 6#5 ++ 2#4 ++ 5#7, .fmin 4 5 6 2),
    (0x2a#6 ++ 4#5 ++ 5#5 ++ 6#5 ++ 2#4 ++ 6#7, .fmax 4 5 6 2), (0x2a#6 ++ 4#5 ++ 5#5 ++ 6#5 ++ 2#4 ++ 7#7, .feq 4 5 6 2),
    (0x2a#6 ++ 4#5 ++ 5#5 ++ 6#5 ++ 2#4 ++ 8#7, .flt 4 5 6 2), (0x2a#6 ++ 4#5 ++ 5#5 ++ 6#5 ++ 2#4 ++ 9#7, .fle 4 5 6 2),
    (0x2a#6 ++ 4#5 ++ 5#5 ++ 0#5 ++ 2#4 ++ 0xa#7, .fclass 4 5 2), (0x2a#6 ++ 4#5 ++ 5#5 ++ 0#1 ++ 1#4 ++ 2#4 ++ 0xb#7, .fcvt 4 5 1 2),
    (0x2a#6 ++ 4#5 ++ 5#5 ++ 2#5 ++ 2#4 ++ 0xc#7, .ftoi 4 5 2 2), (0x2a#6 ++ 4#5 ++ 5#5 ++ 2#5 ++ 2#4 ++ 0xd#7, .fton 4 5 2 2),
    (0x2a#6 ++ 4#5 ++ 5#5 ++ 0#5 ++ 2#4 ++ 0xe#7, .itof 4 5 2), (0x2a#6 ++ 4#5 ++ 5#5 ++ 0#5 ++ 2#4 ++ 0xf#7, .ntof 4 5 2),
    (0x2b#6 ++ 4#5 ++ 5#5 ++ 6#5 ++ 7#5 ++ 0#2 ++ 2#4, .fmadd 4 5 6 7 2), (0x2b#6 ++ 4#5 ++ 5#5 ++ 6#5 ++ 7#5 ++ 1#2 ++ 2#4, .fmsub 4 5 6 7 2),
    (0x2b#6 ++ 4#5 ++ 5#5 ++ 6#5 ++ 7#5 ++ 2#2 ++ 2#4, .fnmadd 4 5 6 7 2), (0x2b#6 ++ 4#5 ++ 5#5 ++ 6#5 ++ 7#5 ++ 3#2 ++ 2#4, .fnmsub 4 5 6 7 2)] : List (Parcel × Instr)), decodeThread x.1 = x.2 := by decide +kernel

theorem test_decode_atomics : ∀ x ∈ ([
    (0x2c#6 ++ 4#5 ++ 5#5 ++ 6#5 ++ 4#3 ++ 2#2 ++ 3#2 ++ 0#4, .amoswap 4 5 6 4 2 3),
    (0x2c#6 ++ 4#5 ++ 5#5 ++ 6#5 ++ 4#3 ++ 2#2 ++ 3#2 ++ 1#4, .amoadd 4 5 6 4 2 3),
    (0x2c#6 ++ 4#5 ++ 5#5 ++ 6#5 ++ 4#3 ++ 2#2 ++ 3#2 ++ 2#4, .amoand 4 5 6 4 2 3),
    (0x2c#6 ++ 4#5 ++ 5#5 ++ 6#5 ++ 4#3 ++ 2#2 ++ 3#2 ++ 3#4, .amoor 4 5 6 4 2 3),
    (0x2c#6 ++ 4#5 ++ 5#5 ++ 6#5 ++ 4#3 ++ 2#2 ++ 3#2 ++ 4#4, .amoxor 4 5 6 4 2 3),
    (0x2c#6 ++ 4#5 ++ 5#5 ++ 6#5 ++ 4#3 ++ 2#2 ++ 3#2 ++ 5#4, .amomin 4 5 6 4 2 3),
    (0x2c#6 ++ 4#5 ++ 5#5 ++ 6#5 ++ 4#3 ++ 2#2 ++ 3#2 ++ 6#4, .amomax 4 5 6 4 2 3),
    (0x2c#6 ++ 4#5 ++ 5#5 ++ 6#5 ++ 4#3 ++ 2#2 ++ 3#2 ++ 7#4, .amominu 4 5 6 4 2 3),
    (0x2c#6 ++ 4#5 ++ 5#5 ++ 6#5 ++ 4#3 ++ 2#2 ++ 3#2 ++ 8#4, .amomaxu 4 5 6 4 2 3),
    (0x2c#6 ++ 4#5 ++ 5#5 ++ 6#5 ++ 4#3 ++ 2#2 ++ 3#2 ++ 9#4, .amocas 4 5 6 4 2 3),
    (0x2c#6 ++ 4#5 ++ 5#5 ++ 0#5 ++ 4#3 ++ 2#2 ++ 3#2 ++ 0xa#4, .amold 4 5 4 2 3), (0x580#11 ++ 5#5 ++ 6#5 ++ 4#3 ++ 2#2 ++ 3#2 ++ 0xb#4, .amost 5 6 4 2 3)] : List (Parcel × Instr)), decodeThread x.1 = x.2 := by decide +kernel

theorem test_decode_synchronisation : ∀ x ∈ ([
    (0xb4000000#32, .fenceSv), (0xb4000001#32, .fenceVs), (0xb4000002#32, .fenceVv), (0x5c0#11 ++ 5#5 ++ 6#5 ++ 0#11, .binit 5 6),
    (0x2e#6 ++ 4#5 ++ 5#5 ++ 1#16, .arrive 4 5), (0x2e#6 ++ 4#5 ++ 5#5 ++ 2#16, .arriveDrop 4 5), (0x2e#6 ++ 4#5 ++ 5#5 ++ 6#5 ++ 3#11, .bwait 4 5 6),
    (0xb8000004#32, .phend), (0x5e0#11 ++ 5#5 ++ 6#5 ++ 0#11, .qcfg 5 6), (0x5e0#11 ++ 5#5 ++ 6#5 ++ 1#11, .qpost 5 6),
    (0x2f#6 ++ 4#5 ++ 5#5 ++ 6#5 ++ 2#11, .qtake 4 5 6), (0x2f#6 ++ 4#5 ++ 5#5 ++ 6#5 ++ 3#11, .qwaitn 4 5 6), (0x2f#6 ++ 4#5 ++ 5#5 ++ 4#16, .qstat 4 5),
    (0x5e0#11 ++ 5#5 ++ 5#16, .qresync 5), (0x30#6 ++ 9#5 ++ 5#5 ++ 6#5 ++ 7#5 ++ 8#5 ++ 0#1, .postb 9 5 6 7 8), (0x31#6 ++ 4#5 ++ 0#21, .getr 4),
    (0xc800#16 ++ 3#4 ++ 5#4 ++ 0xa#4 ++ 1#4, .waitc 3 5 10 1), (0x660#11 ++ 5#5 ++ 0#16, .copy 5)] : List (Parcel × Instr)), decodeThread x.1 = x.2 := by decide +kernel

theorem test_decode_system : ∀ x ∈ ([
    (0x34#6 ++ 4#5 ++ 5#5 ++ 0#16, .klaunch 4 5), (0x6a0#11 ++ 5#5 ++ 0#16, .seat 5), (0x6a0#11 ++ 5#5 ++ 1#16, .spanatt 5),
    (0x6a0#11 ++ 5#5 ++ 2#16, .spanrel 5), (0x38#6 ++ 4#5 ++ 0#9 ++ 1#12, .csrr 4 1), (0x38#6 ++ 4#5 ++ 5#5 ++ 1#4 ++ 1#12, .csrw 4 5 1),
    (0x38#6 ++ 4#5 ++ 5#5 ++ 2#4 ++ 1#12, .csrs 4 5 1), (0x38#6 ++ 4#5 ++ 5#5 ++ 3#4 ++ 1#12, .csrc 4 5 1), (0xe40000#24 ++ 0x2a#8, .trap 42),
    (0xe4000001#32, .alloc), (0xe4000002#32, .free), (0xe4000003#32, .kstat), (0xe4000004#32, .kcancel), (0xe4000005#32, .feat), (0xe4000006#32, .logev),
    (0xe4000100#32, .tret), (0xe4000200#32, .exit)] : List (Parcel × Instr)), decodeThread x.1 = x.2 := by decide +kernel

theorem test_decode_strips_and_memory : ∀ x ∈ ([
    (0x1#8 ++ 9#6 ++ 9#6 ++ 0#6 ++ 0#6, 0#3 ++ 0#1 ++ 13#4 ++ 0x400000#24, .setvl ⟨9, 9, 0, 0, 0, false, 13, 0x400000⟩),
    (0x2#8 ++ 50#6 ++ 9#6 ++ 0#6 ++ 0#6, 5#3 ++ 1#1 ++ 13#4 ++ 0x1234#24, .vld ⟨50, 9, 0, 0, 5, true, 13, 0x1234⟩),
    (0x3#8 ++ 0#6 ++ 9#6 ++ 0#6 ++ 35#6, 5#3 ++ 1#1 ++ 13#4 ++ 0x1234#24, .vst ⟨0, 9, 0, 35, 5, true, 13, 0x1234⟩),
    (0x4#8 ++ 50#6 ++ 9#6 ++ 10#6 ++ 0#6, 5#3 ++ 1#1 ++ 13#4 ++ 0x1234#24, .vlds ⟨50, 9, 10, 0, 5, true, 13, 0x1234⟩),
    (0x5#8 ++ 0#6 ++ 9#6 ++ 10#6 ++ 35#6, 5#3 ++ 1#1 ++ 13#4 ++ 0x1234#24, .vsts ⟨0, 9, 10, 35, 5, true, 13, 0x1234⟩),
    (0x6#8 ++ 50#6 ++ 9#6 ++ 34#6 ++ 0#6, 5#3 ++ 1#1 ++ 13#4 ++ 0x123456#24, .vldx ⟨50, 9, 34, 0, 5, true, 13, 0x123456⟩),
    (0x7#8 ++ 9#6 ++ 9#6 ++ 34#6 ++ 35#6, 5#3 ++ 1#1 ++ 13#4 ++ 0xa0000#24, .vstx ⟨9, 9, 34, 35, 5, true, 13, 0xa0000⟩),
    (0x8#8 ++ 50#6 ++ 9#6 ++ 10#6 ++ 11#6, 0#3 ++ 0#1 ++ 13#4 ++ 0x12#24, .vldz ⟨50, 9, 10, 11, 0, false, 13, 0x12⟩),
    (0x9#8 ++ 50#6 ++ 9#6 ++ 34#6 ++ 4#6, 5#3 ++ 1#1 ++ 13#4 ++ 0x1234#24, .vgatherb ⟨50, 9, 34, 4, 5, true, 13, 0x1234⟩),
    (0xa#8 ++ 50#6 ++ 9#6 ++ 0#6 ++ 0#6, 0#3 ++ 0#1 ++ 13#4 ++ 0#24, .vbind ⟨50, 9, 0, 0, 0, false, 13, 0⟩),
    (0xb#8 ++ 50#6 ++ 0#6 ++ 0#6 ++ 0#6, 0#3 ++ 0#1 ++ 0#4 ++ 0#24, .vunbind ⟨50, 0, 0, 0, 0, false, 0, 0⟩),
    (0xc#8 ++ 0#6 ++ 0#6 ++ 0#6 ++ 0#6, 0#3 ++ 0#1 ++ 0#4 ++ 0x123456#24, .sbar ⟨0, 0, 0, 0, 0, false, 0, 0x123456⟩),
    (0xd#8 ++ 0#6 ++ 9#6 ++ 0#6 ++ 0#6, 0#3 ++ 0#1 ++ 0#4 ++ 0#24, .vcopy ⟨0, 9, 0, 0, 0, false, 0, 0⟩),
    (0xf#8 ++ 0#6 ++ 9#6 ++ 0#6 ++ 0#6, 0#3 ++ 0#1 ++ 0#4 ++ 0#24, .vsetmf ⟨0, 9, 0, 0, 0, false, 0, 0⟩),
    (0x10#8 ++ 50#6 ++ 9#6 ++ 34#6 ++ 35#6, 5#3 ++ 1#1 ++ 14#4 ++ 0xa0000#24, .vamo ⟨50, 9, 34, 35, 5, true, 14, 0xa0000⟩),
    (0x11#8 ++ 0#6 ++ 9#6 ++ 34#6 ++ 35#6, 5#3 ++ 1#1 ++ 0#4 ++ 0#24, .vredm ⟨0, 9, 34, 35, 5, true, 0, 0⟩),
    (0x12#8 ++ 0#6 ++ 9#6 ++ 10#6 ++ 0#6, 0#3 ++ 0#1 ++ 0#4 ++ 0#24, .vwin ⟨0, 9, 10, 0, 0, false, 0, 0⟩),
    (0x13#8 ++ 0#6 ++ 33#6 ++ 34#6 ++ 0#6, 5#3 ++ 1#1 ++ 0#4 ++ 0#24, .vacc ⟨0, 33, 34, 0, 5, true, 0, 0⟩),
    (0x14#8 ++ 0#6 ++ 9#6 ++ 0#6 ++ 0#6, 0#3 ++ 0#1 ++ 0#4 ++ 0x1234#24, .vmerge ⟨0, 9, 0, 0, 0, false, 0, 0x1234⟩),
    (0x15#8 ++ 50#6 ++ 33#6 ++ 0#6 ++ 0#6, 5#3 ++ 1#1 ++ 13#4 ++ 0x123#24, .vldl ⟨50, 33, 0, 0, 5, true, 13, 0x123⟩),
    (0x16#8 ++ 0#6 ++ 33#6 ++ 0#6 ++ 35#6, 5#3 ++ 1#1 ++ 13#4 ++ 0x123#24, .vstl ⟨0, 33, 0, 35, 5, true, 13, 0x123⟩),
    (0x17#8 ++ 0#6 ++ 9#6 ++ 34#6 ++ 0#6, 0#3 ++ 0#1 ++ 0#4 ++ 0x12#24, .vqpost ⟨0, 9, 34, 0, 0, false, 0, 0x12⟩)] : List (Parcel × Parcel × Instr)), decodeSequencer x.1 x.2.1 = x.2.2 := by decide +kernel

theorem test_decode_elementwise : ∀ x ∈ ([
    (0x20#8 ++ 50#6 ++ 33#6 ++ 0#6 ++ 0#6, 5#3 ++ 1#1 ++ 13#4 ++ 0x400000#24, .vadd ⟨50, 33, 0, 0, 5, true, 13, 0x400000⟩),
    (0x21#8 ++ 50#6 ++ 33#6 ++ 0#6 ++ 0#6, 5#3 ++ 1#1 ++ 13#4 ++ 0x400000#24, .vsub ⟨50, 33, 0, 0, 5, true, 13, 0x400000⟩),
    (0x22#8 ++ 50#6 ++ 33#6 ++ 0#6 ++ 0#6, 5#3 ++ 1#1 ++ 13#4 ++ 0x400000#24, .vmul ⟨50, 33, 0, 0, 5, true, 13, 0x400000⟩),
    (0x23#8 ++ 50#6 ++ 33#6 ++ 0#6 ++ 35#6, 5#3 ++ 1#1 ++ 13#4 ++ 0x400000#24, .vfma ⟨50, 33, 0, 35, 5, true, 13, 0x400000⟩),
    (0x24#8 ++ 50#6 ++ 33#6 ++ 0#6 ++ 35#6, 5#3 ++ 1#1 ++ 13#4 ++ 0x400000#24, .vfms ⟨50, 33, 0, 35, 5, true, 13, 0x400000⟩),
    (0x25#8 ++ 50#6 ++ 33#6 ++ 10#6 ++ 35#6, 5#3 ++ 1#1 ++ 2#4 ++ 0x300000#24, .vfnma ⟨50, 33, 10, 35, 5, true, 2, 0x300000⟩),
    (0x26#8 ++ 50#6 ++ 33#6 ++ 10#6 ++ 35#6, 5#3 ++ 1#1 ++ 2#4 ++ 0x300000#24, .vfnms ⟨50, 33, 10, 35, 5, true, 2, 0x300000⟩),
    (0x27#8 ++ 50#6 ++ 33#6 ++ 10#6 ++ 0#6, 5#3 ++ 1#1 ++ 2#4 ++ 0x300000#24, .vdiv ⟨50, 33, 10, 0, 5, true, 2, 0x300000⟩),
    (0x28#8 ++ 50#6 ++ 33#6 ++ 0#6 ++ 0#6, 5#3 ++ 1#1 ++ 13#4 ++ 0x400000#24, .vmin ⟨50, 33, 0, 0, 5, true, 13, 0x400000⟩),
    (0x29#8 ++ 50#6 ++ 33#6 ++ 0#6 ++ 0#6, 5#3 ++ 1#1 ++ 13#4 ++ 0x400000#24, .vmax ⟨50, 33, 0, 0, 5, true, 13, 0x400000⟩),
    (0x2a#8 ++ 50#6 ++ 33#6 ++ 0#6 ++ 0#6, 5#3 ++ 1#1 ++ 2#4 ++ 0#24, .vabs ⟨50, 33, 0, 0, 5, true, 2, 0⟩),
    (0x2b#8 ++ 50#6 ++ 33#6 ++ 0#6 ++ 0#6, 5#3 ++ 1#1 ++ 13#4 ++ 0#24, .vneg ⟨50, 33, 0, 0, 5, true, 13, 0⟩),
    (0x2c#8 ++ 50#6 ++ 33#6 ++ 0#6 ++ 0#6, 5#3 ++ 1#1 ++ 2#4 ++ 0#24, .vsqrt ⟨50, 33, 0, 0, 5, true, 2, 0⟩),
    (0x2d#8 ++ 50#6 ++ 33#6 ++ 0#6 ++ 0#6, 5#3 ++ 1#1 ++ 13#4 ++ 0x400000#24, .vmulh ⟨50, 33, 0, 0, 5, true, 13, 0x400000⟩),
    (0x2e#8 ++ 50#6 ++ 33#6 ++ 0#6 ++ 0#6, 5#3 ++ 1#1 ++ 13#4 ++ 0x400000#24, .vsadd ⟨50, 33, 0, 0, 5, true, 13, 0x400000⟩),
    (0x2f#8 ++ 50#6 ++ 33#6 ++ 0#6 ++ 0#6, 5#3 ++ 1#1 ++ 13#4 ++ 0x400000#24, .vssub ⟨50, 33, 0, 0, 5, true, 13, 0x400000⟩),
    (0x30#8 ++ 50#6 ++ 33#6 ++ 0#6 ++ 0#6, 5#3 ++ 1#1 ++ 13#4 ++ 0x400000#24, .vand ⟨50, 33, 0, 0, 5, true, 13, 0x400000⟩),
    (0x31#8 ++ 50#6 ++ 33#6 ++ 0#6 ++ 0#6, 5#3 ++ 1#1 ++ 13#4 ++ 0x400000#24, .vor ⟨50, 33, 0, 0, 5, true, 13, 0x400000⟩),
    (0x32#8 ++ 50#6 ++ 33#6 ++ 0#6 ++ 0#6, 5#3 ++ 1#1 ++ 13#4 ++ 0x400000#24, .vxor ⟨50, 33, 0, 0, 5, true, 13, 0x400000⟩),
    (0x33#8 ++ 50#6 ++ 33#6 ++ 0#6 ++ 0#6, 5#3 ++ 1#1 ++ 13#4 ++ 0x400000#24, .vshl ⟨50, 33, 0, 0, 5, true, 13, 0x400000⟩),
    (0x34#8 ++ 50#6 ++ 33#6 ++ 0#6 ++ 0#6, 5#3 ++ 1#1 ++ 13#4 ++ 0x400000#24, .vshr ⟨50, 33, 0, 0, 5, true, 13, 0x400000⟩),
    (0x35#8 ++ 50#6 ++ 33#6 ++ 0#6 ++ 0#6, 5#3 ++ 1#1 ++ 13#4 ++ 0#24, .vclz ⟨50, 33, 0, 0, 5, true, 13, 0⟩),
    (0x36#8 ++ 50#6 ++ 33#6 ++ 0#6 ++ 0#6, 5#3 ++ 1#1 ++ 13#4 ++ 0#24, .vpopc ⟨50, 33, 0, 0, 5, true, 13, 0⟩),
    (0x37#8 ++ 50#6 ++ 33#6 ++ 0#6 ++ 0#6, 5#3 ++ 1#1 ++ 13#4 ++ 9#24, .vcvt ⟨50, 33, 0, 0, 5, true, 13, 9⟩),
    (0x38#8 ++ 3#6 ++ 33#6 ++ 34#6 ++ 0#6, 5#3 ++ 1#1 ++ 13#4 ++ 0x20000#24, .vcmp ⟨3, 33, 34, 0, 5, true, 13, 0x20000⟩),
    (0x39#8 ++ 50#6 ++ 33#6 ++ 0#6 ++ 4#6, 5#3 ++ 1#1 ++ 13#4 ++ 0x400000#24, .vsel ⟨50, 33, 0, 4, 5, true, 13, 0x400000⟩),
    (0x3a#8 ++ 50#6 ++ 33#6 ++ 34#6 ++ 0#6, 5#3 ++ 1#1 ++ 0#4 ++ 1#24, .vcmul ⟨50, 33, 34, 0, 5, true, 0, 1⟩),
    (0x3b#8 ++ 50#6 ++ 33#6 ++ 34#6 ++ 35#6, 5#3 ++ 1#1 ++ 0#4 ++ 1#24, .vcmac ⟨50, 33, 34, 35, 5, true, 0, 1⟩),
    (0x3c#8 ++ 50#6 ++ 0#6 ++ 0#6 ++ 0#6, 5#3 ++ 1#1 ++ 13#4 ++ 0x400000#24, .vmov ⟨50, 0, 0, 0, 5, true, 13, 0x400000⟩)] : List (Parcel × Parcel × Instr)), decodeSequencer x.1 x.2.1 = x.2.2 := by decide +kernel

theorem test_decode_masks_and_permutes : ∀ x ∈ ([
    (0x40#8 ++ 3#6 ++ 5#6 ++ 4#6 ++ 0#6, 0#3 ++ 0#1 ++ 0#4 ++ 0#24, .vmand ⟨3, 5, 4, 0, 0, false, 0, 0⟩),
    (0x41#8 ++ 3#6 ++ 5#6 ++ 4#6 ++ 0#6, 0#3 ++ 0#1 ++ 0#4 ++ 0#24, .vmor ⟨3, 5, 4, 0, 0, false, 0, 0⟩),
    (0x42#8 ++ 3#6 ++ 5#6 ++ 4#6 ++ 0#6, 0#3 ++ 0#1 ++ 0#4 ++ 0#24, .vmxor ⟨3, 5, 4, 0, 0, false, 0, 0⟩),
    (0x43#8 ++ 3#6 ++ 5#6 ++ 4#6 ++ 0#6, 0#3 ++ 0#1 ++ 0#4 ++ 0#24, .vmandn ⟨3, 5, 4, 0, 0, false, 0, 0⟩),
    (0x44#8 ++ 9#6 ++ 5#6 ++ 0#6 ++ 0#6, 5#3 ++ 1#1 ++ 0#4 ++ 0#24, .vmpop ⟨9, 5, 0, 0, 5, true, 0, 0⟩),
    (0x45#8 ++ 9#6 ++ 5#6 ++ 0#6 ++ 0#6, 5#3 ++ 1#1 ++ 0#4 ++ 0#24, .vmfirst ⟨9, 5, 0, 0, 5, true, 0, 0⟩),
    (0x48#8 ++ 50#6 ++ 33#6 ++ 34#6 ++ 0#6, 5#3 ++ 1#1 ++ 13#4 ++ 0#24, .vperm ⟨50, 33, 34, 0, 5, true, 13, 0⟩),
    (0x49#8 ++ 50#6 ++ 33#6 ++ 0#6 ++ 0#6, 5#3 ++ 1#1 ++ 13#4 ++ 0x400000#24, .vslideup ⟨50, 33, 0, 0, 5, true, 13, 0x400000⟩),
    (0x4a#8 ++ 50#6 ++ 33#6 ++ 0#6 ++ 0#6, 5#3 ++ 1#1 ++ 13#4 ++ 0x400000#24, .vslidedn ⟨50, 33, 0, 0, 5, true, 13, 0x400000⟩),
    (0x4b#8 ++ 50#6 ++ 33#6 ++ 0#6 ++ 0#6, 5#3 ++ 1#1 ++ 13#4 ++ 0x400000#24, .vbcast ⟨50, 33, 0, 0, 5, true, 13, 0x400000⟩),
    (0x4c#8 ++ 50#6 ++ 33#6 ++ 0#6 ++ 0#6, 5#3 ++ 1#1 ++ 13#4 ++ 0#24, .vcompress ⟨50, 33, 0, 0, 5, true, 13, 0⟩),
    (0x4d#8 ++ 50#6 ++ 33#6 ++ 0#6 ++ 0#6, 5#3 ++ 1#1 ++ 13#4 ++ 0#24, .vexpand ⟨50, 33, 0, 0, 5, true, 13, 0⟩),
    (0x4e#8 ++ 50#6 ++ 33#6 ++ 34#6 ++ 0#6, 5#3 ++ 1#1 ++ 13#4 ++ 0#24, .vzip ⟨50, 33, 34, 0, 5, true, 13, 0⟩),
    (0x4f#8 ++ 50#6 ++ 33#6 ++ 34#6 ++ 0#6, 5#3 ++ 1#1 ++ 13#4 ++ 0#24, .vunzip ⟨50, 33, 34, 0, 5, true, 13, 0⟩),
    (0x50#8 ++ 50#6 ++ 33#6 ++ 10#6 ++ 0#6, 0#3 ++ 0#1 ++ 13#4 ++ 0#24, .vxchg ⟨50, 33, 10, 0, 0, false, 13, 0⟩),
    (0x51#8 ++ 50#6 ++ 33#6 ++ 0#6 ++ 0#6, 5#3 ++ 1#1 ++ 13#4 ++ 0x1234#24, .vredsum ⟨50, 33, 0, 0, 5, true, 13, 0x1234⟩),
    (0x52#8 ++ 50#6 ++ 33#6 ++ 0#6 ++ 0#6, 5#3 ++ 1#1 ++ 13#4 ++ 0x1234#24, .vredmax ⟨50, 33, 0, 0, 5, true, 13, 0x1234⟩),
    (0x53#8 ++ 50#6 ++ 33#6 ++ 0#6 ++ 0#6, 5#3 ++ 1#1 ++ 13#4 ++ 0x1234#24, .vredmin ⟨50, 33, 0, 0, 5, true, 13, 0x1234⟩),
    (0x54#8 ++ 50#6 ++ 33#6 ++ 0#6 ++ 0#6, 5#3 ++ 1#1 ++ 13#4 ++ 0x1234#24, .vredand ⟨50, 33, 0, 0, 5, true, 13, 0x1234⟩),
    (0x55#8 ++ 50#6 ++ 33#6 ++ 0#6 ++ 0#6, 5#3 ++ 1#1 ++ 13#4 ++ 0x1234#24, .vredor ⟨50, 33, 0, 0, 5, true, 13, 0x1234⟩),
    (0x56#8 ++ 50#6 ++ 33#6 ++ 0#6 ++ 0#6, 5#3 ++ 1#1 ++ 0#4 ++ 0x1234#24, .vrowstat ⟨50, 33, 0, 0, 5, true, 0, 0x1234⟩),
    (0x57#8 ++ 50#6 ++ 33#6 ++ 0#6 ++ 0#6, 5#3 ++ 1#1 ++ 0#4 ++ 0x12#24, .vfn ⟨50, 33, 0, 0, 5, true, 0, 0x12⟩),
    (0x58#8 ++ 0#6 ++ 9#6 ++ 10#6 ++ 0#6, 0#3 ++ 0#1 ++ 0#4 ++ 0x12#24, .vtblld ⟨0, 9, 10, 0, 0, false, 0, 0x12⟩),
    (0x59#8 ++ 50#6 ++ 9#6 ++ 0#6 ++ 0#6, 5#3 ++ 1#1 ++ 13#4 ++ 0#24, .vidx ⟨50, 9, 0, 0, 5, true, 13, 0⟩),
    (0x5a#8 ++ 9#6 ++ 33#6 ++ 10#6 ++ 0#6, 0#3 ++ 0#1 ++ 13#4 ++ 0#24, .vextw ⟨9, 33, 10, 0, 0, false, 13, 0⟩),
    (0x5b#8 ++ 50#6 ++ 9#6 ++ 10#6 ++ 0#6, 0#3 ++ 0#1 ++ 13#4 ++ 0#24, .vinsw ⟨50, 9, 10, 0, 0, false, 13, 0⟩)] : List (Parcel × Parcel × Instr)), decodeSequencer x.1 x.2.1 = x.2.2 := by decide +kernel

theorem test_decode_control : ∀ x ∈ ([
    (0x60#8 ++ 0#6 ++ 5#6 ++ 0#6 ++ 0#6, 0#3 ++ 0#1 ++ 0#4 ++ 0x123456#24, .vbany ⟨0, 5, 0, 0, 0, false, 0, 0x123456⟩),
    (0x61#8 ++ 0#6 ++ 5#6 ++ 0#6 ++ 0#6, 0#3 ++ 0#1 ++ 0#4 ++ 0x123456#24, .vball ⟨0, 5, 0, 0, 0, false, 0, 0x123456⟩),
    (0x62#8 ++ 0#6 ++ 5#6 ++ 0#6 ++ 0#6, 0#3 ++ 0#1 ++ 0#4 ++ 0x123456#24, .vbnone ⟨0, 5, 0, 0, 0, false, 0, 0x123456⟩),
    (0x63#8 ++ 0#6 ++ 5#6 ++ 0#6 ++ 0#6, 0#3 ++ 0#1 ++ 0#4 ++ 0x123456#24, .vbrD ⟨0, 5, 0, 0, 0, false, 0, 0x123456⟩),
    (0x64#8 ++ 0#6 ++ 0#6 ++ 0#6 ++ 0#6, 0#3 ++ 0#1 ++ 0#4 ++ 0#24, .vjoin ⟨0, 0, 0, 0, 0, false, 0, 0⟩),
    (0x65#8 ++ 0#6 ++ 9#6 ++ 10#6 ++ 0#6, 0#3 ++ 0#1 ++ 0#4 ++ 0x123456#24, .vjmp ⟨0, 9, 10, 0, 0, false, 0, 0x123456⟩),
    (0x66#8 ++ 3#6 ++ 9#6 ++ 0#6 ++ 0#6, 0#3 ++ 0#1 ++ 0#4 ++ 0x123456#24, .vloop ⟨3, 9, 0, 0, 0, false, 0, 0x123456⟩),
    (0x67#8 ++ 3#6 ++ 0#6 ++ 0#6 ++ 0#6, 0#3 ++ 0#1 ++ 0#4 ++ 0x123456#24, .vendlp ⟨3, 0, 0, 0, 0, false, 0, 0x123456⟩),
    (0x68#8 ++ 0#6 ++ 0#6 ++ 0#6 ++ 0#6, 0#3 ++ 0#1 ++ 0#4 ++ 0#24, .vend ⟨0, 0, 0, 0, 0, false, 0, 0⟩),
    (0x69#8 ++ 0#6 ++ 9#6 ++ 0#6 ++ 0#6, 0#3 ++ 0#1 ++ 0#4 ++ 0#24, .vpostr ⟨0, 9, 0, 0, 0, false, 0, 0⟩),
    (0x6a#8 ++ 9#6 ++ 9#6 ++ 10#6 ++ 0#6, 0#3 ++ 0#1 ++ 0#4 ++ 0#24, .vwaluAdd ⟨9, 9, 10, 0, 0, false, 0, 0⟩),
    (0x6a#8 ++ 9#6 ++ 9#6 ++ 10#6 ++ 0#6, 0#3 ++ 0#1 ++ 0#4 ++ 0x80000#24, .vwaluSub ⟨9, 9, 10, 0, 0, false, 0, 0x80000⟩),
    (0x6a#8 ++ 9#6 ++ 9#6 ++ 10#6 ++ 0#6, 0#3 ++ 0#1 ++ 0#4 ++ 0x100000#24, .vwaluAnd ⟨9, 9, 10, 0, 0, false, 0, 0x100000⟩),
    (0x6a#8 ++ 9#6 ++ 9#6 ++ 10#6 ++ 0#6, 0#3 ++ 0#1 ++ 0#4 ++ 0x180000#24, .vwaluOr ⟨9, 9, 10, 0, 0, false, 0, 0x180000⟩),
    (0x6a#8 ++ 9#6 ++ 9#6 ++ 10#6 ++ 0#6, 0#3 ++ 0#1 ++ 0#4 ++ 0x200000#24, .vwaluXor ⟨9, 9, 10, 0, 0, false, 0, 0x200000⟩),
    (0x6a#8 ++ 9#6 ++ 9#6 ++ 10#6 ++ 0#6, 0#3 ++ 0#1 ++ 0#4 ++ 0x280000#24, .vwaluSll ⟨9, 9, 10, 0, 0, false, 0, 0x280000⟩),
    (0x6a#8 ++ 9#6 ++ 9#6 ++ 10#6 ++ 0#6, 0#3 ++ 0#1 ++ 0#4 ++ 0x300000#24, .vwaluSrl ⟨9, 9, 10, 0, 0, false, 0, 0x300000⟩),
    (0x6a#8 ++ 9#6 ++ 9#6 ++ 10#6 ++ 0#6, 0#3 ++ 0#1 ++ 0#4 ++ 0x380000#24, .vwaluSra ⟨9, 9, 10, 0, 0, false, 0, 0x380000⟩),
    (0x6a#8 ++ 9#6 ++ 9#6 ++ 10#6 ++ 0#6, 0#3 ++ 0#1 ++ 0#4 ++ 0x400000#24, .vwaluSlt ⟨9, 9, 10, 0, 0, false, 0, 0x400000⟩),
    (0x6a#8 ++ 9#6 ++ 9#6 ++ 10#6 ++ 0#6, 0#3 ++ 0#1 ++ 0#4 ++ 0x480000#24, .vwaluSltu ⟨9, 9, 10, 0, 0, false, 0, 0x480000⟩),
    (0x6a#8 ++ 9#6 ++ 9#6 ++ 10#6 ++ 0#6, 0#3 ++ 0#1 ++ 0#4 ++ 0x500000#24, .vwaluMul ⟨9, 9, 10, 0, 0, false, 0, 0x500000⟩),
    (0x6a#8 ++ 9#6 ++ 9#6 ++ 10#6 ++ 0#6, 0#3 ++ 0#1 ++ 0#4 ++ 0x580000#24, .vwaluMin ⟨9, 9, 10, 0, 0, false, 0, 0x580000⟩),
    (0x6a#8 ++ 9#6 ++ 9#6 ++ 10#6 ++ 0#6, 0#3 ++ 0#1 ++ 0#4 ++ 0x600000#24, .vwaluMax ⟨9, 9, 10, 0, 0, false, 0, 0x600000⟩),
    (0x6a#8 ++ 9#6 ++ 9#6 ++ 10#6 ++ 0#6, 0#3 ++ 0#1 ++ 0#4 ++ 0x680000#24, .vwaluMinu ⟨9, 9, 10, 0, 0, false, 0, 0x680000⟩),
    (0x6a#8 ++ 9#6 ++ 9#6 ++ 10#6 ++ 0#6, 0#3 ++ 0#1 ++ 0#4 ++ 0x700000#24, .vwaluMaxu ⟨9, 9, 10, 0, 0, false, 0, 0x700000⟩),
    (0x6a#8 ++ 9#6 ++ 3#6 ++ 0#6 ++ 0#6, 0#3 ++ 0#1 ++ 0#4 ++ 0x780000#24, .vwaluRlc ⟨9, 3, 0, 0, 0, false, 0, 0x780000⟩),
    (0x6a#8 ++ 9#6 ++ 0#6 ++ 0#6 ++ 0#6, 0#3 ++ 0#1 ++ 0#4 ++ 0x800000#24, .vwaluRvl ⟨9, 0, 0, 0, 0, false, 0, 0x800000⟩),
    (0x6a#8 ++ 9#6 ++ 0#6 ++ 0#6 ++ 0#6, 0#3 ++ 0#1 ++ 0#4 ++ 0x880000#24, .vwaluRssn ⟨9, 0, 0, 0, 0, false, 0, 0x880000⟩),
    (0x6b#8 ++ 9#6 ++ 0#6 ++ 0#6 ++ 0#6, 0#3 ++ 0#1 ++ 0#4 ++ 0x123456#24, .vwli ⟨9, 0, 0, 0, 0, false, 0, 0x123456⟩)] : List (Parcel × Parcel × Instr)), decodeSequencer x.1 x.2.1 = x.2.2 := by decide +kernel

theorem test_decode_array_and_slate : ∀ x ∈ ([
    (0x80#8 ++ 0#6 ++ 0#6 ++ 0#6 ++ 0#6, 0#3 ++ 0#1 ++ 0#4 ++ 1#24, .vmodeArr ⟨0, 0, 0, 0, 0, false, 0, 1⟩),
    (0x80#8 ++ 0#6 ++ 0#6 ++ 0#6 ++ 0#6, 0#3 ++ 0#1 ++ 0#4 ++ 0#24, .vmodeVec ⟨0, 0, 0, 0, 0, false, 0, 0⟩),
    (0x81#8 ++ 0#6 ++ 33#6 ++ 34#6 ++ 35#6, 0#3 ++ 0#1 ++ 13#4 ++ 1#24, .moxa ⟨0, 33, 34, 35, 0, false, 13, 1⟩),
    (0x82#8 ++ 0#6 ++ 33#6 ++ 34#6 ++ 35#6, 0#3 ++ 0#1 ++ 13#4 ++ 1#24, .moxs ⟨0, 33, 34, 35, 0, false, 13, 1⟩),
    (0x83#8 ++ 0#6 ++ 8#6 ++ 0#6 ++ 0#6, 0#3 ++ 0#1 ++ 13#4 ++ 0#24, .mldw ⟨0, 8, 0, 0, 0, false, 13, 0⟩),
    (0x84#8 ++ 50#6 ++ 33#6 ++ 0#6 ++ 35#6, 0#3 ++ 0#1 ++ 13#4 ++ 3#24, .mpass ⟨50, 33, 0, 35, 0, false, 13, 3⟩),
    (0x85#8 ++ 0#6 ++ 8#6 ++ 0#6 ++ 0#6, 0#3 ++ 0#1 ++ 0#4 ++ 1#24, .mwb ⟨0, 8, 0, 0, 0, false, 0, 1⟩),
    (0x86#8 ++ 50#6 ++ 0#6 ++ 34#6 ++ 0#6, 0#3 ++ 0#1 ++ 13#4 ++ 5#24, .mwbQ ⟨50, 0, 34, 0, 0, false, 13, 5⟩),
    (0x87#8 ++ 50#6 ++ 9#6 ++ 10#6 ++ 11#6, 0#3 ++ 0#1 ++ 13#4 ++ 0x400000#24, .mldt ⟨50, 9, 10, 11, 0, false, 13, 0x400000⟩),
    (0x88#8 ++ 0#6 ++ 0#6 ++ 0#6 ++ 0#6, 0#3 ++ 0#1 ++ 0#4 ++ 0#24, .vtrn8 ⟨0, 0, 0, 0, 0, false, 0, 0⟩),
    (0x89#8 ++ 0#6 ++ 9#6 ++ 0#6 ++ 0#6, 0#3 ++ 0#1 ++ 0#4 ++ 0#24, .mchain ⟨0, 9, 0, 0, 0, false, 0, 0⟩),
    (0x90#8 ++ 9#6 ++ 9#6 ++ 0#6 ++ 0#6, 0#3 ++ 0#1 ++ 0#4 ++ 5#24, .sload ⟨9, 9, 0, 0, 0, false, 0, 5⟩),
    (0x91#8 ++ 0#6 ++ 0#6 ++ 0#6 ++ 0#6, 0#3 ++ 0#1 ++ 0#4 ++ 5#24, .sfree ⟨0, 0, 0, 0, 0, false, 0, 5⟩),
    (0x93#8 ++ 9#6 ++ 0#6 ++ 0#6 ++ 0#6, 0#3 ++ 0#1 ++ 0#4 ++ 0#24, .squery ⟨9, 0, 0, 0, 0, false, 0, 0⟩),
    (0x92#8 ++ 50#6 ++ 33#6 ++ 34#6 ++ 35#6, 5#3 ++ 1#1 ++ 13#4 ++ 9#24, .xop ⟨50, 33, 34, 35, 5, true, 13, 9⟩),
    (0x94#8 ++ 9#6 ++ 9#6 ++ 10#6 ++ 11#6, 0#3 ++ 0#1 ++ 0#4 ++ 0x123#24, .sstart ⟨9, 9, 10, 11, 0, false, 0, 0x123⟩)] : List (Parcel × Parcel × Instr)), decodeSequencer x.1 x.2.1 = x.2.2 := by decide +kernel

/-! One step each, on the small machine; the results are worked out by hand from the chapters. -/

/-- What is seen of the next state after one instruction of a control thread with these registers, over these bytes. -/
noncomputable def seen {α : Type} (i : Instr) (gs : List (BitVec 5 × Nat)) (bs : List Host.Cell) (f : State → α) : Option α :=
  match exec i (rig (.thread 0) (scalarThread gs) bs) with
  | .next s => some (f s)
  | _ => none

def gOf (r : BitVec 5) (s : State) : Option Nat := (s.thread 0).map (fun t => (t.ctx.rd r).toNat)
def pcOf (s : State) : Option Nat := (s.thread 0).map (fun t => t.ctx.pc.toNat)
def flagsOf (s : State) : Option Nat := (s.thread 0).map (fun t => t.ctx.fflags.toNat)

/-- 11 R169: modulo 2^64, a source also the destination. -/
theorem test_add_wraps : seen (.add 1 1 2) [(1, 2 ^ 64 - 1), (2, 2)] [] (gOf 1) = some (some 1) := by decide +kernel
/-- 11 R169: the divisor zero, and −2^63 by −1. -/
theorem test_div_by_zero : seen (.div 3 1 0) [(1, 5)] [] (gOf 3) = some (some (2 ^ 64 - 1)) := by decide +kernel
theorem test_rem_overflow : seen (.rem 3 1 2) [(1, 2 ^ 63), (2, 2 ^ 64 - 1)] [] (gOf 3) = some (some 0) := by decide +kernel
/-- 11 R169: signed high product, −1 times −1. -/
theorem test_mulh_signs : seen (.mulh 3 1 2) [(1, 2 ^ 64 - 1), (2, 2 ^ 64 - 1)] [] (gOf 3) = some (some 0) := by decide +kernel
/-- 00 R8: g0 discards what is written to it. -/
theorem test_zero_register : seen (.addi 0 1 7) [(1, 5)] [] (gOf 0) = some (some 0) := by decide +kernel
/-- 11 R172: a byte is sign-extended by LB, zero-extended by LBU. -/
theorem test_lb_sign : seen (.lb 3 1 0xFFFF) [(1, dataVa + 1)] [(0x210000, 0x80)] (gOf 3) = some (some 0xFFFFFFFFFFFFFF80) := by decide +kernel
theorem test_lbu_zero : seen (.lbu 3 1 0) [(1, dataVa)] [(0x210000, 0x80)] (gOf 3) = some (some 0x80) := by decide +kernel
/-- 11 R172, 00 R4: the lower byte lies at the lower address, and nothing lies after the second. -/
theorem test_sh_order : seen (.sh 2 1 0) [(1, dataVa), (2, 0x11223344)] [(0x210002, 0x99)] (fun s => [byteOf s 0x210000, byteOf s 0x210001, byteOf s 0x210002])
    = some [0x44, 0x33, 0x99] := by decide +kernel
/-- 11 R174: the offset counts parcels, backwards where it is negative. -/
theorem test_bltu_backwards : seen (.bltu 1 2 0xFFFE) [(1, 1), (2, 2 ^ 63)] [] pcOf = some (some (codeVa - 8)) := by decide +kernel
theorem test_blt_signs : seen (.blt 1 2 0xFFFE) [(1, 1), (2, 2 ^ 63)] [] pcOf = some (some (codeVa + 4)) := by decide +kernel
/-- 11 R175: the link is the next parcel's address, and rs1 is read before rd is written. -/
theorem test_jalr_link : seen (.jalr 1 1 8) [(1, codeVa + 0x100)] [] (fun s => (gOf 1 s, pcOf s)) = some (some (codeVa + 4), some (codeVa + 0x108)) := by decide +kernel
/-- 11 R177, 05 R76: one third in f32, to nearest, inexact. -/
theorem test_fdiv_third : seen (.fdiv 3 1 2 0) [(1, 0x3F800000), (2, 0x40400000)] [] (gOf 3) = some (some 0x3EAAAAAB) := by decide +kernel
/-- 11 R177: a finite number by zero is an infinity. -/
theorem test_fdiv_by_zero : seen (.fdiv 3 1 2 0) [(1, 0xBF800000), (2, 0)] [] (gOf 3) = some (some 0xFF800000) := by decide +kernel
/-- 11 R180: the old word is sign-extended, the sum wraps in 4 bytes, and the bytes after them stay. -/
theorem test_amoadd_word : seen (.amoadd 3 1 2 1 3 2) [(1, dataVa), (2, 1)] ((List.range 5).map (fun k => (0x210000 + k, 0xFF)))
    (fun s => (gOf 3 s, [byteOf s 0x210000, byteOf s 0x210003, byteOf s 0x210004])) = some (some (2 ^ 64 - 1), [0, 0, 0xFF]) := by decide +kernel
/-- 11 R180: a compare that fails writes nothing. -/
theorem test_amocas_fails : seen (.amocas 3 1 2 1 3 2) [(1, dataVa), (2, 7), (3, 1)] [(0x210000, 2)] (fun s => (gOf 3 s, byteOf s 0x210000)) = some (some 2, 2) := by
  decide +kernel

/-- The same of a vector instruction: VL elements, vector registers by their cells, w registers. -/
noncomputable def seenVec {α : Type} (i : Instr) (n : Nat) (ws : List (Nat × Nat)) (cells : Sparse 256) (f : State → α) : Option α :=
  let s := vrig (withVl n ws)
  match exec i { s with lanes := { s.lanes with vregs := cells } } with
  | .next s => some (f s)
  | _ => none

/-- Register r, element e of width w. -/
def element (r w e : Nat) (s : State) : Option Nat := (vctx s 0).map (fun v => v.get s r w e)
def wOf (r : BitVec 6) (s : State) : Option Nat := (vctx s 0).map (fun v => (v.w r).toNat)

/-- 15 R236: an 8-bit sum wraps in its element; 03 R38: element 1 lies in the next lane. -/
theorem test_vadd_bytes : seenVec (.vadd ⟨1, 2, 3, 0, 0, false, 9, 0⟩) 2 [] [(vregKey 0 2 0, 0xFF), (vregKey 0 2 1, 1), (vregKey 0 3 0, 2), (vregKey 0 3 1, 3)]
    (fun s => [element 1 8 0 s, element 1 8 1 s]) = some [some 1, some 4] := by decide +kernel
/-- 15 R234: an immediate of a signed type is sign-extended. -/
theorem test_vadd_immediate : seenVec (.vadd ⟨1, 2, 0, 0, 0, false, 14, 0xC0FFFF⟩) 1 [] [(vregKey 0 2 0, 5)] (element 1 32 0) = some (some 4) := by decide +kernel
/-- 15 R249: a sum over rows of two, the last row shorter. -/
theorem test_vredsum_rows : seenVec (.vredsum ⟨1, 2, 0, 0, 0, false, 14, 2⟩) 3 [] [(vregKey 0 2 0, 1), (vregKey 0 2 1, 2), (vregKey 0 2 2, 4)]
    (fun s => [element 1 32 0 s, element 1 32 1 s]) = some [some 3, some 4] := by decide +kernel
/-- 15 R244: the top half moves down. -/
theorem test_vslidedn : seenVec (.vslidedn ⟨1, 2, 0, 0, 0, false, 14, 0x400001⟩) 2 [] [(vregKey 0 2 0, 1), (vregKey 0 2 1, 2)] (element 1 32 0) = some (some 2) := by
  decide +kernel
/-- 15 R260: MIN compares signed, MINU unsigned. -/
theorem test_vwalu_min : seenVec (.vwaluMin ⟨1, 2, 3, 0, 0, false, 0, 0x580000⟩) 1 [(2, 1), (3, 2 ^ 64 - 1)] [] (wOf 1) = some (some (2 ^ 64 - 1)) := by decide +kernel
theorem test_vwalu_minu : seenVec (.vwaluMinu ⟨1, 2, 3, 0, 0, false, 0, 0x680000⟩) 1 [(2, 1), (3, 2 ^ 64 - 1)] [] (wOf 1) = some (some 1) := by decide +kernel
/-- 15 R261: the 24-bit immediate is sign-extended. -/
theorem test_vwli_sign : seenVec (.vwli ⟨1, 0, 0, 0, 0, false, 0, 0xFFFFFE⟩) 1 [] [] (wOf 1) = some (some (2 ^ 64 - 2)) := by decide +kernel
/-- 15 R242: the count of the elements at which the mask is 1, over VL only. -/
theorem test_vmpop_length : (let s := vrig (withVl 2)
    match exec (.vmpop ⟨1, 2, 0, 0, 0, false, 0, 0⟩) { s with lanes := { s.lanes with masks := [(maskKey 0 2 0, 1), (maskKey 0 2 1, 1), (maskKey 0 2 2, 1)] } } with
    | .next s => wOf 1 s
    | _ => none) = some 2 := by decide +kernel

/-- 09 R148, R150, R151: a convoy header, a microcode-defined opcode, and words that no table defines. -/
theorem test_decode_others : decodeSequencer (0xFC#8 ++ 3#3 ++ 0#3 ++ 2#3 ++ 4#3 ++ 0#9 ++ 0#3) 0 = .convoy 3 0 2 4 0 0 0
    ∧ decodeSequencer (0xEF#8 ++ 0x123456#24) 0x89ABCDEF = .microcodeOpcode 15 ⟨0x04, 0x23, 0x11, 0x16, 4, false, 9, 0xABCDEF⟩
    ∧ decodeSequencer 0xFC400001 0 = .undefinedEncoding 0xFC400001 0 ∧ decodeSequencer 0x0E000000 5 = .undefinedEncoding 0x0E000000 5
    ∧ decodeThread (1#6 ++ 4#5 ++ 5#5 ++ 6#5 ++ 0x18#11) = .undefinedEncoding (1#6 ++ 4#5 ++ 5#5 ++ 6#5 ++ 0x18#11) 0 := by
  decide +kernel

/-- FIPS 180-4's digest of the empty message, and SipHash-2-4 of the bytes 0 to 127 under the key 0 to 15, by an implementation that
meets its authors' test vectors (07 R118, 25 R408). -/
theorem test_sha384 : beValue (sha384 []) = 0x38B060A751AC96384CD9327EB1B1E36A21FDB71114BE07434C0CC7BF63F6E1DA274EDEBFE76F65FBD51AD2F14898B95B := by
  decide +kernel
theorem test_siphash : sipHash 0x0F0E0D0C0B0A09080706050403020100 ((List.range 128).map (BitVec.ofNat 8)) = 0xDEB79E256C8736AE := by decide +kernel

/-- One statement, a[i + 1] = a[i] + 5 for i from 0 to 2, in the order of its points (25 R413): 1 becomes 6, 11, 16. -/
def stepNest : Nests :=
  { arrays := [⟨14, 1, 1, 0, [⟨[], [0], 4⟩]⟩], sets := [⟨1, [(false, ⟨[1], [0], 0⟩), (false, ⟨[-1], [0], 2⟩)]⟩]
    maps := [⟨1, 1, [⟨[1], [0], 0⟩]⟩, ⟨1, 1, [⟨[1], [0], 1⟩]⟩]
    statements := [⟨0, [⟨0, 0, false, 0⟩, ⟨0, 1, true, 2⟩], [⟨21, 14, 1, 0, 0, false, 0, 0, 0, 5⟩, ⟨1, 14, 1, 0, 0, false, 0, 1, 0, 0⟩]⟩]
    nodes := [⟨4, 0, 0, 0, 0, 0⟩], roots := [0] }
theorem test_nest_order : (let m := runNests stepNest 0 [0x100] (fun _ => 0) [(0x100, 1)]
    [readNat m 0x104 4, readNat m 0x108 4, readNat m 0x10C 4, readNat m 0x110 4]) = [6, 11, 16, 0] := by decide +kernel

/-- 25 R391, R397, R400: a ring register, an offset that no register has, and the SEQ of window entry 1 where FIRST is 6. -/
theorem test_bar0 : (let j : JournalEntry := { seq := 7, cmd := default, state := 3, det := 0, src := 0, result := 0, tacc := 0, tend := 0 }
    let s := hostRig (fun h => { h with node := 0x7FF, jwin := 6, jvalid := true, journal := [(7, j)] })
    [bar0Read s 0x10, bar0Read s 0x48, bar0Read s 0x10000, bar0Read s 0x10040]) = [some 0x1000, some 0, some 0, some 7] := by decide +kernel

end Sys2Proof.Tests
end

section
/-! SUPPORT. What each device register reads (25 R379), for statements about reset, bring-up, heat and ports. -/

namespace Sys2Proof.Proofs

open Sys2Proof.Machine Sys2Proof.Safety

/-- PDL of a die (23 R353). -/
theorem readDevice_pdl (s : State) {d : Nat} (h : d < 4) :
    readDevice s (d * 0x10000000) = some (w64 (s.sched.pdl[d]).toNat) := by
  have hlt : d * 0x10000000 < 0x40000000 := by omega
  simp [readDevice, hlt, h]

/-- FLVL of a die (25 R380). -/
theorem readDevice_flvl (s : State) {d : Nat} (h : d < 4) : readDevice s (d * 0x10000000 + 8) = some (flvlOf s d) := by
  have hlt : d * 0x10000000 + 8 < 0x40000000 := by omega
  have hdiv : (d * 0x10000000 + 8) / 0x10000000 = d := by omega
  have hmod : (d * 0x10000000 + 8) % 0x10000000 = 8 := by omega
  simp [readDevice, hlt, hdiv, hmod, h]

/-- PXFRAME of a Proctor core (25 R378). -/
theorem readDevice_pxframe (s : State) {k : Nat} (h : k < 16) :
    readDevice s (0x40000000 + 16 * k) = (s.pcore k).map ProctorCore.pxframe := by
  have hge : ¬ 0x40000000 + 16 * k < 0x40000000 := by omega
  have hin : 0x40000000 + 16 * k < 0x40000100 := by omega
  have h8 : (0x40000000 + 16 * k) % 8 = 0 := by omega
  have h16 : (0x40000000 + 16 * k) % 16 = 0 := by omega
  simp [readDevice, hge, hin, h8, h16]

/-- PXHAND of a Proctor core (25 R378). -/
theorem readDevice_pxhand (s : State) {k : Nat} (h : k < 16) :
    readDevice s (0x40000008 + 16 * k) = (s.pcore k).map ProctorCore.pxhand := by
  have hge : ¬ 0x40000008 + 16 * k < 0x40000000 := by omega
  have hle : 0x40000000 ≤ 0x40000008 + 16 * k := by omega
  have hin : 0x40000008 + 16 * k < 0x40000100 := by omega
  have h8 : (0x40000008 + 16 * k) % 8 = 0 := by omega
  have h16 : (0x40000008 + 16 * k) % 16 = 8 := by omega
  have hdiv : (0x40000008 + 16 * k - 0x40000000) / 16 = k := by omega
  simp [readDevice, hge, hle, hin, h8, h16, hdiv]

/-- LSTAT of a port (25 R380). -/
theorem lstatReads_eq (s : State) {p : Nat} (h : p < 24) : lstatReads s p = some (lstatOf s.host.ports[p]) := by
  have hge : ¬ 0x40100000 + 8 * p < 0x40000000 := by omega
  have hout : ¬ 0x40100000 + 8 * p < 0x40000100 := by omega
  have hin : 0x40100000 + 8 * p < 0x401000C0 := by omega
  have h8 : (0x40100000 + 8 * p) % 8 = 0 := by omega
  simp [lstatReads, readDevice, hge, hout, hin, h8, h]

/-- A junction sensor's register reads its entry of the sensors' table (25 R379). -/
theorem readDevice_sensor (s : State) (r : SensorReading) (hd : r.die < 5) (hs : r.sensor < 8) :
    readDevice s (sensorRegister r) = some (w64 ((tableGet (sensorKey r) s.proctor.sensors).getD 0).toNat) := by
  by_cases hub : r.die < 4
  · have hlt : r.die * 0x10000000 + 0x10 + 8 * r.sensor < 0x40000000 := by omega
    have hdiv : (r.die * 0x10000000 + 0x10 + 8 * r.sensor) / 0x10000000 = r.die := by omega
    have hmod : (r.die * 0x10000000 + 0x10 + 8 * r.sensor) % 0x10000000 = 0x10 + 8 * r.sensor := by omega
    have h0 : 0x10 + 8 * r.sensor ≠ 0 := by omega
    have h8 : 0x10 + 8 * r.sensor ≠ 8 := by omega
    have hin : 0x10 + 8 * r.sensor < 0x50 := by omega
    have hm : (0x10 + 8 * r.sensor) % 8 = 0 := by omega
    simp [readDevice, sensorRegister, sensorKey, hub, hlt, hdiv, hmod, h8, hin, hm]
  · have hdie : r.die = 4 := by omega
    have hge : ¬ 0x40200010 + 8 * r.sensor < 0x40000000 := by omega
    have hp : ¬ 0x40200010 + 8 * r.sensor < 0x40000100 := by omega
    have hl : ¬ 0x40200010 + 8 * r.sensor < 0x401000C0 := by omega
    have hn : 0x40200010 + 8 * r.sensor ≠ 0x40200000 := by omega
    have hb : 0x40200010 + 8 * r.sensor ≠ 0x40200008 := by omega
    have hin : 0x40200010 + 8 * r.sensor < 0x40200050 := by omega
    have hm : (0x40200010 + 8 * r.sensor) % 8 = 0 := by omega
    simp [readDevice, sensorRegister, sensorKey, hdie, hge, hp, hl, hn, hb, hin, hm]

theorem readDevice_nodeid (s : State) : readDevice s 0x40200000 = some (nodeidOf s) := rfl

theorem readDevice_bstat (s : State) : readDevice s 0x40200008 = some (bstatOf s) := rfl

/-- Without marks, granules and tags no unit is poisoned (07 R130). -/
theorem poisonAt_reset (a n : Nat) : poisonAt State.reset.sys a n = none := by
  have line : ∀ us : List Nat, us.find? (linePoisoned State.reset.sys) = none := fun us => by
    simp [linePoisoned, tagOf, State.reset, MemSys.reset, tableGet]
  have granule : ∀ us : List Nat, us.find? (fun u => cellGet State.reset.sys.granules u == gPoison) = none := fun us => by
    simp [cellGet, State.reset, MemSys.reset, tableGet, gPoison]
  unfold poisonAt
  cases physKind a
  case hbm => simp only [line]
  case scratch => simp only [granule]
  all_goals rfl

/-- PXFRAME and PXHAND read zero before bring-up (25 R378, log 3). -/
theorem readDevice_proctorRegister_reset {k : Nat} (h : k < 32) : readDevice State.reset (0x40000000 + 8 * k) = some 0 := by
  have core : ∀ j, j < 16 → State.reset.pcore j = some .reset := fun j hj => by
    simp [State.pcore, hj, State.reset, Proctor.reset]
  obtain ⟨j, e | e⟩ : ∃ j, k = 2 * j ∨ k = 2 * j + 1 := ⟨k / 2, by omega⟩
  · have hj : j < 16 := by omega
    rw [show 0x40000000 + 8 * k = 0x40000000 + 16 * j by omega, readDevice_pxframe _ hj, core j hj]; rfl
  · have hj : j < 16 := by omega
    rw [show 0x40000000 + 8 * k = 0x40000008 + 16 * j by omega, readDevice_pxhand _ hj, core j hj]; rfl

theorem lstatReads_reset {p : Nat} (h : p < 24) : lstatReads State.reset p = some 0xFFFF00000000 := by
  rw [lstatReads_eq _ h]
  simp [State.reset, HostSys.reset, LinkPort.reset, lstatOf, w64]

theorem dieRegisters_reset {d : Nat} (h : d < 4) :
    readDevice State.reset (d * 0x10000000) = some 0xA410 ∧ readDevice State.reset (d * 0x10000000 + 8) = some 0 := by
  rw [readDevice_pdl _ h, readDevice_flvl _ h]
  simp [State.reset, Proctor.reset, Microcode.reset, flvlOf, w64, h]

/-- Settles O60: every table is empty after reset, and each device register reads through its own equation. -/
theorem resetState : Obligations.ResetState := by
  unfold Obligations.ResetState
  refine ⟨rfl, rfl, fun _ => rfl, fun a n _ => poisonAt_reset a n, fun _ => rfl, fun _ => rfl, rfl, fun _ => rfl,
    fun _ => ⟨rfl, rfl⟩, fun d hd => dieRegisters_reset hd, fun k hk => readDevice_proctorRegister_reset hk,
    fun p hp => lstatReads_reset hp, ?_, ?_, ?_, rfl, rfl, rfl, rfl, rfl, rfl, rfl⟩
  · rw [readDevice_nodeid]; rfl
  · rw [readDevice_bstat]; rfl
  · intro i; simp [State.reset]

end Sys2Proof.Proofs
end

section
/-! SUPPORT. Interrupts of the host port, machine checks and records, for statements about the module (23 R371, 25 R393). -/

namespace Sys2Proof.Proofs

open Sys2Proof.Machine Sys2Proof.Safety

theorem serves_iff (h : HostSys) : h.serves = true ↔ Serves h := by simp [HostSys.serves, Serves]

theorem signalled_nil (h : HostSys) : Signalled h h [] := ⟨rfl, fun _ => (List.append_nil _).symm, fun _ => rfl⟩

theorem signalled_trans {a b c : HostSys} {vs ws : List Nat} (h : Signalled a b vs) (k : Signalled b c ws) :
    Signalled a c (vs ++ ws) := by
  obtain ⟨hrest, hon, hoff⟩ := h
  obtain ⟨krest, kon, koff⟩ := k
  have same : Serves b ↔ Serves a := by rw [← hrest]; rfl
  refine ⟨?_, fun ha => ?_, fun ha => ?_⟩
  · calc { c with msix := a.msix } = { ({ c with msix := b.msix } : HostSys) with msix := a.msix } := rfl
      _ = a := by rw [krest, hrest]
  · rw [kon (same.2 ha), hon ha, List.append_assoc]
  · rw [koff (fun hb => ha (same.1 hb)), hoff ha]

theorem signalled_signal (s : State) (v : Nat) : Signalled s.host (s.signal v).host [v] :=
  ⟨rfl, fun h => if_pos ((serves_iff _).2 h), fun h => if_neg (fun e => h ((serves_iff _).1 e))⟩

@[simp] theorem logRecord_checks (s : State) (typ : Nat) (inj : Bool) (pa unit die clu core : Nat) (tag : Word) :
    (s.logRecord typ inj pa unit die clu core tag).proctor.checks = s.proctor.checks := by
  simp only [State.logRecord]; split <;> rfl

@[simp] theorem logRecord_sensors (s : State) (typ : Nat) (inj : Bool) (pa unit die clu core : Nat) (tag : Word) :
    (s.logRecord typ inj pa unit die clu core tag).proctor.sensors = s.proctor.sensors := by
  simp only [State.logRecord]; split <;> rfl

theorem recordWords_eq_recordOf (kind : Nat) (vec ends shd : Bool) (tid edie : Nat) (pc vcp ssn : Word) (lnum : Nat) (cyc : Word)
    (d : List Word) :
    recordWords kind vec ends shd (coordBits tid) edie pc vcp ssn lnum cyc d
      = recordOf kind vec ends shd tid edie pc vcp ssn lnum cyc d := by
  have tail : (d ++ List.replicate 10 0#64).take 10 = (List.range 10).map (fun k => d.getD k 0) := by
    apply List.ext_getElem
    · simp
    · intro i hi hi'
      have : i < 10 := by simpa using hi'
      rw [List.getElem_take, List.getElem_map, List.getElem_range]
      by_cases h : i < d.length
      · simp [List.getElem_append_left, h]
      · rw [List.getElem_append_right (by omega), List.getElem_replicate]
        simp [h]
  simp only [recordWords, recordOf, tail, coordBits, tidDie, tidClu, tidCore, tidSlot, w64]
  simp only [List.cons_append, List.nil_append, Nat.add_assoc]

/-- A machine check that names no thread adds its record (23 R371). -/
theorem machineCheck_checks (s : State) (kind : Nat) (ends : Bool) (d : List Word) :
    (s.machineCheck kind ends false none 0 0 0 0 d false).proctor.checks
      = s.proctor.checks ++ [recordOf kind false ends false 0 0 0 0 0 0 (s.cycle 4) d] := by
  rw [← recordWords_eq_recordOf]
  exact logRecord_checks _ _ _ _ _ _ _ _ _

theorem machineCheck_signalled (s : State) (kind : Nat) (ends : Bool) (d : List Word) :
    Signalled s.host (s.machineCheck kind ends false none 0 0 0 0 d false).host [1] :=
  signalled_signal _ 1

@[simp] theorem machineCheck_sensors (s : State) (kind : Nat) (ends shd : Bool) (tid : Option Nat) (pc vcp ssn : Word) (lnum : Nat)
    (d : List Word) (inj : Bool) : (s.machineCheck kind ends shd tid pc vcp ssn lnum d inj).proctor.sensors = s.proctor.sensors :=
  logRecord_sensors _ _ _ _ _ _ _ _ _

end Sys2Proof.Proofs
end

section
/-! Power and bring-up (01 R30, 25 R381 to R384, R390). -/

namespace Sys2Proof.Proofs

open Sys2Proof.Machine Sys2Proof.Safety

theorem lostPower_powerLost (s : State) : LostPower s (powerLost s) where
  power := rfl
  machine := ⟨rfl, rfl, rfl, rfl, rfl, rfl, rfl⟩
  host := rfl
  flash := ⟨rfl, rfl, rfl⟩

theorem powerOn_eq (b : BringUp) (s : State) : exec (.powerOn b) s = execPowerOn b s := rfl

theorem powerOn_of_power {s : State} (b : BringUp) (h : s.power ≠ .off) : exec (.powerOn b) s = .next s := by
  rw [powerOn_eq, execPowerOn, if_pos h]

theorem numberTaken_iff (h : HostSys) (b : BringUp) :
    numberTaken h b = true ↔ ∃ n a, h.flashNode = some n ∧ a ∈ b.announced ∧ a.1 = n ∧ a.2.toNat < b.serial.toNat := by
  unfold numberTaken
  cases h.flashNode <;> simp

/-- The firmware in flash does not verify (25 R381, R408). -/
def forgedFirmware (h : HostSys) : Bool := h.staged.any (fun f => !brynpolVerifies f)

theorem forgedFirmware_iff (h : HostSys) : forgedFirmware h = true ↔ ∃ f, h.staged = some f ∧ brynpolVerifies f = false := by
  unfold forgedFirmware
  cases h.staged <;> simp

theorem bringUpFails_eq (h : HostSys) (b : BringUp) : bringUpFails h b =
    if forgedFirmware h = true then some 1
    else if 1 ≤ b.fail ∧ b.fail ≤ 4 then some b.fail
    else if numberTaken h b = true then some 5
    else none := by
  unfold bringUpFails forgedFirmware
  simp only [Bool.and_eq_true, decide_eq_true_eq]
  cases h.staged <;> rfl

/-- The code at which bring-up stops is that of the step that fails (25 R381, R382, R384). -/
theorem bringUpFails_eq_some_iff (s : State) (b : BringUp) (code : Nat) :
    bringUpFails s.host b = some code ↔ StepFails s b code := by
  rw [bringUpFails_eq, StepFails, ← numberTaken_iff, ← forgedFirmware_iff]
  by_cases hf : forgedFirmware s.host = true
  · simp [hf, eq_comm (a := code)]
  · by_cases hm : 1 ≤ b.fail ∧ b.fail ≤ 4
    · simp [hf, hm, eq_comm (a := code)]
    · by_cases hn : numberTaken s.host b = true
      · simp [hf, hm, hn, eq_comm (a := code)]
      · simp [hf, hm, hn]

theorem stepFails_code_le {s : State} {b : BringUp} {code : Nat} (h : StepFails s b code) : 1 ≤ code ∧ code ≤ 5 := by
  rcases h with ⟨_, h⟩ | ⟨_, ⟨h1, h2⟩, h⟩ | ⟨_, _, h, _⟩ <;> omega

/-- FLVL once the microcode of bring-up stands on the dies (25 R380). -/
theorem flvl_of_bootMicrocode {t : State} {b : BringUp} (h : t.proctor.micro = bootMicrocode b) {d : Nat} {l : BitVec 32} {m : BitVec 16}
    (hd : d < 4) (hb : b.levels[d]? = some (l, m)) :
    readDevice t (d * 0x10000000 + 8) = some (BitVec.ofNat 64 (m.toNat * 2 ^ 32 + l.toNat)) := by
  rw [readDevice_flvl t hd]
  simp [flvlOf, hd, h, bootMicrocode, hb, w64]

/-- Bits [51:4] of a value in their places (25 R378). -/
theorem field_51_4_mul (x : Word) : w64 (field x.toNat 51 4 * 16) = x &&& 0x000FFFFFFFFFFFF0 := by
  have e : w64 (field x.toNat 51 4 * 16) = ((x >>> 4).setWidth 48).setWidth 64 <<< 4 := by
    apply BitVec.eq_of_toNat_eq
    simp only [w64, field, BitVec.toNat_ofNat, BitVec.toNat_shiftLeft, BitVec.toNat_setWidth, BitVec.toNat_ushiftRight, Nat.shiftLeft_eq]
    omega
  rw [e]
  apply BitVec.eq_of_getLsbD_eq
  intro i hi
  have : ∀ i : Fin 64, (0x000FFFFFFFFFFFF0 : Word).getLsbD i = (decide (4 ≤ i.val) && decide (i.val < 52)) := by decide
  have hmask := this ⟨i, hi⟩
  simp only at hmask
  simp only [BitVec.getLsbD_shiftLeft, BitVec.getLsbD_setWidth, BitVec.getLsbD_ushiftRight, BitVec.getLsbD_and, hmask]
  by_cases h4 : i < 4
  · have low : ¬ 4 ≤ i := by omega
    simp only [h4, low, decide_true, decide_false, Bool.not_true, Bool.and_false, Bool.false_and]
  · have above : 4 ≤ i := by omega
    have place : 4 + (i - 4) = i := by omega
    have h64 : i - 4 < 64 := by omega
    by_cases h52 : i < 52
    · have h48 : i - 4 < 48 := by omega
      simp only [hi, h4, above, h52, h48, h64, place, decide_true, decide_false, Bool.not_false, Bool.true_and, Bool.and_true]
    · have h48 : ¬ i - 4 < 48 := by omega
      simp only [h52, h48, decide_false, Bool.false_and, Bool.and_false]

theorem pcore_of_bootCores {t : State} {b : BringUp} (h : t.proctor.cores = bootCores b) {k : Nat} {f hd : Word} (hk : k < 16)
    (hb : b.frames[k]? = some (f, hd)) :
    t.pcore k = some { ProctorCore.reset with pxframe := f &&& 0x000FFFFFFFFFFFF0, pxhand := hd &&& 0x000FFFFFFFFFFFF0 } := by
  simp [State.pcore, hk, h, bootCores, hb, field_51_4_mul]

/-- PXFRAME and PXHAND once the firmware has written them (25 R378, R381). -/
theorem frames_of_bootCores {t : State} {b : BringUp} (h : t.proctor.cores = bootCores b) {k : Nat} {f hd : Word} (hk : k < 16)
    (hb : b.frames[k]? = some (f, hd)) :
    readDevice t (0x40000000 + 16 * k) = some (f &&& 0x000FFFFFFFFFFFF0)
      ∧ readDevice t (0x40000008 + 16 * k) = some (hd &&& 0x000FFFFFFFFFFFF0) := by
  rw [readDevice_pxframe t hk, readDevice_pxhand t hk, pcore_of_bootCores h hk hb]
  exact ⟨rfl, rfl⟩

/-- Training ports changes the ports, the keyed and lost peers and the count of signatures alone. -/
def TrainedFrom (h h' : HostSys) : Prop :=
  { h' with ports := h.ports, keyed := h.keyed, lost := h.lost, hssUsed := h.hssUsed } = h

theorem trainedFrom_trans {a b c : HostSys} (h : TrainedFrom a b) (k : TrainedFrom b c) : TrainedFrom a c := by
  have e : { c with ports := a.ports, keyed := a.keyed, lost := a.lost, hssUsed := a.hssUsed }
      = { b with ports := a.ports, keyed := a.keyed, lost := a.lost, hssUsed := a.hssUsed } :=
    congrArg (fun x : HostSys => { x with ports := a.ports, keyed := a.keyed, lost := a.lost, hssUsed := a.hssUsed }) k
  exact e.trans h

theorem keyPeer_trainedFrom (h : HostSys) (tick peer : Nat) : TrainedFrom h (keyPeer h tick peer).1 := by
  simp only [keyPeer]
  repeat' split
  all_goals rfl

theorem trainPort_trainedFrom (h : HostSys) (tick port peer : Nat) (sw : Bool) : TrainedFrom h (trainPort h tick port peer sw) := by
  have key := keyPeer_trainedFrom h tick peer
  by_cases hp : port < 24
  · by_cases own : peer = h.node.toNat
    · rw [trainPort, dif_pos hp, if_pos own]; rfl
    · rw [trainPort, dif_pos hp, if_neg own]
      simp only
      split
      · exact key
      · exact trainedFrom_trans key rfl
  · rw [trainPort, dif_neg hp]; rfl

theorem foldl_trainPort_trainedFrom (ports : List (Nat × Nat × Bool)) (tick : Nat) (h : HostSys) :
    TrainedFrom h (ports.foldl (fun h p => trainPort h tick p.1 p.2.1 p.2.2) h) := by
  induction ports generalizing h with
  | nil => rfl
  | cons p ports ih => exact trainedFrom_trans (trainPort_trainedFrom ..) (ih _)

/-- The lower of the numbers met so far and the next one, as `joinGroup` chooses the bridge (25 R390). -/
def lower (m : Option Nat) (n : Nat) : Option Nat := match m with
  | some x => some (min x n)
  | none => some n

theorem lower_none (n : Nat) : lower none n = some n := rfl

theorem lower_some (x n : Nat) : lower (some x) n = some (min x n) := rfl

/-- Folded over a list, it gives the list's lowest number. -/
theorem foldl_lower (x : Nat) (l : List Nat) : ∃ y, (x :: l).foldl lower none = some y ∧ y ∈ x :: l ∧ ∀ m ∈ x :: l, y ≤ m := by
  rw [List.foldl_cons, lower_none]
  induction l generalizing x with
  | nil => exact ⟨x, rfl, by simp, by simp⟩
  | cons z l ih =>
    obtain ⟨y, hy, hmem, hle⟩ := ih (min x z)
    refine ⟨y, by rw [List.foldl_cons, lower_some]; exact hy, ?_, ?_⟩
    · rcases List.mem_cons.1 hmem with e | hl
      · rcases Nat.le_total x z with hxz | hxz <;> simp [e, hxz]
      · simp [hl]
    · have hmin := hle (min x z) (by simp)
      intro m hm
      simp only [List.mem_cons] at hm
      rcases hm with rfl | rfl | hm
      · omega
      · omega
      · exact hle m (by simp [hm])

/-- The nodes that may act as bridge: this one where its host port trained, and those of the group whose did (25 R390). -/
def ableNodes (b : BringUp) (node : Nat) : List Nat := (if b.hostTrained then [node] else []) ++ b.bridges

theorem trainedFrom_fields {h h' : HostSys} (t : TrainedFrom h h') :
    h'.node = h.node ∧ h'.running = h.running ∧ h'.fail = h.fail ∧ h'.serial = h.serial := by
  unfold TrainedFrom at t
  have node := congrArg HostSys.node t
  have running := congrArg HostSys.running t
  have fail := congrArg HostSys.fail t
  have serial := congrArg HostSys.serial t
  exact ⟨node, running, fail, serial⟩

/-- What joining a group leaves as it was, and its node number (25 R384). -/
theorem joinGroup_keeps (h : HostSys) (b : BringUp) (tick node : Nat) :
    let j := joinGroup h b tick node
    j.node = BitVec.ofNat 11 node ∧ j.running = h.running ∧ j.fail = h.fail ∧ j.serial = h.serial :=
  trainedFrom_fields (foldl_trainPort_trainedFrom b.ports tick { h with node := BitVec.ofNat 11 node })

theorem joinGroup_bridge_none {b : BringUp} {node : Nat} (e : ableNodes b node = []) (h : HostSys) (tick : Nat) :
    (joinGroup h b tick node).brn = 0x7FF ∧ (joinGroup h b tick node).bridge = false := by
  unfold ableNodes at e
  simp only [joinGroup, e]
  exact ⟨rfl, rfl⟩

/-- The lowest node whose host port trained acts as bridge (25 R390). -/
theorem joinGroup_bridge_some {b : BringUp} {node : Nat} (e : ableNodes b node ≠ []) (hlt : ∀ m ∈ ableNodes b node, m < 1024)
    (h : HostSys) (tick : Nat) :
    let j := joinGroup h b tick node
    j.brn.toNat ∈ ableNodes b node ∧ (∀ m ∈ ableNodes b node, j.brn.toNat ≤ m) ∧ (j.bridge = true ↔ j.brn.toNat = node) := by
  obtain ⟨x, l, hl⟩ := List.exists_cons_of_ne_nil e
  rw [hl] at hlt ⊢
  obtain ⟨y, hy, hmem, hle⟩ := foldl_lower x l
  have hbrn : (joinGroup h b tick node).brn = BitVec.ofNat 11 y ∧ (joinGroup h b tick node).bridge = (some y == some node) := by
    unfold ableNodes at hl
    simp only [joinGroup, hl]
    exact ⟨congrArg (fun o => BitVec.ofNat 11 (o.getD 0x7FF)) hy, congrArg (· == some node) hy⟩
  have hval : (joinGroup h b tick node).brn.toNat = y := by
    have := hlt y hmem
    rw [hbrn.1, BitVec.toNat_ofNat]; omega
  simp only [hval]
  exact ⟨hmem, hle, by simp [hbrn.2]⟩

end Sys2Proof.Proofs
end

section
/-! Power-on, step by step, and heat (25 R381 to R384, R390; 01 R31, 23 R426). -/

namespace Sys2Proof.Proofs

open Sys2Proof.Machine Sys2Proof.Safety

/-- The dies and the Proctor as the firmware has set them by the end of step 4 (25 R381). -/
structure Started (s : State) (b : BringUp) (t : State) : Prop where
  running : t.host.running = s.host.staged
  micro : t.proctor.micro = bootMicrocode b
  cores : t.proctor.cores = bootCores b

/-- FLVL, PXFRAME and PXHAND as the firmware has set them (25 R378, R380, R381). -/
theorem started_reads {s : State} {b : BringUp} {t : State} (h : Started s b t) : t.host.running = s.host.staged
    ∧ (∀ d l m, d < 4 → b.levels[d]? = some (l, m) → readDevice t (d * 0x10000000 + 8) = some (BitVec.ofNat 64 (m.toNat * 2 ^ 32 + l.toNat)))
    ∧ (∀ k f h, k < 16 → b.frames[k]? = some (f, h) → readDevice t (0x40000000 + 16 * k) = some (f &&& 0x000FFFFFFFFFFFF0)
      ∧ readDevice t (0x40000008 + 16 * k) = some (h &&& 0x000FFFFFFFFFFFF0)) :=
  ⟨h.running, fun _ _ _ hd hb => flvl_of_bootMicrocode h.micro hd hb, fun _ _ _ hk hb => frames_of_bootCores h.cores hk hb⟩

/-- Bring-up stops in the step that fails, with what the steps before it did (25 R382). -/
theorem powerOn_fails {s : State} {b : BringUp} {code : Nat} (h : s.power = .off) (hf : StepFails s b code) :
    ∃ t, exec (.powerOn b) s = .next t ∧ t.sys = State.reset.sys ∧ t.threads = [] ∧ t.host.serial = b.serial
      ∧ t.power = .failed code ∧ t.host.fail.toNat = code ∧ t.host.ready = false
      ∧ (code ≠ 1 → t.host.running = s.host.staged) ∧ (code = 5 → Started s b t) := by
  have hcode := stepFails_code_le hf
  rw [← bringUpFails_eq_some_iff] at hf
  have fail : (BitVec.ofNat 8 code).toNat = code := by rw [BitVec.toNat_ofNat]; omega
  rw [powerOn_eq, execPowerOn, if_neg (fun on => on h)]
  simp only
  split
  case h_2 e => exact absurd (hf.symm.trans e) (by simp)
  case h_1 c e =>
    obtain rfl : code = c := Option.some.inj (hf.symm.trans e)
    by_cases h1 : code = 1
    · subst h1
      exact ⟨_, rfl, rfl, rfl, rfl, rfl, rfl, rfl, fun h => absurd rfl h, fun h => absurd h (by decide)⟩
    · refine ⟨_, rfl, rfl, rfl, ?_, rfl, ?_, ?_, fun _ => ?_, fun h5 => ⟨?_, ?_, ?_⟩⟩
      · simp [State.signal, h1]
      · simp [State.signal, fail]
      · simp [State.signal, h1]; rfl
      · simp [State.signal, h1]; rfl
      · simp [State.signal, h1]; rfl
      · simp [State.signal, h5]
      · simp [State.signal, h5]

/-- Bring-up in which no step fails ends ready (25 R381, R384, R390). -/
theorem powerOn_ends {s : State} {b : BringUp} (h : s.power = .off) (hf : ∀ code, ¬ StepFails s b code) :
    ∃ t, exec (.powerOn b) s = .next t ∧ t.sys = State.reset.sys ∧ t.threads = [] ∧ t.host.serial = b.serial
      ∧ t.power = .up ∧ t.host.ready = true ∧ t.host.fail = 0 ∧ Started s b t
      ∧ (s.host.flashNode = none → t.host.node = 0x7FF ∧ t.host.bridge = b.hostTrained)
      ∧ ∀ n, s.host.flashNode = some n → ∃ j h, j = joinGroup h b s.tick n ∧ t.host.node = j.node ∧ t.host.brn = j.brn
          ∧ t.host.bridge = j.bridge := by
  rw [powerOn_eq, execPowerOn, if_neg (fun on => on h)]
  simp only
  split
  case h_1 c e => exact absurd ((bringUpFails_eq_some_iff s b c).1 e) (hf c)
  case h_2 e =>
    split
    case h_1 hn =>
      have hn : s.host.flashNode = none := hn
      refine ⟨_, rfl, rfl, rfl, rfl, rfl, rfl, rfl, ⟨rfl, rfl, rfl⟩, fun _ => ⟨rfl, rfl⟩, fun n e => ?_⟩
      rw [hn] at e; cases e
    case h_2 n hn =>
      have hn : s.host.flashNode = some n := hn
      refine ⟨_, rfl, rfl, rfl, ?_, rfl, rfl, ?_, ⟨?_, rfl, rfl⟩, fun e => ?_, fun m e => ?_⟩
      · exact (joinGroup_keeps _ b _ n).2.2.2
      · exact (joinGroup_keeps _ b _ n).2.2.1
      · exact (joinGroup_keeps _ b _ n).2.1
      · rw [hn] at e; cases e
      · obtain rfl : n = m := Option.some.inj (hn.symm.trans e)
        exact ⟨_, _, rfl, rfl, rfl, rfl⟩

/-! Heat. -/

/-- An entry of a rising table after a write: the one written, or one of another key. -/
theorem mem_tablePut_iff {α : Type} {k : Nat} {x : α} {t : Table α} (h : keysRise t = true) (e : Nat × α) :
    e ∈ tablePut k x t ↔ e = (k, x) ∨ e ∈ t ∧ e.1 ≠ k := by
  induction t with
  | nil => simp [tablePut]
  | cons f t ih =>
    obtain ⟨j, y⟩ := f
    have hlt := lt_of_keysRise h
    simp only [tablePut]
    split
    · next hk =>
      subst hk
      have keys : e ∈ t → e.1 ≠ k := fun he => Nat.ne_of_gt (hlt e he)
      simp only [List.mem_cons]
      constructor
      · rintro (he | he)
        · exact .inl he
        · exact .inr ⟨.inr he, keys he⟩
      · rintro (he | ⟨rfl | he, hne⟩)
        · exact .inl he
        · exact absurd rfl hne
        · exact .inr he
    · split
      · next hk hkj =>
        have keys : e ∈ (j, y) :: t → e.1 ≠ k := fun he => by
          rcases List.mem_cons.1 he with rfl | he
          · exact Ne.symm hk
          · exact Nat.ne_of_gt (Nat.lt_trans hkj (hlt e he))
        rw [List.mem_cons]
        exact or_congr_right ⟨fun he => ⟨he, keys he⟩, And.left⟩
      · next hk hkj =>
        rw [List.mem_cons, ih (keysRise_tail h), List.mem_cons]
        constructor
        · rintro (rfl | rfl | ⟨he, hne⟩)
          · exact .inr ⟨.inl rfl, Ne.symm hk⟩
          · exact .inl rfl
          · exact .inr ⟨.inr he, hne⟩
        · rintro (rfl | ⟨rfl | he, hne⟩)
          · exact .inr (.inl rfl)
          · exact .inl rfl
          · exact .inr (.inr ⟨he, hne⟩)

section
variable {s : State} {r : SensorReading}

theorem setSensor_eq (hd : r.die < 5) (hs : r.sensor < 8) :
    setSensor s r = { s with proctor := { s.proctor with sensors := tablePut (sensorKey r) (BitVec.ofNat 16 r.temp) s.proctor.sensors } } := by
  simp [setSensor, hd, hs]

/-- Some junction's reading satisfies a condition once a reading is taken: the new one, or another sensor's. -/
theorem exists_sensor_setSensor (hd : r.die < 5) (hs : r.sensor < 8) (ht : r.temp < 65536) (hk : keysRise s.proctor.sensors = true)
    (P : Nat → Prop) : (∃ x ∈ (setSensor s r).proctor.sensors, P x.2.toNat)
      ↔ P r.temp ∨ ∃ x ∈ s.proctor.sensors, x.1 ≠ r.die * 8 + r.sensor ∧ P x.2.toNat := by
  have temp : (BitVec.ofNat 16 r.temp).toNat = r.temp := by rw [BitVec.toNat_ofNat]; omega
  rw [setSensor_eq hd hs]
  simp only [mem_tablePut_iff hk]
  constructor
  · rintro ⟨x, rfl | ⟨hx, hne⟩, hP⟩
    · exact .inl (temp ▸ hP)
    · exact .inr ⟨x, hx, hne, hP⟩
  · rintro (hP | ⟨x, hx, hne, hP⟩)
    · exact ⟨_, .inl rfl, temp.symm ▸ hP⟩
    · exact ⟨x, .inr ⟨hx, hne⟩, hP⟩

theorem hotter_isSome_iff (hd : r.die < 5) (hs : r.sensor < 8) (ht : r.temp < 65536) (hk : keysRise s.proctor.sensors = true) (c : Nat) :
    (hotter (setSensor s r) c).isSome = true ↔ Above s r c := by
  rw [Above, ← exists_sensor_setSensor hd hs ht hk (fun n => c * 256 < n), hotter, List.find?_isSome]
  simp

/-- The sensor that shows above a limit is the one just read where the others show at it or below. -/
theorem hotter_eq_of_others (hd : r.die < 5) (hs : r.sensor < 8) (hk : keysRise s.proctor.sensors = true) {c : Nat}
    {x : Nat × BitVec 16} (hx : hotter (setSensor s r) c = some x)
    (others : ∀ y ∈ s.proctor.sensors, y.1 ≠ r.die * 8 + r.sensor → y.2.toNat ≤ c * 256) :
    x = (sensorKey r, BitVec.ofNat 16 r.temp) := by
  have above : c * 256 < x.2.toNat := by simpa using List.find?_some hx
  have mem : x ∈ (setSensor s r).proctor.sensors := List.mem_of_find?_eq_some hx
  rw [setSensor_eq hd hs] at mem
  rcases (mem_tablePut_iff hk x).1 mem with e | ⟨hmem, hne⟩
  · exact e
  · have := others x hmem hne
    omega

theorem melts_iff (hd : r.die < 5) (hs : r.sensor < 8) (ht : r.temp < 65536) (hk : keysRise s.proctor.sensors = true) :
    (setSensor s r).proctor.sensors.any (fun x => 112 * 256 ≤ x.2.toNat) = true
      ↔ 112 * 256 ≤ r.temp ∨ ∃ x ∈ s.proctor.sensors, x.1 ≠ r.die * 8 + r.sensor ∧ 112 * 256 ≤ x.2.toNat := by
  rw [← exists_sensor_setSensor hd hs ht hk (fun n => 112 * 256 ≤ n), List.any_eq_true]
  simp only [decide_eq_true_eq]

end

@[simp] theorem setHot_power (s : State) (v : Bool) : (setHot s v).power = s.power := by unfold setHot; split <;> rfl
@[simp] theorem setHot_cycles (s : State) (v : Bool) : (setHot s v).cycles = s.cycles := by unfold setHot; split <;> rfl
@[simp] theorem setHot_sys (s : State) (v : Bool) : (setHot s v).sys = s.sys := by unfold setHot; split <;> rfl
@[simp] theorem setHot_threads (s : State) (v : Bool) : (setHot s v).threads = s.threads := by unfold setHot; split <;> rfl
@[simp] theorem setHot_sched (s : State) (v : Bool) : (setHot s v).sched = s.sched := by unfold setHot; split <;> rfl
@[simp] theorem setHot_proctor (s : State) (v : Bool) : (setHot s v).proctor = s.proctor := by unfold setHot; split <;> rfl

@[simp] theorem setHot_hotBit (s : State) (v : Bool) : (setHot s v).host.hotBit = v := by
  unfold setHot; split
  · next h => exact h
  · rfl

/-- A change of BSTAT.HOT signals vector 2 (25 R393). -/
theorem setHot_signalled (s : State) (v : Bool) :
    Signalled { s.host with hotBit := v } (setHot s v).host (if v = s.host.hotBit then [] else [2]) := by
  unfold setHot; split
  · next h => subst h; simpa using signalled_nil s.host
  · next h => rw [if_neg (Ne.symm h)]; exact signalled_signal { s with host := { s.host with hotBit := v } } 2

/-- What a reading below the limit of 112 °C leaves of the hold (01 R31): BSTAT.HOT and the hold with what they signal, the machine
check of its entry; nothing else but the log. -/
structure Held (s t : State) (r : SensorReading) (bit hold : Bool) : Prop where
  sensors : t.proctor.sensors = (setSensor s r).proctor.sensors
  power : t.power = s.power
  sys : t.sys = s.sys
  threads : t.threads = s.threads
  hotBit : t.host.hotBit = bit
  hot : t.sched.hot = hold
  sched : { t.sched with hot := s.sched.hot, rescan := s.sched.rescan } = s.sched
  scan : s.sched.hot = true → hold = false → t.sched.rescan = true
  signals : Signalled { s.host with hotBit := bit } t.host ((if bit = s.host.hotBit then [] else [2])
    ++ (if s.sched.hot = false ∧ hold = true then [1] else []))
  calm : s.sched.hot = true ∨ hold = false → t.proctor.checks = s.proctor.checks
  alarm : s.sched.hot = false → hold = true → ∃ x, hotter (setSensor s r) 105 = some x
    ∧ t.proctor.checks = s.proctor.checks ++ [recordOf 0x82 false false false 0 0 0 0 0 0 (s.cycle 4) [w64 (x.1 / 8), w64 (x.1 % 8), w64 x.2.toNat]]

/-- A reading changes the sensors' table alone. -/
theorem setSensor_keeps (s : State) (r : SensorReading) : (setSensor s r).host = s.host ∧ (setSensor s r).sched = s.sched
    ∧ (setSensor s r).power = s.power ∧ (setSensor s r).sys = s.sys ∧ (setSensor s r).threads = s.threads
    ∧ (setSensor s r).cycles = s.cycles ∧ (setSensor s r).proctor.checks = s.proctor.checks := by
  unfold setSensor; split <;> exact ⟨rfl, rfl, rfl, rfl, rfl, rfl, rfl⟩

/-- BSTAT.HOT alone follows a reading that neither enters nor leaves the hold. -/
theorem held_setHot (s : State) (r : SensorReading) (v : Bool) : Held s (setHot (setSensor s r) v) r v s.sched.hot := by
  obtain ⟨host, sched, power, sys, threads, _, checks⟩ := setSensor_keeps s r
  have signals := setHot_signalled (setSensor s r) v
  rw [host] at signals
  have steady : ∀ {p : Prop}, s.sched.hot = true → s.sched.hot = false → p := fun h h' => absurd (h.symm.trans h') (by decide)
  exact { sensors := by simp, power := by simp [power], sys := by simp [sys], threads := by simp [threads], hotBit := by simp
          hot := by simp [sched], sched := by simp [sched], scan := steady
          signals := by rw [if_neg (fun h : s.sched.hot = false ∧ s.sched.hot = true => steady h.2 h.1), List.append_nil]; exact signals
          calm := by simp [checks], alarm := fun h h' => steady h' h }

/-- The hold's entry (01 R31, 23 R426). -/
def enterHold (s : State) (x : Nat × BitVec 16) : State :=
  { s with sched := { s.sched with hot := true } }.machineCheck 0x82 false false none 0 0 0 0 [w64 (x.1 / 8), w64 (x.1 % 8), w64 x.2.toNat] false

theorem enterHold_signalled (s : State) (x : Nat × BitVec 16) : Signalled s.host (enterHold s x).host [1] :=
  machineCheck_signalled { s with sched := { s.sched with hot := true } } 0x82 false _

theorem held_enterHold {s : State} {r : SensorReading} {x : Nat × BitVec 16} (hot : s.sched.hot = false)
    (above : hotter (setSensor s r) 105 = some x) : Held s (enterHold (setHot (setSensor s r) true) x) r true true := by
  obtain ⟨host, sched, power, sys, threads, cycles, checks⟩ := setSensor_keeps s r
  have signals := setHot_signalled (setSensor s r) true
  rw [host] at signals
  have rung := signalled_trans signals (enterHold_signalled (setHot (setSensor s r) true) x)
  have one : (if s.sched.hot = false ∧ true = true then [1] else []) = [1] := by simp [hot]
  unfold enterHold
  exact { sensors := by simp, power := by simp [power], sys := by simp [sys], threads := by simp [threads]
          hotBit := setHot_hotBit (setSensor s r) true
          hot := by simp, sched := by simp [sched], scan := by simp
          signals := by rw [one]; exact rung
          calm := by simp [hot]
          alarm := fun _ _ => ⟨x, above, (machineCheck_checks _ _ _ _).trans (by simp [State.cycle, cycles, checks])⟩ }

/-- The hold's exit (01 R31). -/
def leaveHold (s : State) : State := { s with sched := { s.sched with hot := false, rescan := true } }.logRecord 4 false 0 11 4 0 0 0

theorem held_leaveHold {s : State} (r : SensorReading) (hot : s.sched.hot = true) :
    Held s (leaveHold (setHot (setSensor s r) false)) r false false := by
  obtain ⟨host, sched, power, sys, threads, _, checks⟩ := setSensor_keeps s r
  have signals := setHot_signalled (setSensor s r) false
  rw [host] at signals
  have silent : (if s.sched.hot = false ∧ false = true then [1] else []) = ([] : List Nat) := by simp
  unfold leaveHold
  exact { sensors := by simp, power := by simp [power], sys := by simp [sys], threads := by simp [threads]
          hotBit := setHot_hotBit (setSensor s r) false
          hot := by simp, sched := by simp [sched], scan := by simp
          signals := by rw [silent, List.append_nil]; exact signals
          calm := by simp [checks], alarm := by simp [hot] }

section
variable {s : State} {r : SensorReading} (cool : (setSensor s r).proctor.sensors.any (fun x => 112 * 256 ≤ x.2.toNat) = false)
include cool

theorem senseHeat_above {x : Nat × BitVec 16} (above : hotter (setSensor s r) 105 = some x) : senseHeat [r] s =
    if s.sched.hot = true then setHot (setSensor s r) true else enterHold (setHot (setSensor s r) true) x := by
  have hot : (setHot (setSensor s r) true).sched.hot = s.sched.hot := by rw [setHot_sched, (setSensor_keeps s r).2.1]
  simp only [senseHeat, List.foldl_cons, List.foldl_nil, cool, Bool.false_eq_true, if_false, above, hot, enterHold]

theorem senseHeat_below (below : hotter (setSensor s r) 105 = none) : senseHeat [r] s =
    if (!s.sched.hot || (hotter (setSensor s r) 100).isSome) = true then setHot (setSensor s r) false
    else leaveHold (setHot (setSensor s r) false) := by
  have hot : (setHot (setSensor s r) false).sched.hot = s.sched.hot := by rw [setHot_sched, (setSensor_keeps s r).2.1]
  have warm : hotter (setHot (setSensor s r) false) 100 = hotter (setSensor s r) 100 := by simp [hotter]
  simp only [senseHeat, List.foldl_cons, List.foldl_nil, cool, Bool.false_eq_true, if_false, below, hot, warm, leaveHold]

/-- A reading below 112 °C everywhere sets BSTAT.HOT while a junction is above 105 °C, enters the hold there and leaves it once none is
above 100 °C (01 R31, 25 R392). -/
theorem senseHeat_held : Held s (senseHeat [r] s) r (hotter (setSensor s r) 105).isSome
    ((hotter (setSensor s r) 105).isSome || (s.sched.hot && (hotter (setSensor s r) 100).isSome)) := by
  cases above : hotter (setSensor s r) 105 with
  | some x =>
    have keep := held_setHot s r true
    rw [senseHeat_above cool above]
    cases hot : s.sched.hot with
    | true => rw [hot] at keep; exact keep
    | false => exact held_enterHold hot above
  | none =>
    have keep := held_setHot s r false
    rw [senseHeat_below cool above]
    cases hot : s.sched.hot with
    | false => rw [hot] at keep; exact keep
    | true =>
      cases (hotter (setSensor s r) 100).isSome with
      | true => rw [hot] at keep; exact keep
      | false => exact held_leaveHold r hot

end

theorem thermal_eq {e : Instr} {r : SensorReading} (he : e = .thermalHold r ∨ e = .thermalTrip r ∨ e = .thermalRelease [r]) (s : State) :
    exec e s = .next (senseHeat [r] s) := by
  rcases he with rfl | rfl | rfl <;> rfl

/-- At 112 °C power is removed (01 R31). -/
theorem senseHeat_melts {s : State} {r : SensorReading}
    (melts : (setSensor s r).proctor.sensors.any (fun x => 112 * 256 ≤ x.2.toNat) = true) : LostPower s (senseHeat [r] s) := by
  have e : senseHeat [r] s = powerLost (setSensor s r) := if_pos melts
  have lost := lostPower_powerLost (setSensor s r)
  rw [e]
  exact { lost with flash := by rw [lost.flash.1, lost.flash.2.1, lost.flash.2.2, (setSensor_keeps s r).1]; exact ⟨rfl, rfl, rfl⟩ }

end Sys2Proof.Proofs
end

section
/-! Link ports and the host port (25 R380, R384, R387, R388, R390). -/

namespace Sys2Proof.Proofs

open Sys2Proof.Machine Sys2Proof.Safety

/-- One port replaced is what its LSTAT shows, and the others' stay. -/
theorem onlyPort_of_set {s t : State} {port : Nat} (hp : port < 24) (p : LinkPort) (h : t.host.ports = s.host.ports.set port p) :
    OnlyPort s t port (lstatOf p) := by
  refine ⟨?_, fun q hq hne => ?_⟩
  · rw [lstatReads_eq t hp]; simp [h]
  · rw [lstatReads_eq t hq, lstatReads_eq s hq]; simp [h, Ne.symm hne]

theorem lstatOf_toNat (p : LinkPort) :
    (lstatOf p).toNat = p.peer.toNat * 2 ^ 32 + p.retry.toNat * 2 ^ 16 + (if p.sw then 2 else 0) + (if p.up then 1 else 0) := by
  have := p.peer.isLt
  have := p.retry.isLt
  unfold lstatOf w64
  rw [BitVec.toNat_ofNat]
  apply Nat.mod_eq_of_lt
  split <;> split <;> omega

/-- RETRY in its place of LSTAT (25 R380). -/
theorem retry_of_lstatOf (p : LinkPort) : (lstatOf p).toNat / 2 ^ 16 % 2 ^ 16 = p.retry.toNat := by
  have := p.peer.isLt
  have := p.retry.isLt
  rw [lstatOf_toNat]
  split <;> split <;> omega

/-- RETRY counts, and saturates (25 R380). -/
theorem lstatOf_countRetry (p : LinkPort) :
    lstatOf { p with retry := if p.retry = 0xFFFF then p.retry else p.retry + 1 }
      = if (lstatOf p).toNat / 2 ^ 16 % 2 ^ 16 = 0xFFFF then lstatOf p else lstatOf p + 0x10000 := by
  rw [retry_of_lstatOf]
  by_cases h : p.retry = 0xFFFF
  · have full : p.retry.toNat = 0xFFFF := by rw [h]; rfl
    rw [if_pos h, if_pos full]
  · have lt : p.retry.toNat < 0xFFFF := by
      have := p.retry.isLt
      have : p.retry.toNat ≠ 0xFFFF := fun e => h (BitVec.eq_of_toNat_eq e)
      omega
    have next : (p.retry + 1).toNat = p.retry.toNat + 1 := by rw [BitVec.toNat_add]; show (p.retry.toNat + 1) % 65536 = _; omega
    have peer := p.peer.isLt
    rw [if_neg h, if_neg (Nat.ne_of_lt lt)]
    apply BitVec.eq_of_toNat_eq
    rw [BitVec.toNat_add, lstatOf_toNat, lstatOf_toNat, next]
    show _ = (_ + 0x10000) % 2 ^ 64
    simp only
    split <;> split <;> omega

section
variable {s : State} {port : Nat} {x : Word}

theorem flitRetry_onlyPort (hp : port < 24) (hx : lstatReads s port = some x) :
    ∃ t, exec (.flitRetry port) s = .next t
      ∧ OnlyPort s t port (if x.toNat / 2 ^ 16 % 2 ^ 16 = 0xFFFF then x else x + 0x10000) := by
  obtain rfl : lstatOf s.host.ports[port] = x := Option.some.inj ((lstatReads_eq s hp).symm.trans hx)
  rw [← lstatOf_countRetry]
  exact ⟨_, dif_pos hp, onlyPort_of_set hp _ rfl⟩

theorem linkPortFail_onlyPort (hp : port < 24) (hx : lstatReads s port = some x) :
    ∃ t, exec (.linkPortFail port) s = .next t
      ∧ OnlyPort s t port (BitVec.ofNat 64 (0xFFFF * 2 ^ 32 + x.toNat / 2 ^ 16 % 2 ^ 16 * 2 ^ 16)) ∧ t.sys = s.sys ∧ t.threads = s.threads := by
  obtain rfl : lstatOf s.host.ports[port] = x := Option.some.inj ((lstatReads_eq s hp).symm.trans hx)
  have lstat : lstatOf { s.host.ports[port] with up := false, sw := false, peer := 0xFFFF }
      = BitVec.ofNat 64 (0xFFFF * 2 ^ 32 + s.host.ports[port].retry.toNat * 2 ^ 16) := by
    simp [lstatOf, w64]
  rw [retry_of_lstatOf, ← lstat]
  exact ⟨_, dif_pos hp, onlyPort_of_set hp _ rfl, rfl, rfl⟩

/-! A port's training (25 R384, R387). -/

/-- A peer is keyed, as it was or by a report that verifies (25 R387). -/
def keyedHost (h : HostSys) (peer : Nat) : HostSys :=
  if peer ∈ h.keyed then h
  else { h with hssUsed := h.hssUsed + 1, keyed := setAdd peer h.keyed, lost := setDel peer h.lost }

theorem mem_setAdd (k : Nat) (l : List Nat) : k ∈ setAdd k l := by
  induction l with
  | nil => simp [setAdd]
  | cons j l ih =>
    unfold setAdd
    split
    · next h => simp [h]
    · split <;> simp [ih]

theorem not_mem_setDel (k : Nat) (l : List Nat) : k ∉ setDel k l := by simp [setDel]

section
variable {h : HostSys} {tick peer : Nat}

theorem keyPeer_unable (hp : peer < 1024) (known : peer ∉ h.keyed) (able : ¬ h.hssUsed < Config.hssSignatures) :
    keyPeer h tick peer = (h, false) := by
  have : ¬ 1024 ≤ peer := by omega
  have : Config.hssSignatures ≤ h.hssUsed := by omega
  simp [keyPeer, *]

theorem keyPeer_forged (hp : peer < 1024) (known : peer ∉ h.keyed) (able : h.hssUsed < Config.hssSignatures)
    (verifies : ¬ Config.peerReportVerifies tick peer = true) :
    keyPeer h tick peer = ({ h with hssUsed := h.hssUsed + 1 }, false) := by
  have : ¬ 1024 ≤ peer := by omega
  have : ¬ Config.hssSignatures ≤ h.hssUsed := by omega
  simp [keyPeer, *]

theorem keyPeer_keyed (hp : peer < 1024)
    (keys : peer ∈ h.keyed ∨ h.hssUsed < Config.hssSignatures ∧ Config.peerReportVerifies tick peer = true) :
    keyPeer h tick peer = (keyedHost h peer, true) := by
  by_cases known : peer ∈ h.keyed
  · simp [keyPeer, keyedHost, known]
  · obtain ⟨able, verifies⟩ := keys.resolve_left known
    have : ¬ 1024 ≤ peer := by omega
    have : ¬ Config.hssSignatures ≤ h.hssUsed := by omega
    simp [keyPeer, keyedHost, *]

end

theorem keyedHost_ports (h : HostSys) (peer : Nat) : (keyedHost h peer).ports = h.ports := by unfold keyedHost; split <;> rfl

theorem mem_keyedHost_keyed (h : HostSys) (peer : Nat) : peer ∈ (keyedHost h peer).keyed := by
  unfold keyedHost
  split
  · next k => exact k
  · exact mem_setAdd _ _

theorem keyedHost_hssUsed (h : HostSys) (peer : Nat) :
    (keyedHost h peer).hssUsed = if peer ∈ h.keyed then h.hssUsed else h.hssUsed + 1 := by unfold keyedHost; split <;> rfl

theorem keyedHost_lost {h : HostSys} {peer : Nat} (known : peer ∉ h.keyed) : peer ∉ (keyedHost h peer).lost := by
  rw [keyedHost, if_neg known]; exact not_mem_setDel _ _

theorem linkPortTrain_of_node {s : State} {peer : Nat} (hn : s.host.node ≠ 0x7FF) (sw : Bool) (port : Nat) :
    exec (.linkPortTrain port peer sw) s = .next { s with host := trainPort s.host s.tick port peer sw } :=
  if_neg hn

/-- A module without a number, and a port to a module of its own number, train for no traffic; nor does a port whose peer cannot be
keyed (25 R384, R387). -/
theorem linkPortTrain_none {port peer : Nat} (sw : Bool) (hp : port < 24) (hpeer : peer < 1024)
    (h : (s.host.node = 0x7FF ∨ peer = s.host.node.toNat) ∨ ¬ peer ∈ s.host.keyed ∧ ¬ s.host.hssUsed < Config.hssSignatures) :
    exec (.linkPortTrain port peer sw) s = .next s := by
  by_cases hn : s.host.node = 0x7FF
  · exact if_pos hn
  · rw [linkPortTrain_of_node hn]
    by_cases own : peer = s.host.node.toNat
    · simp [trainPort, hp, own]
    · obtain ⟨known, able⟩ := h.resolve_left (not_or.2 ⟨hn, own⟩)
      simp [trainPort, hp, own, keyPeer_unable hpeer known able]

/-- A peer whose report does not verify costs a signature and is not keyed (25 R387, R408). -/
theorem linkPortTrain_forged {port peer : Nat} (sw : Bool) (hp : port < 24) (hpeer : peer < 1024)
    (alone : ¬ (s.host.node = 0x7FF ∨ peer = s.host.node.toNat)) (known : ¬ peer ∈ s.host.keyed)
    (able : s.host.hssUsed < Config.hssSignatures) (verifies : ¬ Config.peerReportVerifies s.tick peer = true) :
    exec (.linkPortTrain port peer sw) s = .next { s with host := { s.host with hssUsed := s.host.hssUsed + 1 } } := by
  obtain ⟨hn, own⟩ := not_or.1 alone
  rw [linkPortTrain_of_node hn]
  simp [trainPort, hp, own, keyPeer_forged hpeer known able verifies]

/-- A port whose peer is keyed trains (25 R380, R387). -/
theorem linkPortTrain_trains {port peer : Nat} (sw : Bool) (hp : port < 24) (hpeer : peer < 1024) (hx : lstatReads s port = some x)
    (alone : ¬ (s.host.node = 0x7FF ∨ peer = s.host.node.toNat))
    (keys : peer ∈ s.host.keyed ∨ s.host.hssUsed < Config.hssSignatures ∧ Config.peerReportVerifies s.tick peer = true) :
    ∃ t, exec (.linkPortTrain port peer sw) s = .next t
      ∧ OnlyPort s t port (BitVec.ofNat 64 ((if sw then 0xFFFF else peer) * 2 ^ 32 + x.toNat / 2 ^ 16 % 2 ^ 16 * 2 ^ 16 + (if sw then 2 else 0) + 1))
      ∧ peer ∈ t.host.keyed ∧ (¬ peer ∈ s.host.keyed → peer ∉ t.host.lost) ∧ t.sys = s.sys ∧ t.threads = s.threads
      ∧ t.host.hssUsed = if peer ∈ s.host.keyed then s.host.hssUsed else s.host.hssUsed + 1 := by
  obtain ⟨hn, own⟩ := not_or.1 alone
  obtain rfl : lstatOf s.host.ports[port] = x := Option.some.inj ((lstatReads_eq s hp).symm.trans hx)
  rw [retry_of_lstatOf, linkPortTrain_of_node hn]
  generalize hq : s.host.ports[port] = p
  have train : trainPort s.host s.tick port peer sw = { keyedHost s.host peer with
      ports := s.host.ports.set port { p with up := true, sw := sw, peer := if sw then 0xFFFF else BitVec.ofNat 16 peer } } := by
    simp [trainPort, hp, own, keyPeer_keyed hpeer keys, keyedHost_ports, hq]
  have lstat : lstatOf { p with up := true, sw := sw, peer := if sw then 0xFFFF else BitVec.ofNat 16 peer }
      = BitVec.ofNat 64 ((if sw then 0xFFFF else peer) * 2 ^ 32 + p.retry.toNat * 2 ^ 16 + (if sw then 2 else 0) + 1) := by
    have : peer % 65536 = peer := by omega
    cases sw <;> simp [lstatOf, w64, this]
  refine ⟨_, rfl, ?_, ?_, fun known => ?_, rfl, rfl, ?_⟩
  · rw [← lstat]
    exact onlyPort_of_set hp _ (by rw [train])
  · rw [train]; exact mem_keyedHost_keyed _ _
  · rw [train]; exact keyedHost_lost known
  · rw [train]; exact keyedHost_hssUsed _ _

end

/-- The host port once it has trained: a module of one, or one whose group has chosen no bridge and has no other member, becomes the
bridge (25 R384, R390). -/
def hostTrained (h : HostSys) (host : Nat) : HostSys :=
  if h.node = 0x7FF || (h.brn = 0x7FF && h.keyed.isEmpty) then { h with hostPort := some host, bridge := true, brn := h.node }
  else { h with hostPort := some host, bridge := h.brn == h.node }

theorem hostPortTrain_eq (s : State) (host : Nat) : exec (.hostPortTrain host) s =
    .next (if (hostTrained s.host host).bridge = s.host.bridge then { s with host := hostTrained s.host host }
      else { s with host := hostTrained s.host host }.signal 2) := rfl

theorem hostTrained_port (h : HostSys) (host : Nat) : (hostTrained h host).hostPort = some host := by
  unfold hostTrained; split <;> rfl

theorem hostTrained_alone {h : HostSys} (hn : h.node = 0x7FF) (host : Nat) :
    (hostTrained h host).bridge = true ∧ (hostTrained h host).brn = h.node := by
  simp [hostTrained, hn]

theorem hostTrained_group {h : HostSys} (hn : h.node ≠ 0x7FF) (hb : h.brn ≠ 0x7FF) (host : Nat) :
    (hostTrained h host).brn = h.brn ∧ ((hostTrained h host).bridge = true ↔ h.brn = h.node) := by
  have group : (decide (h.node = 0x7FF) || (decide (h.brn = 0x7FF) && h.keyed.isEmpty)) = false := by
    rw [decide_eq_false hn, decide_eq_false hb]; rfl
  simp only [hostTrained, group]
  exact ⟨rfl, beq_iff_eq⟩

/-- The host port trains: a module of one becomes its own bridge, one of a group follows the choice made (25 R384, R390). -/
theorem hostPortTrain_bridge (s : State) (host : Nat) :
    ∃ t, exec (.hostPortTrain host) s = .next t ∧ t.host.hostPort = some host ∧ t.sys = s.sys ∧ t.threads = s.threads
      ∧ (s.host.node = 0x7FF → t.host.bridge = true ∧ t.host.brn = s.host.node)
      ∧ (s.host.node ≠ 0x7FF → s.host.brn ≠ 0x7FF → t.host.brn = s.host.brn ∧ (t.host.bridge = true ↔ s.host.brn = s.host.node)) := by
  rw [hostPortTrain_eq]
  have port := hostTrained_port s.host host
  have alone := fun hn => hostTrained_alone (h := s.host) hn host
  have group := fun hn hb => hostTrained_group (h := s.host) hn hb host
  split
  · exact ⟨_, rfl, port, rfl, rfl, alone, group⟩
  · exact ⟨_, rfl, port, rfl, rfl, alone, group⟩

end Sys2Proof.Proofs
end

section
/-! Loss of a route: kernels end together, and nothing of it reaches the host port or the records of machine checks (25 R388; 21 R323, R326). -/

namespace Sys2Proof.Proofs

open Sys2Proof.Machine Sys2Proof.Safety

/-- The host port, the machine checks and the kernels are as they were. -/
structure SameBooks (s t : State) : Prop where
  host : t.host = s.host
  checks : t.proctor.checks = s.proctor.checks
  kernels : t.sched.kernels = s.sched.kernels

theorem sameBooks_refl (s : State) : SameBooks s s := ⟨rfl, rfl, rfl⟩

theorem sameBooks_trans {a b c : State} (h : SameBooks a b) (k : SameBooks b c) : SameBooks a c :=
  ⟨k.host.trans h.host, k.checks.trans h.checks, k.kernels.trans h.kernels⟩

theorem sameBooks_foldl {α : Type} {f : State → α → State} (hf : ∀ s x, SameBooks s (f s x)) (l : List α) (s : State) :
    SameBooks s (l.foldl f s) := by
  induction l generalizing s with
  | nil => exact sameBooks_refl s
  | cons x l ih => exact sameBooks_trans (hf s x) (ih _)

theorem sameBooks_logRecord (s : State) (typ : Nat) (inj : Bool) (pa unit die clu core : Nat) (tag : Word) :
    SameBooks s (s.logRecord typ inj pa unit die clu core tag) := ⟨rfl, by simp, rfl⟩

theorem sameBooks_disarm (s : State) : SameBooks s s.disarm := ⟨rfl, rfl, rfl⟩

theorem sameBooks_sys (s : State) (sys : MemSys) : SameBooks s { s with sys := sys } := ⟨rfl, rfl, rfl⟩

theorem sameBooks_fabric (s : State) (fabric : Fabric) : SameBooks s { s with fabric := fabric } := ⟨rfl, rfl, rfl⟩

theorem sameBooks_dropThread (s : State) (threads : Table Thread) (faults : List Delivered) : SameBooks s
    { s with threads := threads, sched := { s.sched with rescan := true }, proctor := { s.proctor with faults := faults } } :=
  ⟨rfl, rfl, rfl⟩

theorem sameBooks_touchUnits (s : State) (pa n lnum : Nat) : SameBooks s (touchUnits s pa n lnum) := by
  unfold touchUnits
  simp only
  split
  · exact sameBooks_trans (sameBooks_disarm s) (sameBooks_logRecord _ _ _ _ _ _ _ _ _)
  · exact sameBooks_trans (sameBooks_trans (sameBooks_disarm s) (sameBooks_sys _ _)) (sameBooks_logRecord _ _ _ _ _ _ _ _ _)
  · exact sameBooks_refl s

theorem sameBooks_performNotify (s : State) (n : PendingNotify) (lnum : Nat) : SameBooks s (performNotify s n lnum) := by
  unfold performNotify
  split
  · exact sameBooks_refl s
  · split
    · exact sameBooks_logRecord s _ _ _ _ _ _ _ _
    · exact ⟨rfl, rfl, rfl⟩

theorem sameBooks_performGather (s : State) (g : Gather) (lnum : Nat) : SameBooks s (performGather s g lnum) := by
  unfold performGather
  split
  · exact sameBooks_refl s
  · refine sameBooks_foldl (fun s a => ?_) _ s
    split
    · exact sameBooks_touchUnits s _ _ _
    · exact sameBooks_refl s

theorem sameBooks_unconfigureHoles (s : State) (o : Owner) : SameBooks s (unconfigureHoles s o) := ⟨rfl, rfl, rfl⟩

theorem sameBooks_freeBlocks (s : State) (core slot : Nat) : SameBooks s (freeBlocks s core slot) := ⟨rfl, rfl, rfl⟩

theorem sameBooks_removeThread (s : State) (tid : Nat) : SameBooks s (removeThread s tid) := by
  unfold removeThread
  split
  · exact sameBooks_refl s
  · next t _ =>
    refine sameBooks_trans ?_ (sameBooks_dropThread _ _ _)
    refine sameBooks_trans ?_ (sameBooks_foldl (fun s (p : Partner) => sameBooks_freeBlocks s p.core p.slot) _ _)
    refine sameBooks_trans ?_ (sameBooks_freeBlocks _ _ _)
    refine sameBooks_trans ?_ (sameBooks_unconfigureHoles _ _)
    split
    · exact sameBooks_refl s
    · refine sameBooks_trans ?_ (sameBooks_fabric _ _)
      exact sameBooks_trans (sameBooks_foldl (fun s n => sameBooks_performNotify s n _) _ s)
        (sameBooks_foldl (fun s x => sameBooks_performGather s x _) _ _)

theorem sameBooks_discardForm (s : State) (lnum : Nat) (f : Form) : SameBooks s (discardForm s lnum f) := by
  unfold discardForm
  refine sameBooks_foldl (fun s seat => ?_) _ s
  split
  · exact sameBooks_unconfigureHoles s _
  · exact sameBooks_trans (sameBooks_freeBlocks s _ _)
      (sameBooks_foldl (fun s (p : Partner) => sameBooks_freeBlocks s p.core p.slot) _ _)
  · exact sameBooks_removeThread s _

/-! Kernels that end (21 R323, R326). -/

theorem lives_iff (s : State) (n : Nat) : s.lives n = true ↔ ∃ k, s.kernel n = some k ∧ k.ended = none ∧ k.done = none := by
  unfold State.lives
  cases s.kernel n <;> simp

/-- A kernel that lives no longer ends no more. -/
theorem endOne_of_not_lives {s : State} {n : Nat} (h : ¬ s.lives n = true) (cause det : Nat) : endOne s n cause det = s := by
  unfold endOne
  split
  · rfl
  · next k hk =>
    refine if_pos ?_
    rw [lives_iff] at h
    cases he : k.ended with
    | some _ => rfl
    | none =>
      cases hd : k.done with
      | some _ => rfl
      | none => exact absurd ⟨k, hk, he, hd⟩ h

/-- One kernel's end leaves the host port and the machine checks, and the other kernels. -/
theorem endOne_keeps (s : State) (n cause det : Nat) :
    (endOne s n cause det).host = s.host ∧ (endOne s n cause det).proctor.checks = s.proctor.checks
      ∧ ∀ j, j ≠ n → (endOne s n cause det).kernel j = s.kernel j := by
  unfold endOne
  split
  · exact ⟨rfl, rfl, fun _ _ => rfl⟩
  · next k hk =>
    split
    · exact ⟨rfl, rfl, fun _ _ => rfl⟩
    · have books := sameBooks_foldl (fun s (e : Nat × Form) => sameBooks_discardForm s n e.2) k.forms s
      refine ⟨books.host, books.checks, fun j hj => ?_⟩
      show tableGet j (tableMod n _ _) = tableGet j s.sched.kernels
      rw [tableGet_tableMod, if_neg hj, books.kernels]

/-- A kernel that lives ends with the cause (21 R323). -/
theorem endOne_ends {s : State} {n : Nat} (h : s.lives n = true) (cause det : Nat) :
    ∃ k, (endOne s n cause det).kernel n = some k ∧ k.ended = some (cause, det) := by
  obtain ⟨k, hk, he, hd⟩ := (lives_iff s n).1 h
  have books := sameBooks_foldl (fun s (e : Nat × Form) => sameBooks_discardForm s n e.2) k.forms s
  refine ⟨{ k with ended := some (cause, det), forms := [], reserved := none }, ?_, rfl⟩
  unfold endOne
  simp only [hk]
  rw [if_neg (by simp [he, hd])]
  show tableGet n (tableMod n _ _) = _
  rw [tableGet_tableMod, if_pos rfl, books.kernels]
  exact congrArg (Option.map _) hk

/-- A kernel has ended with a cause. -/
def EndedWith (n : Nat) (e : Nat × Nat) (s : State) : Prop := ∃ k, s.kernel n = some k ∧ k.ended = some e

/-- What the end of any kernel keeps: the host port, the machine checks, and how a kernel ended. -/
structure KeepsEnds (s t : State) : Prop where
  host : t.host = s.host
  checks : t.proctor.checks = s.proctor.checks
  ends : ∀ n e, EndedWith n e s → EndedWith n e t

theorem keepsEnds_refl (s : State) : KeepsEnds s s := ⟨rfl, rfl, fun _ _ h => h⟩

theorem keepsEnds_foldl {α : Type} {f : State → α → State} (hf : ∀ s x, KeepsEnds s (f s x)) (l : List α) (s : State) :
    KeepsEnds s (l.foldl f s) := by
  induction l generalizing s with
  | nil => exact keepsEnds_refl s
  | cons x l ih =>
    have a := hf s x
    have b := ih (f s x)
    exact ⟨b.host.trans a.host, b.checks.trans a.checks, fun n e h => b.ends n e (a.ends n e h)⟩

theorem keepsEnds_endOne (s : State) (n cause det : Nat) : KeepsEnds s (endOne s n cause det) := by
  obtain ⟨host, checks, others⟩ := endOne_keeps s n cause det
  refine ⟨host, checks, fun j e h => ?_⟩
  by_cases hj : j = n
  · subst hj
    obtain ⟨k, hk, he⟩ := h
    have dead : ¬ s.lives j = true := fun hl => by
      obtain ⟨k', hk', he', _⟩ := (lives_iff s j).1 hl
      rw [hk] at hk'; cases hk'
      rw [he] at he'; cases he'
    rw [endOne_of_not_lives dead]
    exact ⟨k, hk, he⟩
  · obtain ⟨k, hk, he⟩ := h
    exact ⟨k, (others j hj).trans hk, he⟩

theorem keepsEnds_endKernels (fuel : Nat) : ∀ (s : State) (n cause det : Nat), KeepsEnds s (endKernels fuel s n cause det) := by
  induction fuel with
  | zero => exact fun s _ _ _ => keepsEnds_refl s
  | succ fuel ih =>
    intro s n cause det
    have a := keepsEnds_endOne s n cause det
    have b := fun l => keepsEnds_foldl (fun s n => ih s n 4 0) l (endOne s n cause det)
    unfold endKernels
    exact ⟨(b _).host.trans a.host, (b _).checks.trans a.checks, fun n e h => (b _).ends n e (a.ends n e h)⟩

/-- Of kernels that end together each that lives ends with the cause. -/
theorem foldl_endOne_ends {n cause : Nat} (l : List Nat) {s : State} (hn : n ∈ l) (h : s.lives n = true) :
    EndedWith n (cause, 0) (l.foldl (fun s n => endOne s n cause 0) s) := by
  induction l generalizing s with
  | nil => cases hn
  | cons m l ih =>
    rw [List.foldl_cons]
    by_cases e : n = m
    · subst e
      exact (keepsEnds_foldl (fun s n => keepsEnds_endOne s n cause 0) l _).ends n _ (endOne_ends h cause 0)
    · refine ih ((List.mem_cons.1 hn).resolve_left e) ?_
      rw [lives_iff, (endOne_keeps s m cause 0).2.2 n e, ← lives_iff]
      exact h

theorem endTogether_nil (s : State) (cause : Nat) : endTogether s [] cause = s := by
  have noConsumers : s.sched.kernels.filter (fun e => e.2.streams.any (fun x => ([] : List Nat).contains x.1)) = [] := by
    simp [List.filter_eq_nil_iff]
  show ((s.sched.kernels.filter (fun e => e.2.streams.any (fun x => ([] : List Nat).contains x.1))).foldl _ s) = s
  rw [noConsumers]
  rfl

theorem keepsEnds_endTogether (s : State) (ns : List Nat) (cause : Nat) : KeepsEnds s (endTogether s ns cause) := by
  have a := keepsEnds_foldl (fun s n => keepsEnds_endOne s n cause 0) (ns.filter s.lives) s
  have b := fun (l : List (Nat × Kernel)) u => keepsEnds_foldl (fun s e => keepsEnds_endKernels (s.sched.kernels.length + 1) s e.1 4 0) l u
  unfold endTogether
  exact ⟨(b _ _).host.trans a.host, (b _ _).checks.trans a.checks, fun n e h => (b _ _).ends n e (a.ends n e h)⟩

theorem endTogether_ends {s : State} {ns : List Nat} {n : Nat} (cause : Nat) (hn : n ∈ ns) (h : s.lives n = true) :
    EndedWith n (cause, 0) (endTogether s ns cause) := by
  have a := foldl_endOne_ends (cause := cause) (ns.filter s.lives) (List.mem_filter.2 ⟨hn, h⟩) h
  have b := fun (l : List (Nat × Kernel)) u => keepsEnds_foldl (fun s e => keepsEnds_endKernels (s.sched.kernels.length + 1) s e.1 4 0) l u
  unfold endTogether
  exact (b _ _).ends n _ a

/-! The event. -/

/-- A link port stands to a node of the group. -/
def PortTo (s : State) (node : Nat) : Prop := ∃ p ∈ s.host.ports.toList, p.up = true ∧ p.sw = false ∧ p.peer.toNat = node

theorem portTo_iff (s : State) (node : Nat) :
    s.host.ports.any (fun p => p.up && !p.sw && p.peer.toNat == node) = true ↔ PortTo s node := by
  rw [← Vector.any_toList, List.any_eq_true, PortTo]
  simp [and_assoc]

/-- The kernels that have written where no route was left (25 R388). -/
def unroutedWriters (s : State) : List Nat :=
  (s.sched.kernels.map Prod.fst).filter (fun n => s.lives n && Config.wroteUnrouted s.tick n)

theorem mem_of_tableGet {α : Type} {k : Nat} {x : α} {t : Table α} (h : tableGet k t = some x) : (k, x) ∈ t := by
  induction t with
  | nil => cases h
  | cons e t ih =>
    obtain ⟨j, y⟩ := e
    unfold tableGet at h
    split at h
    · next hk => subst hk; cases h; simp
    · split at h
      · cases h
      · exact List.mem_cons_of_mem _ (ih h)

theorem mem_unroutedWriters (s : State) (n : Nat) : n ∈ unroutedWriters s ↔
    ∃ k, (n, k) ∈ s.sched.kernels ∧ s.kernel n = some k ∧ k.ended = none ∧ k.done = none ∧ Config.wroteUnrouted s.tick n = true := by
  unfold unroutedWriters
  rw [List.mem_filter, Bool.and_eq_true, lives_iff]
  constructor
  · rintro ⟨_, ⟨k, hk, he, hd⟩, hw⟩
    exact ⟨k, mem_of_tableGet hk, hk, he, hd, hw⟩
  · rintro ⟨k, hm, hk, he, hd, hw⟩
    exact ⟨List.mem_map.2 ⟨_, hm, rfl⟩, ⟨k, hk, he, hd⟩, hw⟩

/-- The state in which kernels end for a lost route: the node lost, machine check 0x87 raised (25 R388). -/
def routeLost (s : State) (node : Nat) : State :=
  { s with host := { s.host with lost := setAdd node s.host.lost } }.machineCheck 0x87 (!(unroutedWriters s).isEmpty) false none 0 0 0 0
    [w64 node] false

theorem routeLoss_none {s : State} {node : Nat} (h : 1024 ≤ node ∨ PortTo s node ∨ node ∈ s.host.lost) :
    exec (.routeLoss node) s = .next s := by
  refine if_pos ?_
  simp only [Bool.or_eq_true, portTo_iff, decide_eq_true_eq, List.contains_iff_mem]
  rcases h with h | h | h
  · exact .inl (.inr h)
  · exact .inl (.inl h)
  · exact .inr h

theorem routeLoss_loses {s : State} {node : Nat} (hn : node < 1024) (hp : ¬ PortTo s node) (hl : node ∉ s.host.lost) :
    exec (.routeLoss node) s = .next (endTogether (routeLost s node) (unroutedWriters s) 5) := by
  refine if_neg ?_
  simp only [Bool.or_eq_true, portTo_iff, decide_eq_true_eq, List.contains_iff_mem]
  rintro ((h | h) | h)
  · exact hp h
  · omega
  · exact hl h

end Sys2Proof.Proofs
end

section
/-! An access of another module (25 R385, R386, R388). -/

namespace Sys2Proof.Proofs

open Sys2Proof.Machine Sys2Proof.Safety

theorem touchUnits_quiet {s : State} (h : quiet s) (pa n lnum : Nat) : touchUnits s pa n lnum = s := by
  simp [touchUnits, finjUnit_quiet h]

theorem leBytes_eq_bytesOf (n v : Nat) : leBytes n v = bytesOf n v := by
  induction n generalizing v with
  | zero => rfl
  | succ n ih =>
    rw [leBytes, ih, bytesOf, bytesOf, List.range_succ_eq_map, List.map_cons, List.map_map]
    congr 1
    · rw [Nat.mul_zero, Nat.pow_zero, Nat.div_one]
    · apply List.map_congr_left
      intro k _
      simp only [Function.comp_apply, Nat.div_div_eq_div_mul]
      rw [Nat.mul_succ, Nat.pow_add, Nat.mul_comm]

theorem leValue_lt (bs : List Byte) : leValue bs < 2 ^ (8 * bs.length) := by
  induction bs with
  | nil => simp [leValue]
  | cons b bs ih =>
    have := b.isLt
    have pow : 2 ^ (8 * (bs.length + 1)) = 256 * 2 ^ (8 * bs.length) := by rw [Nat.mul_succ, Nat.pow_add, Nat.mul_comm]
    show b.toNat + 256 * leValue bs < 2 ^ (8 * (bs.length + 1))
    omega

/-- The value at an address in the bytes that claims read. -/
theorem readNat_eq (s : State) (a n : Nat) : readNat s.sys.mem a n = leValue ((List.range n).map (fun k => byteOf s (a + k))) := by
  rw [readNat, readBytes_eq_map]; rfl

/-- Two's complement of w bits (00 R7). -/
theorem sext_toNat {w : Nat} (x : BitVec w) : sext x.toNat w = x.toInt := by
  rw [sext, BitVec.toInt_eq_toNat_cond, Nat.mod_eq_of_lt x.isLt]

/-- The atomics of 11 R180 in the order in which the encoding numbers them. -/
def atomicNumbered (op : Nat) : Instr :=
  [Instr.amoswap 0 0 0 0 0 0, .amoadd 0 0 0 0 0 0, .amoand 0 0 0 0 0 0, .amoor 0 0 0 0 0 0, .amoxor 0 0 0 0 0 0, .amomin 0 0 0 0 0 0,
    .amomax 0 0 0 0 0 0, .amominu 0 0 0 0 0 0, .amomaxu 0 0 0 0 0 0, .amocas 0 0 0 0 0 0, .amold 0 0 0 0 0,
    .amost 0 0 0 0 0].getD op (.amold 0 0 0 0 0)

theorem remoteAtomic_eq (op w old data compare : Nat) : remoteAtomic op w old data compare =
    (atomicTable (BitVec.ofNat w old) (BitVec.ofNat w data) (BitVec.ofNat w compare) (atomicNumbered op)).map BitVec.toNat := rfl

/-- On w bits the meaning of an atomic and the table of 11 R180 write the same value. -/
theorem amoNew_toNat {op n : Nat} (hop : op ≤ 11) (old v cmp : BitVec (8 * n)) :
    amoNew op n old.toNat v.toNat cmp.toNat = (atomicTable old v cmp (atomicNumbered op)).map BitVec.toNat := by
  unfold atomicNumbered
  obtain rfl | rfl | rfl | rfl | rfl | rfl | rfl | rfl | rfl | rfl | rfl | rfl : op = 0 ∨ op = 1 ∨ op = 2 ∨ op = 3 ∨ op = 4 ∨ op = 5
    ∨ op = 6 ∨ op = 7 ∨ op = 8 ∨ op = 9 ∨ op = 10 ∨ op = 11 := by omega
  all_goals simp only [List.getD_cons_zero, List.getD_cons_succ, atomicTable, amoNew, sext_toNat]
  · rfl
  · simp
  · simp
  · simp
  · simp
  · simp only [Option.map_some, apply_ite BitVec.toNat, ← Int.not_lt, ite_not]
  · rcases Int.lt_trichotomy old.toInt v.toInt with h | h | h
    · simp [h, Int.le_of_lt h]
    · simp [BitVec.eq_of_toInt_eq h]
    · simp [Int.not_lt.2 (Int.le_of_lt h), Int.not_le.2 h]
  · simp only [Option.map_some, apply_ite BitVec.toNat, ← Nat.not_lt, ite_not]
  · rcases Nat.lt_trichotomy old.toNat v.toNat with h | h | h
    · simp [h, Nat.le_of_lt h]
    · simp [BitVec.eq_of_toNat_eq h]
    · simp [Nat.not_lt.2 (Nat.le_of_lt h), Nat.not_le.2 h]
  · by_cases h : old = cmp <;> simp [h, BitVec.toNat_inj]
  · rfl
  · rfl

/-- An atomic of another module writes what the table of 11 R180 says. -/
theorem amoNew_eq_remoteAtomic {op n old : Nat} (hop : op ≤ 11) (hold : old < 2 ^ (8 * n)) (v cmp : Nat) :
    amoNew op n old (v % 2 ^ (8 * n)) (cmp % 2 ^ (8 * n)) = remoteAtomic op (8 * n) old v cmp := by
  have e := amoNew_toNat hop (BitVec.ofNat (8 * n) old) (BitVec.ofNat (8 * n) v) (BitVec.ofNat (8 * n) cmp)
  rw [BitVec.toNat_ofNat, BitVec.toNat_ofNat, BitVec.toNat_ofNat, Nat.mod_eq_of_lt hold] at e
  rw [e, remoteAtomic_eq]

/-- The bytes at an address are memory of a frame that the request's domain owns here (25 R386, R396). -/
def OwnedBy (s : State) (r : RemoteRequest) (a : Nat) : Prop :=
  (∃ d, physKind a = .hbm d false) ∧ ∃ n d, frameOwner s.proctor a = some n ∧ tableGet n s.proctor.domains = some d
    ∧ d.tag = r.tag ∧ d.keyBlock = r.keyBlock

theorem remoteOwns_iff (s : State) (r : RemoteRequest) (a : Nat) : remoteOwns r s.proctor a = true ↔
    ∃ n d, frameOwner s.proctor a = some n ∧ tableGet n s.proctor.domains = some d ∧ d.tag = r.tag ∧ d.keyBlock = r.keyBlock := by
  unfold remoteOwns
  cases frameOwner s.proctor a with
  | none => simp
  | some n => cases h : tableGet n s.proctor.domains <;> simp [h]

end Sys2Proof.Proofs
end

section
/-! What the module's events come to, and their statement. -/

namespace Sys2Proof.Proofs

open Sys2Proof.Machine Sys2Proof.Safety

/-! Loss of a route. -/

section
variable {s : State} {node : Nat}

theorem routeLost_checks : (routeLost s node).proctor.checks = s.proctor.checks
    ++ [recordOf 0x87 false (!(unroutedWriters s).isEmpty) false 0 0 0 0 0 0 (s.cycle 4) [BitVec.ofNat 64 node]] :=
  machineCheck_checks _ _ _ _

theorem routeLoss_lost : node ∈ (endTogether (routeLost s node) (unroutedWriters s) 5).host.lost := by
  rw [(keepsEnds_endTogether _ _ _).host]
  exact mem_setAdd node s.host.lost

/-- With no writer the loss is reported and nothing else changes (25 R388). -/
theorem routeLoss_unwritten (unwritten : ∀ n, n ∉ unroutedWriters s) :
    let t := endTogether (routeLost s node) (unroutedWriters s) 5
    t.sys = s.sys ∧ t.threads = s.threads ∧ t.sched = s.sched ∧ t.proctor.checks = s.proctor.checks
      ++ [recordOf 0x87 false false false 0 0 0 0 0 0 (s.cycle 4) [BitVec.ofNat 64 node]] := by
  have nil : unroutedWriters s = [] := List.eq_nil_iff_forall_not_mem.2 unwritten
  have checks := routeLost_checks (s := s) (node := node)
  rw [nil] at checks
  simp only [nil, endTogether_nil]
  exact ⟨rfl, rfl, rfl, checks⟩

/-- A kernel that wrote meanwhile ends with CAUSE 5, and the record says so (25 R388). -/
theorem routeLoss_written {n : Nat} (hn : n ∈ unroutedWriters s) :
    let t := endTogether (routeLost s node) (unroutedWriters s) 5
    t.proctor.checks = s.proctor.checks ++ [recordOf 0x87 false true false 0 0 0 0 0 0 (s.cycle 4) [BitVec.ofNat 64 node]]
      ∧ EndedWith n (5, 0) t := by
  have written : (unroutedWriters s).isEmpty = false := List.isEmpty_eq_false_iff.2 (List.ne_nil_of_mem hn)
  have checks := routeLost_checks (s := s) (node := node)
  rw [written] at checks
  have lives : (routeLost s node).lives n = true := by
    have := (List.mem_filter.1 hn).2
    rw [Bool.and_eq_true] at this
    exact this.1
  exact ⟨(keepsEnds_endTogether _ _ _).checks.trans checks, endTogether_ends 5 hn lives⟩

end

/-! Another module's access. -/

/-- The home performs a request whose bytes, one to sixteen, lie at both ends in frames of its domain. -/
def RemoteMine (s : State) (r : RemoteRequest) : Prop :=
  1 ≤ r.size ∧ r.size ≤ 16 ∧ OwnedBy s r r.addr ∧ OwnedBy s r (r.addr + r.size - 1)

/-- The frames at both ends of a request belong to its domain. -/
def ownsEnds (s : State) (r : RemoteRequest) : Bool := match physKind r.addr, physKind (r.addr + r.size - 1) with
  | .hbm _ false, .hbm _ false => remoteOwns r s.proctor r.addr && remoteOwns r s.proctor (r.addr + r.size - 1)
  | _, _ => false

theorem ownsEnds_iff (s : State) (r : RemoteRequest) :
    ownsEnds s r = true ↔ OwnedBy s r r.addr ∧ OwnedBy s r (r.addr + r.size - 1) := by
  unfold ownsEnds OwnedBy
  rw [← remoteOwns_iff, ← remoteOwns_iff]
  split
  · next h1 h2 => simp [h1, h2]
  · next h =>
    refine ⟨fun e => absurd e Bool.false_ne_true, ?_⟩
    rintro ⟨⟨⟨d, h1⟩, _⟩, ⟨d', h2⟩, _⟩
    exact absurd h2 (h d d' h1)

section
variable {s : State} {r : RemoteRequest}

theorem remoteAccess_notMine (h : ¬ RemoteMine s r) : exec (.remoteAccess r) s = .next s := by
  refine if_pos (?_ : (!ownsEnds s r || decide (r.size = 0) || decide (16 < r.size)) = true)
  rw [Bool.or_eq_true, Bool.or_eq_true, decide_eq_true_eq, decide_eq_true_eq]
  cases owned : ownsEnds s r with
  | false => exact .inl (.inl rfl)
  | true =>
    have sized : ¬ (1 ≤ r.size ∧ r.size ≤ 16) := fun size => h ⟨size.1, size.2, (ownsEnds_iff s r).1 owned⟩
    rw [or_assoc]
    exact .inr (by omega)

/-- A request that the home performs: a store, nothing, or an atomic (25 R385, 07 R131). -/
theorem remoteAccess_mine (hq : quiet s) (h : RemoteMine s r) : exec (.remoteAccess r) s = .next (
    if r.op = 1 then s.store r.addr (leBytes r.size r.data) false
    else if r.op = 0 ∨ (poisonAt s.sys r.addr r.size).isSome = true then s
    else ((amoNew (r.op - 2) r.size (readNat s.sys.mem r.addr r.size) (r.data % 2 ^ (8 * r.size)) (r.compare % 2 ^ (8 * r.size))).map
      (fun x => s.store r.addr (leBytes r.size x) false)).getD s) := by
  obtain ⟨h1, h16, owned⟩ := h
  have enter : ¬ (!ownsEnds s r || decide (r.size = 0) || decide (16 < r.size)) = true := by
    have e := (ownsEnds_iff s r).2 owned
    simp [e]; omega
  refine (if_neg enter).trans ?_
  simp only [touchUnits_quiet hq, Bool.or_eq_true, decide_eq_true_eq]
  split
  · rfl
  · split
    · rfl
    · cases amoNew (r.op - 2) r.size (readNat s.sys.mem r.addr r.size) (r.data % 2 ^ (8 * r.size)) (r.compare % 2 ^ (8 * r.size)) <;> rfl

theorem length_bytesOf (n v : Nat) : (bytesOf n v).length = n := by simp [bytesOf]

/-- A store by another module: its bytes, and the Proctor, the threads and the rest of the machine as they were. -/
theorem remoteStore_storedAt (hm : Memory.wf s.sys.mem = true) (hg : cellsWf s.sys.granules = true) (h : RemoteMine s r) (v : Nat) :
    StoredAt s (s.store r.addr (leBytes r.size v) false) r.addr (bytesOf r.size v) false := by
  rw [leBytes_eq_bytesOf]
  exact storedAt_store hm hg _ _ (by rw [length_bytesOf]; exact h.1) _

theorem store_sameSurroundings (s : State) (pa : Nat) (bs : List Byte) (fill : Bool) : SameSurroundings s (s.store pa bs fill) := by
  constructor <;> simp

theorem remoteAccess_load (hq : quiet s) (h : r.op = 0) : exec (.remoteAccess r) s = .next s := by
  by_cases mine : RemoteMine s r
  · rw [remoteAccess_mine hq mine, if_neg (by omega), if_pos (.inl h)]
  · exact remoteAccess_notMine mine

theorem remoteAccess_poisoned (hq : quiet s) (h : RemoteMine s r) (hop : 2 ≤ r.op) (hp : poisonAt s.sys r.addr r.size ≠ none) :
    exec (.remoteAccess r) s = .next s := by
  rw [remoteAccess_mine hq h, if_neg (by omega), if_pos (.inr (Option.isSome_iff_ne_none.2 hp))]

/-- An atomic by another module writes what the table of 11 R180 says. -/
theorem remoteAccess_atomic (hq : quiet s) (h : RemoteMine s r) (hop : 2 ≤ r.op) (hop' : r.op ≤ 13)
    (hp : poisonAt s.sys r.addr r.size = none) {x : Nat}
    (hx : remoteAtomic (r.op - 2) (8 * r.size) (leValue ((List.range r.size).map (fun k => byteOf s (r.addr + k)))) r.data r.compare = some x) :
    exec (.remoteAccess r) s = .next (s.store r.addr (leBytes r.size x) false) := by
  have old : leValue ((List.range r.size).map (fun k => byteOf s (r.addr + k))) < 2 ^ (8 * r.size) := by
    simpa using leValue_lt ((List.range r.size).map (fun k => byteOf s (r.addr + k)))
  rw [← amoNew_eq_remoteAtomic (by omega) old, ← readNat_eq] at hx
  rw [remoteAccess_mine hq h, if_neg (by omega), if_neg (by simp [hp]; omega), hx]
  rfl

end

/-! Heat. -/

theorem held_own {s t : State} {r : SensorReading} {bit hold : Bool} (h : Held s t r bit hold) : Held s t r t.host.hotBit t.sched.hot := by
  obtain rfl := h.hotBit
  obtain rfl := h.hot
  exact h

section
variable {s : State} {r : SensorReading}

/-- The junction's register shows the reading taken (25 R379). -/
theorem readDevice_setSensor {t : State} (hd : r.die < 5) (hs : r.sensor < 8) (ht : r.temp < 65536)
    (h : t.proctor.sensors = (setSensor s r).proctor.sensors) : readDevice t (sensorRegister r) = some (BitVec.ofNat 64 r.temp) := by
  rw [readDevice_sensor t r hd hs, h, setSensor_eq hd hs]
  have : r.temp % 65536 = r.temp := by omega
  simp [w64, this]

/-- The record of the hold's entry names the sensor just read where no other shows above 105 °C (23 R426). -/
theorem enterRecord_eq (hd : r.die < 5) (hs : r.sensor < 8) (ht : r.temp < 65536) (hk : keysRise s.proctor.sensors = true) {x : Nat × BitVec 16}
    (hx : hotter (setSensor s r) 105 = some x) (others : ∀ y ∈ s.proctor.sensors, y.1 ≠ r.die * 8 + r.sensor → y.2.toNat ≤ 105 * 256) :
    [w64 (x.1 / 8), w64 (x.1 % 8), w64 x.2.toNat] = ([r.die, r.sensor, r.temp] : List Nat).map (BitVec.ofNat 64) := by
  obtain rfl := hotter_eq_of_others hd hs hk hx others
  have die : (r.die * 8 + r.sensor) / 8 = r.die := by omega
  have sensor : (r.die * 8 + r.sensor) % 8 = r.sensor := by omega
  have temp : r.temp % 65536 = r.temp := by omega
  simp [sensorKey, die, sensor, temp, w64]

end

/-! Bring-up. -/

/-- The number and the bridge of a module that joins a group (25 R384, R390). -/
theorem joinGroup_number_and_bridge (h : HostSys) {b : BringUp} {n : Nat} (tick : Nat) (hn : n < 1024) (hb : ∀ m ∈ b.bridges, m < 1024) :
    let j := joinGroup h b tick n
    j.node.toNat = n ∧ (ableNodes b n = [] → j.brn = 0x7FF ∧ j.bridge = false)
      ∧ (ableNodes b n ≠ [] → j.brn.toNat ∈ ableNodes b n ∧ (∀ m ∈ ableNodes b n, j.brn.toNat ≤ m) ∧ (j.bridge = true ↔ j.brn.toNat = n)) := by
  have low : ∀ m ∈ ableNodes b n, m < 1024 := by
    intro m hm
    rcases List.mem_append.1 hm with hm | hm
    · split at hm
      · rw [List.mem_singleton.1 hm]; exact hn
      · cases hm
    · exact hb m hm
  refine ⟨?_, fun e => joinGroup_bridge_none e h tick, fun e => joinGroup_bridge_some e low h tick⟩
  rw [(joinGroup_keeps h b tick n).1, BitVec.toNat_ofNat]
  omega

/-- Settles O51: each event by what it comes to, the loss of a route by the invariant that the end of a kernel keeps how others ended. -/
theorem moduleEvents : Obligations.ModuleEvents := by
  unfold Obligations.ModuleEvents
  refine ⟨fun s => ⟨_, rfl, lostPower_powerLost s⟩, fun s b h => powerOn_of_power b h, fun s b h => ?_, fun s r e hd hs ht hk he => ?_,
    fun s port peer sw x hp hpeer hx => ?_, fun s node host => ⟨rfl, ⟨fun hn hp hl => ?_, fun h => routeLoss_none h⟩, hostPortTrain_bridge s host⟩,
    fun s r hq hm hg => ?_⟩
  · by_cases fails : ∃ code, StepFails s b code
    · obtain ⟨code, hf⟩ := fails
      obtain ⟨t, run, sys, threads, serial, power, fail, ready, running, started⟩ := powerOn_fails h hf
      refine ⟨t, run, sys, threads, serial, fun c hc => ?_, fun ends => absurd hf (ends code)⟩
      obtain rfl : code = c := Option.some.inj (((bringUpFails_eq_some_iff s b code).2 hf).symm.trans ((bringUpFails_eq_some_iff s b c).2 hc))
      exact ⟨power, fail, ready, running, fun h5 => started_reads (started h5)⟩
    · obtain ⟨t, run, sys, threads, serial, power, ready, fail, started, alone, group⟩ := powerOn_ends h (not_exists.1 fails)
      refine ⟨t, run, sys, threads, serial, fun c hc => absurd ⟨c, hc⟩ fails, fun _ => ⟨power, ready, fail, started_reads started, alone, ?_⟩⟩
      intro n hn hlt hall
      obtain ⟨j, g, rfl, node, brn, bridge⟩ := group n hn
      rw [node, brn, bridge]
      exact joinGroup_number_and_bridge g s.tick hlt hall
  · refine ⟨fun m => ⟨_, thermal_eq he s, senseHeat_melts ((melts_iff hd hs ht hk).2 m)⟩, fun m => ⟨_, thermal_eq he s, ?_⟩⟩
    have cool := Bool.eq_false_iff.2 (fun c => m ((melts_iff hd hs ht hk).1 c))
    have held := senseHeat_held cool
    have own := held_own held
    refine ⟨readDevice_setSensor hd hs ht held.sensors, held.power, held.sys, held.threads, ?_, ?_, held.sched, own.scan, own.signals, own.calm, ?_⟩
    · rw [held.hotBit, hotter_isSome_iff hd hs ht hk]
    · rw [held.hot, Bool.or_eq_true, Bool.and_eq_true, hotter_isSome_iff hd hs ht hk, hotter_isSome_iff hd hs ht hk]
    · intro h h' others
      obtain ⟨x, above, checks⟩ := own.alarm h h'
      rw [checks, enterRecord_eq hd hs ht hk above others]
  · exact ⟨flitRetry_onlyPort hp hx, linkPortFail_onlyPort hp hx, linkPortTrain_none sw hp hpeer,
      fun alone known able verifies => linkPortTrain_forged sw hp hpeer alone known able verifies,
      fun alone keys => linkPortTrain_trains sw hp hpeer hx alone keys⟩
  · refine ⟨_, routeLoss_loses hn (fun ⟨p, hm, hto⟩ => hp p hm hto) hl, routeLoss_lost, fun unwritten => ?_, fun n k wrote => ?_⟩
    · refine routeLoss_unwritten (fun n hn => ?_)
      obtain ⟨k, wrote⟩ := (mem_unroutedWriters s n).1 hn
      exact unwritten n k wrote
    · exact routeLoss_written ((mem_unroutedWriters s n).2 ⟨k, wrote⟩)
  · refine ⟨fun h => ?_, fun mine hop => ?_, fun mine hop _ hp => remoteAccess_poisoned hq mine hop hp, fun x mine hop hop' hp hx => ?_⟩
    · rcases h with h | h
      · exact remoteAccess_notMine h
      · exact remoteAccess_load hq h
    · have run := remoteAccess_mine hq mine
      rw [if_pos hop] at run
      exact ⟨_, run, remoteStore_storedAt hm hg mine r.data, rfl, rfl, store_sameSurroundings ..⟩
    · exact ⟨_, remoteAccess_atomic hq mine hop hop' hp hx, remoteStore_storedAt hm hg mine x, store_sameSurroundings ..⟩

end Sys2Proof.Proofs
end

section
/-! SUPPORT. What a boundary instruction does before its own part (03 R46, R60). -/

namespace Sys2Proof.Proofs

open Sys2Proof.Machine Sys2Proof.Safety

/-- SETVL, VAMO, VTBLLD and VEND are boundary instructions. -/
theorem exec_boundary {i : Instr} {f : VFields} (h : i = .setvl f ∨ i = .vamo f ∨ i = .vtblld f ∨ i = .vend f) :
    ∃ after, ∀ s, exec i s = runBoundary i s after := by
  rcases h with rfl | rfl | rfl | rfl
  all_goals exact ⟨_, fun _ => rfl⟩

theorem setWaiting_sequencer {s : State} {tid : Nat} (ha : s.actor = .sequencer tid) (i : Option Instr) :
    s.setWaiting i = s.modGroup tid (fun g => { g with waiting := i }) := by
  simp [State.setWaiting, ha]

/-- A change of the group alone leaves everything else of the state. -/
theorem onlyGroup_modGroup {s : State} {tid : Nat} {v : VCtx} (hv : vctx s tid = some v) (f : Group → Group) :
    OnlyGroup s (s.modGroup tid f) v { v.t with group := some (f v.g) } := by
  obtain ⟨rfl, ht, hg⟩ := vctx_some hv
  refine ⟨⟨rfl, rfl, rfl, rfl, rfl, rfl, rfl, rfl, rfl, rfl⟩, rfl, rfl, fun j => ?_⟩
  rw [State.thread_modGroup]
  split
  · next h => simp [h, ht, hg]
  · rfl

section
variable {s : State} {tid : Nat} {v : VCtx} (ha : s.actor = .sequencer tid) (hv : vctx s tid = some v)
  (i : Instr) (after : State → VCtx → State × Option Stop)
include ha hv

theorem runBoundary_pending (hp : v.g.core.pending ≠ []) :
    runBoundary i s after = .next (deliverFault s v.tid true (faultOf 12 [45, v.iaddr.toNat])) := by
  obtain ⟨rfl, -, -⟩ := vctx_some hv
  simp [runBoundary, ha, hv, hp]

theorem runBoundary_waits (hp : v.g.core.pending = []) (hb : (toBoundary s tid).2 = false) :
    runBoundary i s after = .next ((toBoundary s tid).1.setWaiting (some i)) := by
  have hb : toBoundary s tid = ((toBoundary s tid).1, false) := by rw [← hb]
  simp only [runBoundary, ha, hv, hp, List.isEmpty_nil, Bool.not_true, Bool.false_eq_true, if_false]
  rw [hb]

/-- Once the strip has committed, the instruction goes on from the state that the commit left. -/
theorem runBoundary_committed {t : State} {x : VCtx} (hp : v.g.core.pending = []) (hb : toBoundary s tid = (t, true))
    (ht : t.actor = s.actor) (hx : vctx t tid = some x) (hxp : x.g.core.pending = []) (hagain : toBoundary t tid = (t, true)) :
    runBoundary i s after = runBoundary i t after := by
  simp only [runBoundary, ha, ht, hv, hx, hp, hxp, hb, hagain, List.isEmpty_nil, Bool.not_true, Bool.false_eq_true, if_false]

end

/-- Where an array operation of the strip is queued, the strip waits as it is (17 R273). -/
theorem toBoundary_queued {s : State} {tid : Nat} {v : VCtx} (hv : vctx s tid = some v) (hs : v.g.strip ≠ none)
    (hq : ∃ op ∈ v.g.queue, op.outside = false) : toBoundary s tid = (s, false) := by
  obtain ⟨-, ht, hg⟩ := vctx_some hv
  obtain ⟨st, hst⟩ := Option.ne_none_iff_exists'.1 hs
  have hany : v.g.queue.any (fun op => !op.outside) = true := by simpa using hq
  simp [toBoundary, ht, hg, hst, hany]

/-- Settles O29, each clause by what runBoundary does at the point it speaks of. -/
theorem boundaryCommits : Obligations.BoundaryCommits := by
  unfold Obligations.BoundaryCommits
  intro s tid v i f ha hv hi
  obtain ⟨after, hrun⟩ := exec_boundary hi
  simp only [VectorFaults, VectorWaits, GroupBecomes, hrun]
  refine ⟨runBoundary_pending ha hv i after, fun hp hs hq => ?_, runBoundary_waits ha hv i after, fun hp hb hx hagain hxp hact => ?_⟩
  · have hstay := toBoundary_queued hv hs hq
    refine ⟨s.modGroup tid (fun g => { g with waiting := some i }), ?_, onlyGroup_modGroup hv _, rfl⟩
    rw [runBoundary_waits ha hv i after hp (by rw [hstay]), hstay, setWaiting_sequencer ha]
  · obtain ⟨x, hx⟩ := Option.isSome_iff_exists.1 hx
    rw [hx, Option.map_some, Option.some_inj] at hxp
    exact runBoundary_committed ha hv i after hp (by rw [← hb]) hact hx hxp hagain

end Sys2Proof.Proofs
end

section
/-! SUPPORT. A sequencer that waits in VWLI, and what its wake-up leaves. -/

namespace Sys2Proof.Proofs

open Sys2Proof.Machine Sys2Proof.Safety

/-- VECTOR_INTERLOCK_RESUME has a waiting VWLI executed again. -/
theorem vectorInterlockResume_vwli {s : State} {tid : Nat} {f : VFields} (h : Asleep s tid (.vwli f)) :
    exec (.vectorInterlockResume tid) s = exec (.vwli f) (againVector s tid) := by
  obtain ⟨g, hg, hw, hf, hs⟩ := h
  have : exec (.vectorInterlockResume tid) s = wakeGroup s tid vectorOf := rfl
  simp only [this, wakeGroup, hg, hw, hf, hs, Option.isSome_none, Bool.or_self, Bool.false_eq_true, if_false]
  rfl

/-- VWLI writes its immediate in a w register (15 R261). -/
theorem exec_vwli_ready {s : State} {tid : Nat} {v : VCtx} {f : VFields} (h : Ready s tid v (.vwli f)) :
    exec (.vwli f) s = .next (v.next (v.setW s f.vd (BitVec.ofInt 64 (sext (fnField f 23 0) 24))) 8) :=
  runVector_ready h

/-- VWLI of 1 in w1. -/
def oneIntoW1 : VFields := ⟨1, 0, 0, 0, 0, false, 0, 1⟩

/-- A control thread of the first core whose group of one block waits in that VWLI, with VL 0. -/
def waitingThread : Thread :=
  { ctx := ScalarCtx.zero, trbase := 0, satb := 0, pend := 0, att := 1, lnum := 0, form := 0, res := 0, f := 0, waiting := none,
    acked := false, faulted := false, poisoned := false, stopped := false, role := .solo, events := [], eventNo := 1,
    group := some { Group.start 0 1 with waiting := some (.vwli oneIntoW1) }, partners := [], partnerLanes := 1, loader := none,
    lastSave := none, stopCyc := 0 }

/-- A module that has no other thread. -/
def waitingState : State := { State.reset with threads := [(0, waitingThread)] }

/-- The group as it executes the VWLI again. -/
def wokenCtx : VCtx :=
  { tid := 0, t := { waitingThread with group := some (Group.start 0 1) }, g := Group.start 0 1, parts := [⟨0, 0, 0, 0, 32⟩],
    iaddr := 0 }

theorem waitingState_asleep : Asleep waitingState 0 (.vwli oneIntoW1) := ⟨_, rfl, rfl, rfl, rfl⟩

theorem waitingState_ready : Ready (againVector waitingState 0) 0 wokenCtx (.vwli oneIntoW1) where
  actor := rfl
  ctx := by decide +kernel
  queue := rfl
  recessed := fun _ => rfl
  am := fun _ => rfl
  unbound := fun _ _ => rfl
  taken := fun _ _ _ hx => absurd hx List.not_mem_nil
  unmarked := fun _ _ _ hm => absurd hm List.not_mem_nil

theorem waitingState_placed : Placed (againVector waitingState 0) wokenCtx where
  lanes := fun p hp => by
    rw [List.mem_singleton.1 hp]
    decide
  apart := List.pairwise_singleton ..
  vregs := rfl
  masks := rfl
  slices := rfl
  tags := rfl

/-- w1 once the VWLI has executed again. -/
theorem wokenCtx_w1 : (((wokenCtx.next (wokenCtx.setW (againVector waitingState 0) oneIntoW1.vd
    (BitVec.ofInt 64 (sext (fnField oneIntoW1 23 0) 24))) 8).thread 0).bind (fun t => t.group.map (fun g => g.core.w[1]))) = some 1 := by
  decide +kernel

/-- Refutes O48: its first clause speaks of every vector instruction once no element is to be worked, and a group with VL 0
that waits in VWLI goes on with a w register written, where the clause has its w registers as they were. -/
theorem not_sequencerEvents : ¬ Obligations.SequencerEvents := by
  unfold Obligations.SequencerEvents
  rintro ⟨resumes, -⟩
  obtain ⟨t, ht, wrote⟩ := resumes waitingState 0 wokenCtx (.vwli oneIntoW1) _ oneIntoW1 (fun _ => (0, 0)) waitingState_asleep
    waitingState_ready waitingState_placed (by decide +kernel) rfl (Nat.zero_le _) ⟨rfl, fun st h => by cases h⟩
    (fun e he => absurd he (Nat.not_lt_zero e))
  rw [vectorInterlockResume_vwli waitingState_asleep, exec_vwli_ready waitingState_ready] at ht
  obtain rfl := Host.Outcome.next.inj ht
  obtain ⟨tags, marks, only, -⟩ := wrote.group
  have w1 := wokenCtx_w1
  rw [(only.threads 0).trans (if_pos rfl)] at w1
  exact absurd (Option.some.inj w1 : (0 : Word) = 1) (by decide)

end Sys2Proof.Proofs
end

section
/-! SUPPORT. Bytes under a bit mask: a masked store to memory, byte by byte (03 R48). -/

namespace Sys2Proof.Proofs

open Sys2Proof.Machine Sys2Proof.Safety

/-- Numbers without a bit in common add as they join. -/
theorem add_eq_or_of_and_eq_zero {x y : Nat} (h : x &&& y = 0) : x + y = x ||| y := by
  have hx : x < 2 ^ (x + y) := Nat.lt_of_le_of_lt (Nat.le_add_right x y) Nat.lt_two_pow_self
  have hy : y < 2 ^ (x + y) := Nat.lt_of_le_of_lt (Nat.le_add_left y x) Nat.lt_two_pow_self
  have hv : BitVec.ofNat (x + y) x &&& BitVec.ofNat (x + y) y = 0#(x + y) := by
    apply BitVec.eq_of_toNat_eq
    simp [Nat.mod_eq_of_lt hx, Nat.mod_eq_of_lt hy, h]
  have hadd := congrArg BitVec.toNat (BitVec.add_eq_or_of_and_eq_zero _ _ hv)
  simpa [Nat.mod_eq_of_lt hx, Nat.mod_eq_of_lt hy, Nat.mod_eq_of_lt Nat.lt_two_pow_self] using hadd

/-- The bits of x where a mask of n bits has them, and y's elsewhere. -/
theorem testBit_masked {n m : Nat} (hm : m < 2 ^ n) (x y i : Nat) :
    ((x &&& m) + (y &&& (2 ^ n - 1 - m))).testBit i = if m.testBit i then x.testBit i else decide (i < n) && y.testBit i := by
  have rest (j : Nat) : (2 ^ n - 1 - m).testBit j = (decide (j < n) && !m.testBit j) := by
    rw [Nat.sub_sub, Nat.add_comm 1 m, Nat.testBit_two_pow_sub_succ hm]
  have apart : (x &&& m) &&& (y &&& (2 ^ n - 1 - m)) = 0 := by
    apply Nat.eq_of_testBit_eq
    intro j
    simp only [Nat.testBit_and, rest, Nat.zero_testBit]
    cases m.testBit j <;> simp
  rw [add_eq_or_of_and_eq_zero apart, Nat.testBit_or, Nat.testBit_and, Nat.testBit_and, rest]
  cases m.testBit i <;> simp [Bool.and_comm]

/-- A byte of a number. -/
theorem field_byte (x k : Nat) : field x (8 * k + 7) (8 * k) = x / 2 ^ (8 * k) % 2 ^ 8 := by
  have width : 8 * k + 7 + 1 - 8 * k = 8 := by omega
  rw [field, width, Nat.shiftRight_eq_div_pow]

theorem testBit_field_byte (x k j : Nat) : (field x (8 * k + 7) (8 * k)).testBit j = (decide (j < 8) && x.testBit (8 * k + j)) := by
  rw [field_byte, Nat.testBit_mod_two_pow, Nat.testBit_div_two_pow, Nat.add_comm j]

/-- The bytes of a masked store are those of its value under the mask's bytes. -/
theorem byte_masked {size k : Nat} (hk : k < size) (value mask old : Nat) :
    BitVec.ofNat 8 (((value &&& mask % 2 ^ (8 * size)) + (old &&& (2 ^ (8 * size) - 1 - mask % 2 ^ (8 * size)))) / 2 ^ (8 * k)) =
      BitVec.ofNat 8 ((field value (8 * k + 7) (8 * k) &&& field mask (8 * k + 7) (8 * k))
        + (field old (8 * k + 7) (8 * k) &&& (255 - field mask (8 * k + 7) (8 * k)))) := by
  have hm : mask % 2 ^ (8 * size) < 2 ^ (8 * size) := Nat.mod_lt _ (Nat.two_pow_pos _)
  have hf : field mask (8 * k + 7) (8 * k) < 2 ^ 8 := by
    rw [field_byte]
    exact Nat.mod_lt _ (Nat.two_pow_pos _)
  apply BitVec.eq_of_getLsbD_eq
  intro j hj
  have inside : 8 * k + j < 8 * size := by omega
  rw [show 255 = 2 ^ 8 - 1 from rfl, BitVec.getLsbD_ofNat, BitVec.getLsbD_ofNat, Nat.testBit_div_two_pow, testBit_masked hm,
    testBit_masked hf]
  simp [testBit_field_byte, Nat.testBit_mod_two_pow, inside, hj, Nat.add_comm j]

/-- A byte of the number that n bytes of memory make. -/
theorem field_leValue {bs : List Byte} {k : Nat} (hk : k < bs.length) : field (leValue bs) (8 * k + 7) (8 * k) = bs[k].toNat := by
  rw [field_byte]
  induction bs generalizing k with
  | nil => exact absurd hk (Nat.not_lt_zero k)
  | cons b bs ih =>
    have hb := b.isLt
    cases k with
    | zero => simp only [leValue, List.getElem_cons_zero]; omega
    | succ k =>
      have next : leValue (b :: bs) / 2 ^ (8 * (k + 1)) = leValue bs / 2 ^ (8 * k) := by
        have low : (b.toNat + 256 * leValue bs) / 256 = leValue bs := by omega
        rw [leValue, Nat.mul_succ, Nat.add_comm (8 * k) 8, Nat.pow_add, ← Nat.div_div_eq_div_mul]
        exact congrArg (· / 2 ^ (8 * k)) low
      rw [next, List.getElem_cons_succ]
      exact ih (Nat.lt_of_succ_lt_succ hk)

theorem field_readNat {s : State} {a n k : Nat} (hk : k < n) :
    field (readNat s.sys.mem a n) (8 * k + 7) (8 * k) = (byteOf s (a + k)).toNat := by
  rw [readNat_eq, field_leValue (by simpa using hk)]
  simp

theorem length_leBytes (n v : Nat) : (leBytes n v).length = n := by rw [leBytes_eq_bytesOf, length_bytesOf]

theorem getElem_leBytes {n v k : Nat} (hk : k < (leBytes n v).length) : (leBytes n v)[k] = BitVec.ofNat 8 (v / 2 ^ (8 * k)) := by
  simp [leBytes_eq_bytesOf, bytesOf]

end Sys2Proof.Proofs
end

section
/-! SUPPORT. What a boundary leaves of memory and of a committed group: blocks that move, spans that change (03 R39, R55). -/

namespace Sys2Proof.Proofs

open Sys2Proof.Machine Sys2Proof.Safety

/-- The thread has these registers, and its group has no open strip and this VSSN. -/
def CommittedAt (s : State) (tid : Nat) (c : ScalarCtx) (n : Word) : Prop :=
  ∃ x g, s.thread tid = some x ∧ x.group = some g ∧ x.ctx = c ∧ g.strip = none ∧ g.core.vssn = n

/-- Memory is as it was, and every committed group still stands as it did. -/
structure KeepsCommits (s t : State) : Prop where
  mem : t.sys.mem = s.sys.mem
  commits : ∀ tid c n, CommittedAt s tid c n → CommittedAt t tid c n

theorem keepsCommits_refl (s : State) : KeepsCommits s s := ⟨rfl, fun _ _ _ h => h⟩

theorem keepsCommits_trans {s t u : State} (h : KeepsCommits s t) (k : KeepsCommits t u) : KeepsCommits s u :=
  ⟨k.mem.trans h.mem, fun tid c n hc => k.commits tid c n (h.commits tid c n hc)⟩

theorem keepsCommits_foldl {α : Type} {f : State → α → State} (hf : ∀ s x, KeepsCommits s (f s x)) (l : List α) (s : State) :
    KeepsCommits s (l.foldl f s) := by
  induction l generalizing s with
  | nil => exact keepsCommits_refl s
  | cons x l ih => exact keepsCommits_trans (hf s x) (ih _)

/-- A change that leaves memory and the threads. -/
theorem keepsCommits_of_threads {s t : State} (hm : t.sys.mem = s.sys.mem) (ht : t.threads = s.threads) : KeepsCommits s t :=
  ⟨hm, fun tid c n => by simp only [CommittedAt, State.thread, ht]; exact id⟩

/-- A change of one thread that leaves its registers, the strip and the VSSN of its group. -/
theorem keepsCommits_putThread {s : State} {tid : Nat} {x y : Thread} {g h : Group} (hx : s.thread tid = some x)
    (hg : x.group = some g) (hh : y.group = some h) (ctx : y.ctx = x.ctx) (strip : h.strip = g.strip)
    (vssn : h.core.vssn = g.core.vssn) : KeepsCommits s (s.putThread tid y) := by
  refine ⟨rfl, fun j c n ⟨x', g', hx', hg', hc, hs, hn⟩ => ?_⟩
  by_cases hj : j = tid
  · subst hj
    obtain rfl := Option.some.inj (hx.symm.trans hx')
    obtain rfl := Option.some.inj (hg.symm.trans hg')
    exact ⟨y, h, by rw [State.thread_putThread, if_pos rfl], hh, ctx.trans hc, strip.trans hs, vssn.trans hn⟩
  · exact ⟨x', g', by rw [State.thread_putThread, if_neg hj, hx'], hg', hc, hs, hn⟩

theorem keepsCommits_modGroup (f : Group → Group) (strip : ∀ g, (f g).strip = g.strip) (vssn : ∀ g, (f g).core.vssn = g.core.vssn)
    (s : State) (tid : Nat) : KeepsCommits s (s.modGroup tid f) := by
  refine ⟨rfl, fun j c n ⟨x, g, hx, hg, hc, hs, hn⟩ => ?_⟩
  by_cases hj : j = tid
  · exact ⟨{ x with group := some (f g) }, f g, by rw [State.thread_modGroup, if_pos hj, hx, Option.map_some, hg]; rfl, rfl, hc,
      (strip g).trans hs, (vssn g).trans hn⟩
  · exact ⟨x, g, by rw [State.thread_modGroup, if_neg hj, hx], hg, hc, hs, hn⟩

theorem keepsCommits_zeroLanes (s : State) (parts : List Part) : KeepsCommits s (zeroLanes s parts) :=
  keepsCommits_of_threads rfl rfl

theorem keepsCommits_moveBlocks (s : State) (core slot : Nat) : KeepsCommits s (moveBlocks s core slot) := by
  simp only [moveBlocks]
  split
  · exact keepsCommits_refl s
  · exact keepsCommits_of_threads rfl rfl

theorem keepsCommits_takeRun (s : State) (tid : Nat) : KeepsCommits s (takeRun s tid) := by
  unfold takeRun
  split
  · exact keepsCommits_refl s
  next x hx =>
  split
  · exact keepsCommits_refl s
  next g hg =>
  have put (h : Group) (strip : h.strip = g.strip) (vssn : h.core.vssn = g.core.vssn) : KeepsCommits s (s.putGroup tid h) := by
    rw [State.putGroup, modThread_eq_put hx]
    exact keepsCommits_putThread hx hg rfl rfl strip vssn
  simp only
  split
  · exact put _ rfl rfl
  · exact keepsCommits_trans (put (g.relaned _ _ _) rfl rfl) (keepsCommits_zeroLanes _ _)

theorem keepsCommits_reseat (s : State) (tid : Nat) : KeepsCommits s (reseat s tid) := by
  have settle (s : State) (core : Nat) : KeepsCommits s (settleIdle s core) :=
    keepsCommits_trans (keepsCommits_foldl (fun s k => keepsCommits_moveBlocks s core k) _ s)
      (keepsCommits_foldl (fun s k => keepsCommits_takeRun s (core * 8 + k)) _ _)
  exact keepsCommits_trans (keepsCommits_trans (keepsCommits_moveBlocks s _ _) (keepsCommits_takeRun _ tid)) (settle _ _)

theorem tableGet_map_values {α : Type} (f : α → α) (k : Nat) (t : Table α) :
    tableGet k (t.map (fun e => (e.1, f e.2))) = (tableGet k t).map f := by
  induction t with
  | nil => rfl
  | cons e t ih =>
    simp only [List.map_cons, tableGet]
    split
    · rfl
    · split
      · rfl
      · exact ih

/-- A group whose links no longer name a member. -/
def unlinkGroup (m : Member) (g : Group) : Group :=
  { g with core := { g.core with links := g.core.links.map (fun e => (e.1, unlink m e.2)) } }

theorem thread_clearLinksTo (s : State) (m : Member) (j : Nat) :
    (clearLinksTo s m).thread j = (s.thread j).map (fun x => { x with group := x.group.map (unlinkGroup m) }) :=
  tableGet_map_values (fun x : Thread => { x with group := x.group.map (unlinkGroup m) }) j s.threads

theorem keepsCommits_clearLinksTo (s : State) (m : Member) : KeepsCommits s (clearLinksTo s m) :=
  ⟨rfl, fun j _ _ ⟨x, g, hx, hg, hc, hs, hn⟩ => ⟨{ x with group := some (unlinkGroup m g) }, unlinkGroup m g,
    by rw [thread_clearLinksTo, hx, Option.map_some, hg, Option.map_some], rfl, hc, hs, hn⟩⟩

theorem keepsCommits_spanChange (s : State) (tid : Nat) : KeepsCommits s (spanChange s tid) := by
  unfold spanChange
  split
  · exact keepsCommits_refl s
  next x hx =>
  split
  · exact keepsCommits_refl s
  next g hg =>
  split
  · exact keepsCommits_refl s
  · refine keepsCommits_trans (keepsCommits_trans ?_ (keepsCommits_zeroLanes _ _))
      (keepsCommits_foldl (fun s p => keepsCommits_clearLinksTo s _) _ _)
    exact keepsCommits_putThread hx hg rfl rfl rfl rfl

/-- A change of a group that leaves it as it stands changes nothing. -/
theorem modGroup_self {s : State} {tid : Nat} {x : Thread} {g : Group} {f : Group → Group} (hx : s.thread tid = some x)
    (hg : x.group = some g) (hf : f g = g) : s.modGroup tid f = s := by
  have same : { x with group := x.group.map f } = x := by rw [hg, Option.map_some, hf, ← hg]
  rw [modGroup_eq_put hx, same, putThread_self hx]

/-- A group with what it has is that group. -/
theorem group_with_own {g : Group} {issues : List Effect} {leaving outgoing : Table (List LinkEntry)} (hi : issues = g.issues)
    (hl : leaving = g.leaving) (ho : outgoing = g.outgoing) :
    { g with issues := issues, leaving := leaving, outgoing := outgoing } = g := by
  subst hi hl ho
  rfl

/-- What is left of a commit that had nothing to issue and no results to deliver: the seating and the spans. -/
theorem keepsCommits_settleBoundary {s : State} {tid : Nat} {x : Thread} {g : Group} (hx : s.thread tid = some x)
    (hg : x.group = some g) (strip : g.strip = none) (issues : g.issues = []) (leaving : g.leaving = []) (outgoing : g.outgoing = []) :
    KeepsCommits s (settleBoundary s tid).1 := by
  have group : s.group tid = some g := by rw [State.group, hx, Option.bind_some, hg]
  have nothing : s.modGroup tid (fun g =>
      { g with issues := [], leaving := [], outgoing := if g.strip.isSome then g.outgoing else [] }) = s :=
    modGroup_self hx hg (group_with_own issues.symm leaving.symm (by rw [strip]; exact outgoing.symm))
  have push : pushLeaving s tid = s := by
    simp only [pushLeaving, group, leaving, List.foldl_nil]
    exact modGroup_self hx hg (group_with_own rfl leaving.symm rfl)
  simp only [settleBoundary, group, issues, issueAll, strip, leaving, outgoing, joinEntries, List.foldl_nil, Option.isSome_none,
    Bool.false_eq_true, if_false]
  simp only [nothing, push, group, hx, hg, leaving, Option.map_some, Option.getD_some, List.isEmpty_nil, Bool.not_true, Bool.or_self,
    Bool.false_eq_true, if_false]
  split
  · exact keepsCommits_refl s
  split
  · exact keepsCommits_refl s
  split
  · exact keepsCommits_trans (keepsCommits_trans (keepsCommits_reseat s tid) (keepsCommits_spanChange _ tid))
      (keepsCommits_modGroup (fun g => { g with committing := false }) (fun _ => rfl) (fun _ => rfl) _ tid)
  · exact keepsCommits_refl s

end Sys2Proof.Proofs
end

section
/-! SUPPORT. The commit of an unpaired strip that holds stores alone (03 R45, R48). -/

namespace Sys2Proof.Proofs

open Sys2Proof.Machine Sys2Proof.Safety

/-- An effect is a store to an address that the module has a route to. -/
def RoutedStore (s : State) (e : Effect) : Prop :=
  ∃ lane pa va size value mask fill, e = .store lane pa va size value mask fill ∧ lostNode s pa = none

/-- A buffered store is performed: the bytes that it leaves are those that a load of the strip has seen over memory. -/
theorem performWrite_routedStore {s : State} {tid lnum : Nat} {e : Effect} {x : Thread} {g : Group} (hq : quiet s)
    (hm : Memory.wf s.sys.mem = true) (hx : s.thread tid = some x) (hg : x.group = some g) (he : RoutedStore s e) :
    let t := performWrite tid lnum false s e
    (∀ a, byteOf t a = overByte e a (byteOf s a)) ∧ Memory.wf t.sys.mem = true ∧ t.proctor = s.proctor
      ∧ (∀ pa, lostNode t pa = lostNode s pa) ∧ ∃ acks, t.thread tid = some { x with group := some { g with acks := acks } } := by
  obtain ⟨lane, pa, va, size, value, mask, fill, rfl, hl⟩ := he
  simp only [performWrite, withheld, Bool.false_and, Bool.false_eq_true, if_false, hl, touchUnits_quiet hq]
  refine ⟨fun a => ?_, State.store_wf hm _ _ _, rfl, fun _ => rfl,
    tablePut lane ((tableGet lane g.acks).getD 0 + 1) g.acks, ?_⟩
  · have mem (bs : List Byte) : byteOf (addAck (s.store pa bs fill) tid lane) a = readByte (writeBytes s.sys.mem pa bs) a := by
      rw [byteOf, addAck, State.modGroup_sys, State.store_sys, storeBytes_mem]
    rw [mem, readByte_writeBytes hm]
    by_cases covers : pa ≤ a ∧ a < pa + size
    · have inside : a - pa < size := by omega
      have at_a : pa + (a - pa) = a := by omega
      rw [dif_pos (by rwa [length_leBytes]), getElem_leBytes, byte_masked inside, field_readNat inside, at_a, overByte,
        if_pos (by simpa using covers)]
    · rw [dif_neg (by rwa [length_leBytes]), overByte, if_neg (by simpa using covers)]
      rfl
  · rw [addAck, State.thread_modGroup, if_pos rfl, State.store_thread, hx, Option.map_some, hg, Option.map_some]

/-- The strip's stores, performed in program order. -/
theorem foldl_performWrite_routedStore {tid lnum : Nat} {x : Thread} {es : List Effect} : ∀ {s : State} {g : Group}, quiet s →
    Memory.wf s.sys.mem = true → s.thread tid = some { x with group := some g } → (∀ e ∈ es, RoutedStore s e) →
    let t := es.foldl (performWrite tid lnum false) s
    (∀ a, byteOf t a = es.foldl (fun b e => overByte e a b) (byteOf s a))
      ∧ ∃ acks, t.thread tid = some { x with group := some { g with acks := acks } } := by
  induction es with
  | nil => exact fun _ _ hx _ => ⟨fun _ => rfl, _, hx⟩
  | cons e es ih =>
    intro s g hq hm hx he
    obtain ⟨bytes, wf, proctor, lost, acks, thread⟩ := performWrite_routedStore (lnum := lnum) hq hm hx rfl (he e List.mem_cons_self)
    have quiet' : quiet (performWrite tid lnum false s e) := by rw [quiet, proctor]; exact hq
    have rest (e') (h : e' ∈ es) : RoutedStore (performWrite tid lnum false s e) e' := by
      obtain ⟨lane, pa, va, size, value, mask, fill, rfl, hl⟩ := he e' (List.mem_cons_of_mem e h)
      exact ⟨lane, pa, va, size, value, mask, fill, rfl, (lost pa).trans hl⟩
    obtain ⟨bytes', acks', thread'⟩ := ih quiet' wf thread rest
    refine ⟨fun a => ?_, acks', thread'⟩
    rw [List.foldl_cons, List.foldl_cons, bytes', bytes]

/-- What the commit of a strip of stores leaves: bytes as its loads saw them, its flags merged, and nothing to issue. -/
theorem performStrip_routedStores {s : State} {tid : Nat} {x : Thread} {g : Group} {st : Strip} (hq : quiet s)
    (hm : Memory.wf s.sys.mem = true) (hx : s.thread tid = some x) (hg : x.group = some g) (solo : x.role = .solo)
    (he : ∀ e ∈ st.effects, RoutedStore s e) :
    let t := performStrip s tid st
    (∀ a, byteOf t a = st.effects.foldl (fun b e => overByte e a b) (byteOf s a))
      ∧ ∃ h, t.thread tid = some { x with ctx := { x.ctx with fflags := x.ctx.fflags ||| st.flags }, group := some h }
        ∧ h.core = g.core ∧ h.issues = g.issues ∧ h.leaving = g.leaving ∧ h.outgoing = g.outgoing := by
  have isStore (e) (h : e ∈ st.effects) : e.isWrite = true ∧ e.isNotify = false := by
    obtain ⟨_, _, _, _, _, _, _, rfl, -⟩ := he e h
    exact ⟨rfl, rfl⟩
  have writes : st.effects.filter Effect.isWrite = st.effects := List.filter_eq_self.2 (fun e h => (isStore e h).1)
  have issues : st.effects.filter (fun e => !e.isWrite && !e.isNotify) = [] :=
    List.filter_eq_nil_iff.2 (fun e h => by simp [(isStore e h).1])
  have own : s.thread tid = some { x with group := some g } := by rw [hx, ← hg]
  obtain ⟨bytes, acks, thread⟩ := foldl_performWrite_routedStore (lnum := x.lnum) hq hm own he
  have shadow : x.isShadow = false := by rw [Thread.isShadow, solo]; rfl
  simp only [performStrip, hx, shadow, writes, issues, List.append_nil]
  refine ⟨bytes, ?_⟩
  rw [State.thread_modGroup, if_pos rfl, mergeFlags, State.thread_modThread, if_pos rfl, thread]
  exact ⟨_, rfl, rfl, rfl, rfl, rfl⟩

/-- The group once its strip is committed: the strip closed, what it has consumed gone, one more strip counted. -/
def committedGroup (x : Thread) (g : Group) : Group :=
  { forgetTrap x g.core.vssn (dropConsumed g) with
    strip := none, core := { (dropConsumed g).core with vssn := g.core.vssn + 1 } }

theorem committedGroup_leaves (x : Thread) (g : Group) : (committedGroup x g).issues = g.issues
    ∧ (committedGroup x g).leaving = g.leaving ∧ (committedGroup x g).outgoing = g.outgoing := by
  unfold committedGroup forgetTrap
  split <;> exact ⟨rfl, rfl, rfl⟩

/-- A commit that has no post to wait for and no link result to deliver performs the strip and closes it. -/
theorem toBoundary_commit {s : State} {tid : Nat} {x : Thread} {g : Group} {st : Strip} (hx : s.thread tid = some x)
    (hg : x.group = some g) (solo : x.role = .solo) (strip : g.strip = some st) (queue : g.queue = []) (posts : g.posts = [])
    (outgoing : g.outgoing = []) :
    toBoundary s tid = settleBoundary ((performStrip s tid st).modGroup tid (committedGroup x)) tid := by
  have unpaired : x.isPaired = false := by rw [Thread.isPaired, solo]
  have live : livePosts s [] = [] := rfl
  have room (s : State) : linksHaveRoom s tid [] = true := rfl
  have noPosts : s.modGroup tid (fun g => { g with posts := [] }) = s := modGroup_self hx hg (by rw [← posts])
  simp only [toBoundary, hx, hg, strip, queue, posts, outgoing, unpaired, live, room, noPosts, List.any_nil, Bool.false_eq_true,
    if_false, List.isEmpty_nil, Bool.not_true, Bool.or_self]
  rfl

/-- Settles O30: the stores go to memory as the strip's loads have seen them, and what then settles at the boundary keeps both
memory and the committed group. -/
theorem commitWritesWhatLoadsSaw : Obligations.CommitWritesWhatLoadsSaw := by
  unfold Obligations.CommitWritesWhatLoadsSaw
  intro s tid v st hv hm hq solo strip queue closed posts issues notifies leaving outgoing he
  obtain ⟨-, hx, hg⟩ := vctx_some hv
  obtain ⟨bytes, h, thread, core, hi, hl, ho⟩ := performStrip_routedStores hq hm hx hg solo he
  have visible : v.g.visible = st.effects := by rw [Group.visible, closed, strip]; rfl
  obtain ⟨ci, cl, co⟩ := committedGroup_leaves v.t h
  have committed : ((performStrip s tid st).modGroup tid (committedGroup v.t)).thread tid = some { v.t with
      ctx := { v.t.ctx with fflags := v.t.ctx.fflags ||| st.flags }, group := some (committedGroup v.t h) } := by
    rw [State.thread_modGroup, if_pos rfl, thread, Option.map_some, Option.map_some]
  have keeps := keepsCommits_settleBoundary committed rfl rfl (ci.trans (hi.trans issues)) (cl.trans (hl.trans leaving))
    (co.trans (ho.trans outgoing))
  have vssn : (committedGroup v.t h).core.vssn = v.g.core.vssn + 1 := congrArg (fun c => c.vssn + 1) core
  rw [toBoundary_commit hx hg solo strip queue posts outgoing]
  refine ⟨fun a => ?_, keeps.commits tid _ _ ⟨_, _, committed, rfl, rfl, rfl, vssn⟩⟩
  rw [overStrip, visible, ← bytes, byteOf, keeps.mem, State.modGroup_sys, byteOf]

end Sys2Proof.Proofs
end
